-- ==== Sys2Proof/Word.lean ====
section
/-! DEFINITION. The word types of the TK8 block: bytes, register words, and sparse tables keyed by number. -/

namespace Sys2Proof

/-- One byte (R18: multi-byte fields are little-endian sequences of these). -/
abbrev Byte := BitVec 8

/-- A 32-bit lane word (R105). -/
abbrev Lane := BitVec 32

/-- A 64-bit register or object word (R167, R417). -/
abbrev Word := BitVec 64

/-- A sparse table: entries keyed by number. The operations over it are in Machine/Ops.lean. -/
abbrev Tbl (α : Type) := List (Nat × α)

end Sys2Proof
end

