-- ==== Sys2Proof/Syntax.lean ====
section
/-! DEFINITION. The commands of the TK8 block: one constructor of Instr per row of spec/opcode_table.json, with the
operands the spec's layouts give the row (R308 for host commands, R316 for packets, the owning rule for events). -/

namespace Sys2Proof

/-- What a started host command carries of its packet header (R303) and of the ring slot it came from (R297).
fn 0 to 15 are the virtual functions, 16 the physical function (R291). idx is the packet's number in its ring's
FETCHED count. -/
structure Cmd where
  fn : Nat
  ring : Nat
  idx : Nat
  tag : BitVec 32
  part : Nat
  trueColour : Bool
  msix : Bool
  lane : Nat
  completion : BitVec 32
  deriving DecidableEq, Repr

/-- A unit's full identity: module, unit identifier and incarnation (R168, R180). -/
structure UnitId where
  module : Nat
  unit : Nat
  inc : Nat
  deriving DecidableEq, Repr

/-- Who issues a synchronisation operation: a host function by command (R309), or a unit (R170). -/
inductive Issuer where
  | host (c : Cmd)
  | unit (part : Nat) (u : UnitId)
  deriving DecidableEq, Repr

/-- Packet types of the header word (R316). -/
inductive PktType where
  | write | readReq | readData | ack | refusal | signal | queueOp | lockOp | streamOpen | fenceProbe | fenceAnswer
  | relay | rangeCheck | queueCreditReturn | reserved
  deriving DecidableEq, Repr

/-- A packet: the two header words of R316 and its data. part is the partition the issuing unit belongs to, which
every request is checked against (R152, R179). dstUnit is the unit of the destination module a reply goes to and status
the status a refusal or a lock answer carries, or a stream's number: the header table lays out none of them (log entry 12). port is the lantern port a collective's
group names (R263), which stands in no header: a packet without one takes its route's. -/
structure Pkt where
  type : PktType
  src : Nat
  dst : Nat
  cls : Nat
  subch : Nat
  hops : Nat
  plane : Nat
  srcUnit : Nat
  srcInc : Nat
  part : Nat
  arg : BitVec 64
  arg2 : BitVec 64
  data : List Byte
  dstUnit : Nat := 0
  status : Nat := 0
  port : Option Nat := none
  deriving DecidableEq, Repr

/-- Allocation classes of the region cache (R147). -/
inductive AllocClass where
  | normal | stream | none
  deriving DecidableEq, Repr

/-- The parameter block DMA_COPY shares with the other DMA commands (R308). -/
structure DmaParams where
  src : Nat
  dst : Nat
  length : Nat
  classSrc : AllocClass
  classDst : AllocClass
  channel : Nat
  region : Nat
  deriving DecidableEq, Repr

/-- OUTCTL and AXIS bits and the plan reference at bytes 0 to 7 of a compute command (R308). -/
structure ComputeHead where
  plan : Nat
  template : Nat
  sat : Bool
  sr : Bool
  srCounter : Bool
  axisA : Bool
  axisB : Bool
  deriving DecidableEq, Repr

/-- ALPHA, BETA, BIAS, SEED and STREAM of a compute command (R308, R310). -/
structure EpiParams where
  bias : Nat
  alpha : BitVec 32
  beta : BitVec 32
  seed : BitVec 64
  stream : BitVec 32
  deriving DecidableEq, Repr

/-- GEMM's block (R308). -/
structure GemmParams where
  head : ComputeHead
  m : Nat
  n : Nat
  k : Nat
  batch : Nat
  a : Nat
  b : Nat
  d : Nat
  epi : EpiParams
  deriving DecidableEq, Repr

/-- CONV's block (R308, R95). -/
structure ConvParams where
  head : ComputeHead
  nb : Nat
  h : Nat
  w : Nat
  c : Nat
  oc : Nat
  kh : Nat
  kw : Nat
  sh : Nat
  sw : Nat
  dh : Nat
  dw : Nat
  pt : Nat
  pb : Nat
  pl : Nat
  pr : Nat
  input : Nat
  weight : Nat
  output : Nat
  epi : EpiParams
  deriving DecidableEq, Repr

/-- ATTN_FWD's block (R308). -/
structure AttnParams where
  head : ComputeHead
  list : Nat
  count : Nat
  scale : BitVec 32
  q : Nat
  o : Nat
  qHeads : Nat
  kvHeads : Nat
  headDim : Nat
  seed : BitVec 64
  stream : BitVec 32
  drop : BitVec 32
  deriving DecidableEq, Repr

/-- REDUCE's block (R308). op 0 SUM, 1 MAX, 2 MIN. -/
structure ReduceParams where
  head : ComputeHead
  op : Nat
  src : Nat
  dst : Nat
  outer : Nat
  extent : Nat
  inner : Nat
  window : Nat
  stride : Nat
  deriving DecidableEq, Repr

/-- Canvas shapes (R77) and AUTO (R88). -/
inductive Shape where
  | auto | square | wide | strip
  deriving DecidableEq, Repr

/-- A candidate record (R116). A visit order is (ORDER, G). -/
structure Candidate where
  mt : Nat
  nt : Nat
  kt : Nat
  shape : Shape
  gk : Nat
  gm : Nat
  gn : Nat
  ordPal : Nat × Nat
  ordRc : Nat × Nat
  ordHbm : Nat × Nat
  halo : Bool
  mcastFirst : Nat
  mcastCount : Nat
  fixedNs : Nat
  deriving DecidableEq, Repr

/-- A prefetch hint of a template (R153, R154): its lines are base + k × stride, taken in the visit order (R122) of a grid of rows by
cols, order holding ORDER in bits [7:6] and G − 1 in [5:0]. -/
structure Hint where
  region : Nat
  base : Nat
  stride : Int
  count : Nat
  distance : Nat
  order : Nat := 0
  rows : Nat := 1
  cols : Nat := 1
  deriving DecidableEq, Repr

/-- What a command template gives (R310, R134, R114, R128): formats, bucket lists, PAD values, strides, shape force,
bounds and its 32-byte candidate records (R116), one list per bucket combination in the order M, N, K. A static dimension is
one bucket. A scale field is how many bytes past its operand an MX operand's scale array starts; strides are batch strides in
elements. layer is the layer whose keys and values an attention template reads. isMatrix says that the template is of GEMM or
GEMM_BATCHED_PTR, isAttn of ATTN_FWD or ATTN_BWD; exact, beta and bias say what the checks of R113 take of its commands (log entry 39). -/
structure Template where
  fmtA : Nat
  fmtB : Nat
  fmtOut : Nat
  fmtC : Nat
  fmtBias : Nat
  bucketsM : List Nat
  bucketsN : List Nat
  bucketsK : List Nat
  bucketsC : List Nat
  padA : BitVec 32
  padB : BitVec 32
  shape : Shape
  blocksAlongK : Bool
  scaleA : Nat
  scaleB : Nat
  scaleD : Nat
  strideA : Nat
  strideB : Nat
  strideC : Nat
  weightsB : Bool
  layer : Nat
  staticKH : Option Nat
  staticDH : Option Nat
  isConv : Bool
  records : List (List (List Byte))
  hints : List Hint
  isMatrix : Bool := false
  isAttn : Bool := false
  exact : Bool := false
  beta : Bool := false
  bias : Bool := false
  deriving DecidableEq, Repr

/-- A cheap point and its live ranges (R350): (core, space, start, count). -/
structure CheapPoint where
  template : Option Nat
  tileIndex : Nat
  ranges : List (Nat × Nat × Nat × Nat)
  deriving DecidableEq, Repr

/-- A buffer of a plan (R138, R139): its placement as a byte offset, its size in bytes, its element format, and whether it holds an
MX operand's scales. -/
structure PlanBuffer where
  offset : Nat
  size : Nat
  fmt : Nat
  scales : Bool
  deriving DecidableEq, Repr

/-- What Birzu reads out of a plan image's sections beyond the bytes R138 and R350 lay out (R138). exactBounds are the declared
counts of exact accumulations (R110), listCapacities those of pointer lists (R132); programs holds the format codes each brush
program selects (R46). -/
structure PlanBody where
  templates : List Template
  exactBounds : List Nat
  listCapacities : List Nat
  programs : List (List Nat)
  buffers : List PlanBuffer
  multicast : List (Nat × Nat × BitVec 128)
  cheapPoints : List CheapPoint
  tasks : List (Nat × List (BitVec 32) × List (BitVec 32 × BitVec 32))
  flagKinds : List (Nat × Nat)
  layers : Nat
  kvBuckets : List Nat
  bptl : Nat
  deriving DecidableEq, Repr

/-- A tile descriptor (R84, R113, R120): its clamped extents, where its operands lie and how they are walked (lda and ldb
are elements between stored rows), its place in its command's product (job, item and offsets), its chunk of a split K,
whether it ends its chunk's K walk, and whether it is run as the transposed product (R89). A job that does not exist is
none: the descriptor is a brush program's own. loopsA and loopsB are up to five nested loops, innermost first, each with its extent and
signed byte stride, that give the starts of an operand's rows (R81); without any the rows follow lda or ldb. -/
structure TileDesc where
  job : Nat
  item : Nat
  mt : Nat
  nt : Nat
  kt : Nat
  shape : Shape
  fmtA : Nat
  fmtB : Nat
  aAddr : Nat
  bAddr : Nat
  aScale : Nat
  bScale : Nat
  lda : Nat
  ldb : Nat
  axisA : Bool
  axisB : Bool
  padA : BitVec 32
  padB : BitVec 32
  rowOff : Nat
  colOff : Nat
  kOff : Nat
  chunk : Nat
  chunks : Nat
  lastK : Bool
  accContinue : Bool
  exact : Bool
  betaNonzero : Bool
  biasPresent : Bool
  fmtOut : Nat
  fmtC : Nat
  fmtBias : Nat
  accBase : Nat
  swapped : Bool
  loopsA : List (Nat × Int) := []
  loopsB : List (Nat × Int) := []
  deriving DecidableEq, Repr

/-- Vector instruction operands (R105, R111): the physical core, destination and source registers, an optional
predicate register, and whether the lanes are BF16 pairs. -/
structure VOp where
  core : Nat
  dst : Nat
  a : Nat
  b : Nat
  c : Nat
  pred : Option Nat
  bf16 : Bool
  deriving DecidableEq, Repr

/-- The output format of an ACCRDX that rounds its elements directly into it (R54, R65): SAT, stochastic rounding, and the seed and
stream of COUNTER draws. -/
structure OutForm where
  format : Nat
  sat : Bool
  sr : Bool
  counter : Option (BitVec 64 × BitVec 32)
  deriving DecidableEq, Repr

/-- What ACCRDX reads with: the window base its elements are relative to, and the output format it rounds into, FP32 where none. -/
structure ExactRead where
  windowBase : Int
  out : Option OutForm := none
  deriving DecidableEq, Repr

/-- The lanes of a core a predicate register makes active: all where none (R111). -/
structure LaneSet where
  core : Nat
  pred : Option Nat := none
  deriving DecidableEq, Repr

/-- Compare conditions of VCMP (R111). -/
inductive CmpCond where
  | eq | ne | lt | le | gt | ge
  deriving DecidableEq, Repr

/-- Scalar pipe operations (R109): 64-bit integer, FP32, branch and counted loop, and the end of the program. -/
inductive ScalarOp where
  | add | sub | mul | and | or | xor | shl | shr | sar | slt | sltu | seq
  | fadd | fsub | fmul | ffma | fmax | fmin | flt | feq
  | branch | branchNz | loop | readArmed | imm | finish
  deriving DecidableEq, Repr

/-- The operations a unit performs on a local flag (R169). -/
inductive FlagOp where
  | signal (v : BitVec 64) (blocking : Bool)
  | waitFlag (consume : Bool)
  | waitTarget (t : BitVec 48)
  | lock
  deriving DecidableEq, Repr

/-- What another module's engine asks of a queue (R210, R211, R213): a producer's request, a close with whether a slot of the packet
reads uncorrectable; a REMOTE credit change; or whether a proxy gave back the credits it was asked for. -/
inductive QueueReq where
  | open (tag : BitVec 32)
  | push (payload : List Byte)
  | close (length : BitVec 32) (uncorrectable : Bool)
  | credit (delta : Int)
  | ceded (granted : Bool)
  deriving DecidableEq, Repr

/-- Lock operations that arrive from another module (R316). -/
inductive LockReq where
  | acquire (blocking : Bool) (timeout : Nat)
  | release
  deriving DecidableEq, Repr

/-- Who writes a management register (R418, R422). -/
inductive RegPath where
  | pf | smbus | i3c | mctp | keeper (unit : Nat) | vf (n : Nat)
  deriving DecidableEq, Repr

/-- What a core's error logic found (R74, R75, R367): the residue of a column of a pass off by an error in its sum, the two copies of
the FP32 stage with different results, or a poisoned operand of memory or of the core's own palette. -/
inductive FaultSource where
  | residue (pass column : Nat) (delta : Int)
  | duplicate (stage copy : Lane)
  | memory (region : Nat) (addr : Nat)
  | palette (offset : Nat)
  deriving DecidableEq, Repr

/-- What a step's commands produced for one sequence: the logits rows of its sampled positions (R245), and by layer the staging rows its
append scatters (R254). -/
structure StepLogits where
  seq : BitVec 32
  rows : List (List (BitVec 32))
  kv : List (List (BitVec 8)) := []
  deriving DecidableEq, Repr

/-- Collective group member entry (R308 GROUP_SET). -/
structure GroupMember where
  module : Nat
  nextPort : Nat
  prevPort : Nat
  deriving DecidableEq, Repr

/-- Optimizer parameters (R308, R273). -/
structure OptParams where
  sgd : Bool
  workingFormat : Nat
  sr : Bool
  lr : BitVec 32
  b1 : BitVec 32
  b2 : BitVec 32
  eps : BitVec 32
  wd : BitVec 32
  growth : Nat
  state : Nat
  seed : BitVec 64
  deriving DecidableEq, Repr

/-- A result report of one lane of a received slot (R326): did the 16 codewords decode, and the slot's link word. -/
structure SlotRx where
  decoded : List Bool
  corrected : List Nat
  link : BitVec 128
  deriving DecidableEq, Repr

/-- A lane that locked in training (R321 to R323): its physical number, the transmitting lane its markers name, how many picoseconds it
lies behind the earliest, and the bit position of its last marker. -/
structure RxLane where
  lane : Nat
  sent : Nat
  skewPs : Nat
  place : Nat
  deriving DecidableEq, Repr

/-- What a P0 message says: the encodings of its chunks are not in the spec beyond its length (R325), so the meaning of the two messages
of R333 and of a time probe (R335: its t1, the t2 stamped here, and whether its first chunk came from a replay) is an operand. Every other
message is delivered as it is. -/
inductive P0Says where
  | other
  | askLastIndex (failedPort : Nat)
  | lastIndex (failedPort index : Nat)
  | timeProbe (t1 t2 : BitVec 64) (replayed : Bool)
  deriving DecidableEq, Repr

/-- What the tests of a boot reported (R392): cores and keepers that failed, an address of each failing HBM row, the spare rows and lanes each
stack advertises, the spare rows of each die, and the die-to-die modules that failed. -/
structure BootFindings where
  failedCores : List Nat
  failedKeepers : List Nat
  hbmFailing : List Nat
  hbmSpareRows : List Nat
  hbmSpareLanes : List Nat
  sramSpareRows : List Nat
  ucieFailed : List (Nat × Nat)
  deriving DecidableEq, Repr

/-- What a buddy module answers before a copy (R385): whether there is a route to it, whether it answers within 10 ms, whether it
names this module as partner, where its area lies and what a half holds, and the epochs of the halves that are COMPLETE. -/
structure BuddyFound where
  route : Bool
  answers : Bool
  partner : Bool
  base : Nat
  halfBytes : Nat
  epochs : List (Option Nat)
  deriving DecidableEq, Repr

/-- Error reports that reach a handler (R366, R378). -/
inductive Report where
  | persistentCore (core : Nat)
  | paletteDbe (core : Nat) (offset : Nat)
  | switchSbe (block : Nat)
  | switchDbe (block : Nat)
  | regionFault (region : Nat)
  | meshUncorrectable (region : Nat)
  | freeListMismatch (region : Nat)
  | hbmLane (stack channel lane : Nat)
  | hbmChannel (stack channel : Nat)
  | prefetchLatent (region : Nat)
  | fog (bit : Nat) (unit : Nat)
  | keeperPairLost (region : Nat)
  | blockRetired (block : Nat)
  deriving DecidableEq, Repr

/-- What a WAIT waits on: a handle, and the module it names where the issuer gives one (R166, R177). -/
structure WaitOn where
  handle : BitVec 32
  module : Option Nat := none
  deriving DecidableEq, Repr

/-- A write packet as it arrives, and whether a line it merges with in part turns out uncorrectable (R430). -/
structure WriteIn where
  packet : Pkt
  badLine : Bool := false
  deriving DecidableEq, Repr

/-- The sense a member of a block barrier carries, and whether it now waits for that episode's end (R195). -/
structure BarrierTurn where
  sense : Bool
  wait : Bool
  deriving DecidableEq, Repr

/-- A child of a barrier tree's node (R197). -/
structure TreeChild where
  node : Nat
  child : Nat
  deriving DecidableEq, Repr

/-- One of the flushes that wait at a queue, oldest first (R217). -/
structure FlushRef where
  queue : Nat
  index : Nat
  deriving DecidableEq, Repr

/-- What a backward pass computed: the payloads it publishes, and the gradients it adds, as buffer and FP32 values (R227, R228). -/
structure BackwardOut where
  items : List (List Byte)
  grads : List (Nat × List Lane)
  deriving DecidableEq, Repr

/-- What a receiver finds at a place where a marker can stand: the marker's pattern there, and whether the codeword decodes (R322). -/
structure MarkerSeen where
  pattern : Bool
  decodes : Bool
  deriving DecidableEq, Repr

/-- The commands of the block: one constructor per row of the table, in the table's order. -/
inductive Instr where
  -- partitions and plans (classes 0x00)
  | partConfig (c : Cmd) (target : Nat) (enable : Bool) (mask : BitVec 96)
  | quotaSet (c : Cmd) (target : Nat) (hbmMib syncObjects queues queueSlots sequences clients kvPoolMib : Nat)
  | loadPlan (c : Cmd) (addr size : Nat) (body : PlanBody)
  | unloadPlan (c : Cmd) (plan : Nat)
  | objAlloc (c : Cmd) (count kind : Nat) (monotonic : Bool) (region : Nat)
  | objFree (c : Cmd) (handle : BitVec 32) (count : Nat)
  | hostwordSet (c : Cmd) (entry kind : Nat) (msix : Bool) (vector addr : Nat)
  | taskBegin (c : Cmd) (plan task : Nat)
  | taskEnd (c : Cmd) (plan task : Nat)
  -- DMA (class 0x01)
  | dmaCopy (c : Cmd) (d : DmaParams)
  | dmaGather (c : Cmd) (d : DmaParams) (index esize count : Nat)
  | dmaScatter (c : Cmd) (d : DmaParams) (index esize count : Nat)
  | dmaFill (c : Cmd) (pattern : BitVec 64) (d : DmaParams)
  | dmaPageWalk (c : Cmd) (d : DmaParams) (srcPaged dstPaged : Bool) (srcList dstList srcEntries dstEntries : Nat)
  | swapOut (c : Cmd) (seq : BitVec 32) (host : Nat)
  | swapIn (c : Cmd) (seq : BitVec 32)
  -- compute (class 0x02)
  | gemm (c : Cmd) (p : GemmParams)
  | gemmBatchedPtr (c : Cmd) (p : GemmParams) (list count : Nat)
  | conv (c : Cmd) (p : ConvParams)
  | attnFwd (c : Cmd) (p : AttnParams)
  | attnBwd (c : Cmd) (p : AttnParams) (dO dQ dKV : Nat)
  | brushRun (c : Cmd) (plan program args argBytes : Nat) (stream : BitVec 32) (seed : BitVec 64)
  | reduce (c : Cmd) (p : ReduceParams)
  -- synchronisation (class 0x03)
  | signal (who : Issuer) (handle : BitVec 32) (module : Nat) (blocking remote : Bool) (v : BitVec 64)
  | wait (who : Issuer) (on : WaitOn) (peek : Bool) (target : BitVec 48) (timeout : Nat)
  | fencedSignal (who : Issuer) (core : Nat) (handle : BitVec 32) (module : Nat) (blocking remote : Bool)
      (v : BitVec 64)
  | barrierArm (c : Cmd) (tree : Bool) (barrier block : Nat) (mask : BitVec 9) (treeId group : Nat)
  | objRead (c : Cmd) (handle : BitVec 32) (view : Nat)
  | objReset (c : Cmd) (handle : BitVec 32)
  | lockAcquire (who : Issuer) (handle : BitVec 32) (module : Nat) (blocking remote : Bool) (timeout : Nat)
  | lockRelease (who : Issuer) (handle : BitVec 32) (module : Nat) (remote : Bool)
  -- queues and stages (classes 0x04, 0x05)
  | queueCreate (c : Cmd) (region width consumer high low : Nat) (publish watermark reset : BitVec 32)
      (producers : List (Nat × Nat))
  | queueCredit (c : Cmd) (queue endpoint : Nat) (remote : Bool) (delta : Int) (module : Nat)
  | queueFlush (c : Cmd) (queue timeout : Nat)
  | queueDestroy (c : Cmd) (queue : Nat)
  | stageConfig (c : Cmd) (stages index nmb inFlight schedule fwdIn fwdOut bwdIn bwdOut fwdOutModule bwdOutModule plan
      fwdList bwdList : Nat)
  | stageRun (c : Cmd) (step : Nat)
  | stageDrain (c : Cmd) (cut timeout : Nat)
  | stageOffload (c : Cmd) (k tokens hostBuf hostBytes bytesPerLayer : Nat)
  -- serving (class 0x06)
  | seqCreate (c : Cmd) (model priority client maxLength promptLength : Nat) (lookup : Bool) (prompt tokenRec : Nat)
      (temperature : BitVec 32) (topK : Nat) (stop : BitVec 32) (seed : BitVec 64)
  | seqStep (c : Cmd) (model chunk budget result resultEntries : Nat) (predictNs : Nat)
  | seqVerify (c : Cmd) (seq : BitVec 32) (count : Nat) (external : Bool) (cand : Nat)
  | seqRollback (c : Cmd) (seq : BitVec 32) (n : Nat) (t : BitVec 32)
  | seqFork (c : Cmd) (parent : BitVec 32) (seed : BitVec 64) (tokenRec : Nat)
  | seqRelease (c : Cmd) (seq : BitVec 32)
  | prefixLookup (c : Cmd) (model promptLength prompt : Nat)
  | deadlineSet (c : Cmd) (seq : BitVec 32) (interval : Nat) (deadline : BitVec 64) (fallback : Nat)
  -- learning (class 0x07)
  | groupSet (c : Cmd) (group kind : Nat) (members : List GroupMember)
  | bucketConfig (c : Cmd) (group format : Nat) (buckets : List (Nat × Nat × Nat × Nat)) (telemetry records : Nat)
  | allreduce (c : Cmd) (group format addr length : Nat)
  | normGlobal (c : Cmd) (group layers : Nat) (skip : Bool) (maxNorm : BitVec 32) (timeout : Nat)
  | optimizerStep (c : Cmd) (p : OptParams)
  | genStage (c : Cmd) (gen stallMs layerList layers : Nat) (notice : BitVec 32) (noticeModule model source : Nat)
  | genFlip (c : Cmd) (model : Nat) (atomic : Bool) (gen timeout : Nat) (layers : List Nat)
  | genRetire (c : Cmd) (model gen timeout : Nat)
  -- experts (class 0x08)
  | expertMapSet (c : Cmd) (count list : Nat)
  | tokenDispatch (c : Cmd) (t k : Nat) (nextChoice : Bool) (routing rows list listCount rowBytes : Nat)
  | tokenCombine (c : Cmd) (t k : Nat) (addResidual : Bool) (routing out list listCount rowBytes : Nat)
  -- checkpoints (class 0x09)
  | ckptBuddy (c : Cmd) (epoch buddy table : Nat) (signature : BitVec 64) (found : BuddyFound)
  -- copy: the bytes of the half of SOURCE's area whose COMPLETE copy has the epoch, where SOURCE is another module
  | ckptRestore (c : Cmd) (epoch source table : Nat) (signature : BitVec 64) (copy : Option (List Byte))
  | ckptPolicy (c : Cmd) (codes : List Nat) (onFog : Bool) (minInterval : Nat)
  -- scheduling and maintenance (classes 0x0A, 0x0B)
  | schedParams (c : Cmd) (target mode kvPolicy pageMax slice drainTimeout : Nat)
  | preemptSoft (c : Cmd) (target job : Nat)
  | preemptHard (c : Cmd) (target job : Nat)
  | resume (c : Cmd) (target job : Nat)
  | accountRead (c : Cmd) (what : Nat) (clear : Bool) (client : Nat) (seqOrModel : BitVec 32) (dest : Nat)
  | unitRetire (c : Cmd) (unit : Nat)
  | unitRequalify (c : Cmd) (unit : Nat)
  | fwSlotWrite (c : Cmd) (slot image bytes : Nat) (signatureOk : Bool) (version security minPeer : Nat)
  | fwSlotActivate (c : Cmd) (slot : Nat) (authOk : Bool)
  | fwSlotQuery (c : Cmd) (image : Nat)
  | logRead (c : Cmd) (first count : Nat) (protectedOnly : Bool) (dest : Nat)
  | logClear (c : Cmd) (first count : Nat)
  | timeSet (c : Cmd) (time : BitVec 64) (atNextPps : Bool)
  -- brush instructions (R111)
  | vadd (o : VOp) | vsub (o : VOp) | vmul (o : VOp) | vfma (o : VOp) | vmax (o : VOp) | vmin (o : VOp)
  | vabs (o : VOp) | vneg (o : VOp) | viadd (o : VOp) | vimul (o : VOp) | vand (o : VOp) | vor (o : VOp)
  | vxor (o : VOp) | vshl (o : VOp) | vshr (o : VOp)
  | vcmp (o : VOp) (cond : CmpCond) (int : Bool) (pdst : Nat)
  | vsel (o : VOp) (psel : Nat)
  | vclass (o : VOp)
  | vcvt (o : VOp) (source format : Nat) (sat sr : Bool) (counter : Option (BitVec 64 × BitVec 32))
  | vpackmx (o : VOp) (format : Nat) (sr : Bool) (counter : Option (BitVec 64 × BitVec 32)) (dest scaleDest : Nat)
  | vunpackmx (o : VOp) (format : Nat) (src scaleSrc : Nat)
  | vexp2 (o : VOp) | vlog2 (o : VOp) | vrcp (o : VOp) | vsqrt (o : VOp) | vrsq (o : VOp) | vtanh (o : VOp)
  | vsigm (o : VOp) | verf (o : VOp) | vsin (o : VOp) | vcos (o : VOp)
  | vrsum (o : VOp) | vrmax (o : VOp) | vrmin (o : VOp) | vrmaxexp (o : VOp)
  | xwin (core xa : Nat) (sreg : Nat)
  | vsumx (o : VOp) (xa : Nat)
  | xrnd (core xa : Nat) (sdst : Nat)
  | xclr (core xa : Nat)
  | vld (o : VOp) (addr : Nat)
  | vst (o : VOp) (addr : Nat)
  | vgath (o : VOp) (base : Nat)
  | vscat (o : VOp) (base : Nat)
  | vbcast (o : VOp) (sreg : Nat)
  | vshuf (o : VOp)
  | accrd (o : VOp) (offset : Nat)
  | accrdx (o : VOp) (offset : Nat) (read : ExactRead)
  | accwr (o : VOp) (offset : Nat)
  | vrand (o : VOp) (counter : Option (BitVec 64 × BitVec 32 × Nat))
  | vrseed (lanes : LaneSet)
  | tile (core : Nat) (d : TileDesc)
  | fence (core : Nat)
  | localFlagOperation (who : Issuer) (handle : BitVec 32) (op : FlagOp)
  | scalarPipeInstruction (core : Nat) (op : ScalarOp) (dst a b : Nat) (k : BitVec 64)
  | directStore (core : Nat) (addr : Nat) (data : List Byte) (refusedBy : Bool)
  | directLoad (core : Nat) (sdst : Nat) (addr width : Nat)
  -- tiles and combining
  | tileCompletion (core : Nat)
  | computeFault (core : Nat) (source : FaultSource)
  | tileReissue (core : Nat)
  | partialTileDelivery (core : Nat)
  | combineAccept (region : Nat)
  | combineCreditReturn (core : Nat)
  -- memory
  | paletteScrub (core word : Nat) (errorBits : Nat)
  | cacheAccess (part : Nat) (addr : Nat) (write : Bool) (bytes : Nat) (cls : AllocClass) (uncorrectable : List Nat)
  | prefetchTrainingMiss (region part addr : Nat)
  | prefetchIssue (region index : Nat) (uncorrectable : List Nat)
  | hbmRefresh (stack bank : Nat)
  | ecsRead (stack count : Nat)
  | hbmTemperatureRead (stack : Nat) (temperature : Int)
  -- DMA packets
  | dmaPacketIssue (region channel : Nat)
  | dmaPacketTimeout (region channel seq : Nat)
  | write (w : WriteIn)
  | readReq (p : Pkt)
  | readData (p : Pkt) (poisoned : Bool)
  | ack (p : Pkt)
  | refusal (p : Pkt)
  -- synchronisation events
  | signalApply (p : Pkt) (handle : BitVec 32) (blocking : Bool)
  | queueOp (p : Pkt) (endpoint : Nat) (qgen : BitVec 8) (req : QueueReq)
  | lockOp (p : Pkt) (handle : BitVec 32) (req : LockReq)
  | streamOpen (port stream : Nat) (p : Pkt)
  | fenceProbe (p : Pkt) (destination : Nat)
  | fenceAnswer (core destination : Nat)
  | fencedSignalTimeout (core : Nat)
  | relay (die : Nat) (p : Pkt)
  | rangeCheck (p : Pkt) (length : Nat)
  | queueCreditReturn (p : Pkt) (endpoint : Nat)
  | creditReturnSend (queue endpoint : Nat)
  | waitTimeout (who : Issuer) (handle : BitVec 32)
  | wake (core : Nat)
  | ownerSweep (region : Nat) (owner : UnitId)
  | barrierArrive (u : UnitId) (block barrier slot : Nat) (turn : BarrierTurn)
  | treeNodeArrival (site : Nat) (place : TreeChild)
  | signalWindowWrite (vf offset size : Nat) (v : BitVec 64)
  -- host interface events: hostBlock is what a parameter block in host memory reads as (R304)
  | submitDoorbell (fn offset size : Nat) (value : BitVec 64)
  | completionDoorbell (fn offset size : Nat) (value : BitVec 64)
  | commandFetch (fn ring : Nat) (packet : List Byte)
  | commandStart (fn ring : Nat) (hostBlock : List Byte)
  | replyWrite (fn ring : Nat)
  | realignment (fn ring : Nat)
  | ringError (fn ring : Nat) (recordWritable : Bool)
  | functionLevelReset (fn : Nat)
  -- queue engine: a queue below 2^16 is a handle of this module; above, its quotient by 2^16 less 1 is the module of a
  -- remote queue (R204, R213)
  | qopen (u : UnitId) (queue endpoint : Nat) (tag : BitVec 32)
  | qpush (u : UnitId) (queue endpoint : Nat) (payload : List Byte)
  | qclose (u : UnitId) (queue endpoint : Nat) (length : BitVec 32) (uncorrectable : Bool)
  | queuePop (u : UnitId) (queue : Nat) (badNext : Bool)
  | queueResetEnd (queue : Nat)
  | proxyQgenUpdate (module queue endpoint : Nat) (qgen : BitVec 8)
  | queueFlushBoundary (queue : Nat)
  | queueFlushTimeout (flush : FlushRef)
  | queueDestroyTimeout (queue : Nat)
  | producerDisconnect (queue endpoint module : Nat)
  -- stage sequencer: items are the payloads a pass publishes, status what its commands returned; an off-load and a return are
  -- DMAs of bytes between the partition's HBM and the host buffer on a channel, 255 being the least busy (R232, R431)
  | forwardPass (part mb : Nat) (items : List (List Byte)) (status : Nat)
  | backwardPass (part mb : Nat) (out : BackwardOut) (status : Nat)
  | activationOffload (part mb layer tokens src host bytes channel : Nat)
  | activationReturn (part mb layer host dst bytes channel : Nat)
  | stageDrainTimeout (part : Nat)
  -- serving and learning events
  | stepCommit (part : Nat) (logits : List StepLogits) (failed : Option (Nat × List (BitVec 32))) (durationNs : Nat)
  | bucketFill (part bucket : Nat)
  | ringStep (part group step : Nat) (incoming : List Byte)
  | ringStepTimeout (part group : Nat) (dark : Bool)
  | normNodeArrival (die node child : Nat) (vector : List (BitVec 32)) (nonfinite : Option Nat)
  | normGlobalTimeout (part : Nat)
  | expertMapApply (part : Nat)
  | stagingChunk (part model layer : Nat)
  | stagingStallTimeout (part model : Nat)
  | layerPrePass (part model layer : Nat)
  | repaint (part model : Nat)
  | genFlipTimeout (part model : Nat)
  | genRetireTimeout (part model : Nat)
  | drainTimeout (part model : Nat)
  -- lantern ports
  | slotReceive (port : Nat) (rx : SlotRx)
  | dataFrame (port stream : Nat) (data : List Byte)
  | msgFrame (port cls subch : Nat) (packets : List Pkt)
  | replayBufferFull (port : Nat)
  | marker (port lane position : Nat) (seen : MarkerSeen)
  | laneMapChange (port : Nat) (transmit : Bool) (logical physical slot : Nat)
  | p0Message (port : Nat) (chunks : List (BitVec 32)) (meant : P0Says)
  | portDown (port cause : Nat)
  | portTraining (port : Nat) (rxLanes : List RxLane) (txLanes : List Nat) (flightNs peerModule peerBoot : Nat) (selfConnected : Bool)
  | packetForward (inPort : Option Nat) (p : Pkt)
  | creditStall (port cls subch : Nat)
  | timeProbe (port : Nat)
  | timeReply (port : Nat) (t1 t2 t3 t4 : BitVec 64) (replayed : Bool)
  | ppsHoldover
  | timePps (stamp : BitVec 64) (confirmed : Bool)
  -- scheduling events
  | sliceExpiry (part : Nat)
  | cheapPoint (part job : Nat) (template : Option Nat) (tileIndex : Nat)
  | preemptAbort (part job : Nat)
  | saveComplete (part job : Nat)
  | writeback (part base length : Nat) (path : RegPath)
  | purge (part base length : Nat) (path : RegPath)
  | flushComplete (part : Nat)
  -- reliability
  | errorReport (r : Report)
  | darkTraffic (p : Pkt)
  | requalifyDone (unit : Nat) (pass : Bool)
  | keeperHeartbeat (region : Nat)
  | keeperTakeover (region : Nat)
  | lockstepMismatch
  | preventiveRepair (core : Option Nat) (addr : Nat)
  | repairRemapDone (core : Option Nat) (addr : Nat)
  | dieToDieRetry (edge module : Nat) (overThreshold : Bool)
  | fogBuddyCopy (part : Nat) (found : BuddyFound)
  -- power, thermal, supplies, boot
  | powerControlTick (inputW : Nat)
  | clockStretchStep
  | issueHoldStep
  | cclkChange
  -- sensors 0 to 151 are on the dies, 0x100 + m is HBM stack m; a reading is in units of 0.125 °C
  | thermalLimitStep (readings : List (Nat × Int))
  | thermalAlert (sensor : Nat) (reading : Int)
  | thermalTrip (sensor : Nat) (reading : Int)
  | brakeApply
  | brakeRelease
  | inputUndervoltage
  | inputBrownout
  | inputOvervoltage
  | auxLoss
  | modRstNAssert
  | coldBoot (straps : BitVec 4) (slotAOk slotBOk : Bool)
  | bootReady (f : BootFindings)
  | perstNAssert
  | perstNRelease (rate width : Nat) (flit : Bool)
  | cagePresenceChange (port : Nat) (present : Bool)
  -- registers
  | pkgModuleId (path : RegPath) (v : BitVec 64)
  | pkgLock (path : RegPath) (v : BitVec 64)
  | pkgArbClear (path : RegPath) (v : BitVec 64)
  | errPostedRecordClear (path : RegPath) (core : Nat) (v : BitVec 64)
  | timeSource (path : RegPath) (v : BitVec 64)
  | pwrCap (path : RegPath) (v : BitVec 64)
  | pwrCclkMhz (path : RegPath) (v : BitVec 64)
  | lpCtrl (path : RegPath) (port : Nat) (v : BitVec 64)
  | lpBond (path : RegPath) (port : Nat) (v : BitVec 64)
  | hostRingCtrl (path : RegPath) (fn ring : Nat) (v : BitVec 64)
  | partWayMask (path : RegPath) (part region : Nat) (v : BitVec 64)
  | queueClear (path : RegPath) (queue : Nat) (v : BitVec 64)
  | syncDbgSelect (path : RegPath) (v : BitVec 64)
  | registerWrite (path : RegPath) (offset width : Nat) (v : BitVec 64)
  | auxInRange
  | inputBackInRange
  | regulatorPhaseLoss (rail phase : Nat)
  | lockAcquireTimeout (who : Issuer) (handle : BitVec 32)
  | normNodeTimeout (die node : Nat)
  | activationHealthDeadline (healthy : Bool)
  | headKeeperRestartDone
  | keeperTakeoverDone (region : Nat)
  | restoreComplete (part job : Nat)
  | slotTransmit (port : Nat)
  | proxyRevocation (module queue endpoint : Nat)
  | revocationAck (queue endpoint : Nat)
  deriving DecidableEq, Repr

end Sys2Proof
end

