-- ==== Sys2Proof/Decode.lean ====
section
/-! DEFINITION. Reading a command from a word's bits. Every row of spec/opcode_table.json has null bits, so there is
nothing to read: commands reach the block as operands, and a host command's packet layout (R303) is read by
COMMAND_FETCH. -/

namespace Sys2Proof

/-- The command a word spells by the table's bits: the table gives no row any (log entry 2). -/
def decodeTableWord (_nbits _w : Nat) : Option Instr := none

end Sys2Proof
end

