-- ==== Sys2Proof/Config.lean ====
section
/-! DEFINITION. The free values the spec leaves open (what one module's fuses fix stands in State, field fuse).
A free value is an opaque constant: nothing can evaluate it, so a statement holds whatever it is. -/

namespace Sys2Proof.Config

/-- Fresh free words: the entropy source (R71) and every word the spec leaves open, by a counter the step advances.
Log entry 5. -/
opaque freeWord : Nat → BitVec 64

/-- The state the entropy source seeds a brush lane with at a boot (R71), by boot count, core and lane. Log entry 5. -/
opaque laneSeed : Nat → Nat → Nat → BitVec 64

/-- A value of an E8M0 destination that is no power of two an E8M0 code holds (R46 gives the codes, R55 no conversion to them): by its
sign, mantissa, exponent, SAT and draw. Log entry 105. -/
opaque e8m0 : Bool → Nat → Int → Bool → Option (BitVec 32) → BitVec 8

/-- The special functions whose one fixed algorithm the spec does not give (R108), outside their listed special cases and within their
maximum error. Log entry 6. -/
opaque vexp2 : BitVec 32 → BitVec 32
opaque vlog2 : BitVec 32 → BitVec 32
opaque vtanh : BitVec 32 → BitVec 32
opaque vsigm : BitVec 32 → BitVec 32
opaque verf : BitVec 32 → BitVec 32
opaque vsin : BitVec 32 → BitVec 32
opaque vcos : BitVec 32 → BitVec 32
opaque vrcp : BitVec 32 → BitVec 32
opaque vrsq : BitVec 32 → BitVec 32

/-- Natural exponential and logarithm of the attention and sampling formulas (R245, R252): no algorithm is given.
Log entry 6. -/
opaque expFn : BitVec 32 → BitVec 32
opaque lnFn : BitVec 32 → BitVec 32

/-- Normal-mode fused attention's rounding steps are not given (R252): a row's maximum, its sum and one output element are free functions
of the key chunking, the scale and the row's query, its keys with their positions and its values with their draws. Log entry 28. -/
opaque attnMax : Nat → BitVec 32 → List Nat → List (Nat × List Nat) → BitVec 32
opaque attnSum : Nat → BitVec 32 → List Nat → List (Nat × List Nat) → BitVec 32
opaque attnOut : Nat → BitVec 32 → List Nat → List (Nat × List Nat) → List (Nat × Bool) → BitVec 32

/-- True colour combines a chunk's FP32 sum and output with those of the chunks before it, under the maxima of both, by one fixed FP32
formula (R68) that is not given, and ends with the division by the row sum (R252). Log entry 28. -/
opaque chunkSum : BitVec 32 → BitVec 32 → BitVec 32 → BitVec 32 → BitVec 32
opaque chunkOut : BitVec 32 → BitVec 32 → BitVec 32 → BitVec 32 → BitVec 32 → BitVec 32 → BitVec 32
opaque chunkEnd : BitVec 32 → BitVec 32 → BitVec 32

/-- One gradient element: the steps of the backward pass are not given (R252). A free function of the kind of gradient, the mode, the
scale and the operands it depends on, the probabilities among them. Log entry 28. -/
opaque attnGrad : Nat → Bool → BitVec 32 → List (List Nat) → BitVec 32

/-- The order in which a normal-mode REDUCE adds is not given: its FP32 sum is a free function of its inputs. Log entry 29. -/
opaque reduceSum : List (BitVec 32) → BitVec 32

/-- The region-cache set of a line within its slice: the index hash is not given (R146). Log entry 7. -/
opaque cacheSet : Nat → Nat

/-- The plane hash of address bits [10:7] (R26): its function is not given. Log entry 7. -/
opaque planeHash : BitVec 4 → Nat

/-- The bond member a hash of source unit, destination module and plane picks (R332). Log entry 7. -/
opaque bondHash : Nat → Nat → Nat → Nat

/-- The softmax of the scaled logits, and the kept probabilities renormalised (R245): their FP32 algorithms are not given; one
probability is a free function of the list and the place in it. Log entry 44. -/
opaque softmaxFn : List (BitVec 32) → Nat → BitVec 32
opaque renormFn : List (BitVec 32) → Nat → BitVec 32

/-- The FP32 sum of squares of one layer's elements of a shard (R266, R272), added to an earlier sum: neither the order of summation
nor which elements of a shard of several layers belong to one is given. Log entry 45. -/
opaque layerSquares : Nat → BitVec 32 → List (BitVec 32) → BitVec 32

/-- Which of the layers a gradient bucket names (R264) element i of the bucket at a base belongs to, counted from the first. Log
entry 45. -/
opaque layerOf : Nat → Nat → Nat

/-- The FP32 sum over the layers under the global norm's root (R268): its order is not given. Log entry 45. -/
opaque normSum : List (BitVec 32) → BitVec 32

/-- What a byte of another module reads as, by the free counter and its address. Log entry 5. -/
opaque remoteByte : Nat → Nat → BitVec 8

/-- The element format of the rows of TOKEN_DISPATCH and TOKEN_COMBINE (R276, R277), and a running sum with score × output added to it: the
first is not given, nor is it said where the second rounds. Log entry 55. -/
opaque rowFormat : Nat
opaque combineAdd : BitVec 32 → BitVec 32 → BitVec 32 → BitVec 32

/-- The host address and the bytes of a partition's swap area (R258): no command gives them. Log entry 46. -/
opaque swapBase : Nat → Nat
opaque swapBytes : Nat → Nat

/-- Where a batch step's staging buffer holds the keys and values of a folded row of a partition (R250); no rule places it. -/
opaque stagingRow : Nat → Nat → Nat

end Sys2Proof.Config
end

