-- ==== Sys2Proof/Machine/Num.lean ====
section
/-! DEFINITION. Number formats, exact arithmetic and the roundings of chapter 02, the random generators, and the two
checksums. Every operation is formed exactly and rounded once. -/

namespace Sys2Proof.Machine

/-- A floating-point format (R46): field widths, bias, whether it has Inf, and whether only S.1..1.1..1 is NaN. -/
structure Fmt where
  ebits : Nat
  mbits : Nat
  bias : Nat
  hasInf : Bool
  topNan : Bool
  deriving DecidableEq, Repr

def fp32 : Fmt := ⟨8, 23, 127, true, false⟩
def fp16 : Fmt := ⟨5, 10, 15, true, false⟩
def bf16 : Fmt := ⟨8, 7, 127, true, false⟩
def e4m3 : Fmt := ⟨4, 3, 7, false, true⟩
def e5m2 : Fmt := ⟨5, 2, 15, true, false⟩
def e3m2 : Fmt := ⟨3, 2, 3, false, false⟩
def e2m3 : Fmt := ⟨2, 3, 1, false, false⟩
def e2m1 : Fmt := ⟨2, 1, 1, false, false⟩

/-- The floating-point format of a format code (R46); none for INT8, INT4, E8M0 and reserved codes. -/
def fmtOf (code : Nat) : Option Fmt :=
  if code = 0 then some fp32 else if code = 1 then some fp16 else if code = 2 then some bf16
  else if code = 3 ∨ code = 5 then some e4m3 else if code = 4 ∨ code = 6 then some e5m2
  else if code = 7 then some e3m2 else if code = 8 then some e2m3 else if code = 9 then some e2m1 else none

/-- Codes 0x5 to 0x9 are the MX formats (R46). -/
def isMx (code : Nat) : Bool := 5 ≤ code && code ≤ 9

/-- Codes 0xA and 0xB are the integer formats (R46). -/
def isIntFmt (code : Nat) : Bool := code == 10 || code == 11

/-- Bits an element takes (R46, R114). -/
def elemBits (code : Nat) : Nat :=
  if code = 0 then 32 else if code = 1 ∨ code = 2 then 16 else if code = 7 ∨ code = 8 then 6
  else if code = 9 ∨ code = 11 then 4 else 8

/-- Canvas depth of a format (R76). -/
def depthOf (code : Nat) : Nat :=
  if code = 1 ∨ code = 2 then 4 else if 7 ≤ code ∧ code ≤ 9 then 16 else 8

/-- A value read out of an encoding: NaN, an infinity, or mantissa times a power of two with its sign. -/
inductive FVal where
  | nan
  | inf (neg : Bool)
  | fin (neg : Bool) (m : Nat) (e : Int)
  deriving DecidableEq, Repr

/-- The value an encoding holds (R46, R52: subnormals at full value). -/
def decodeF (f : Fmt) (bits : Nat) : FVal :=
  let neg := bits / 2 ^ (f.ebits + f.mbits) % 2 == 1
  let ex := bits / 2 ^ f.mbits % 2 ^ f.ebits
  let mant := bits % 2 ^ f.mbits
  if f.hasInf && ex == 2 ^ f.ebits - 1 then
    if mant == 0 then .inf neg else .nan
  else if f.topNan && ex == 2 ^ f.ebits - 1 && mant == 2 ^ f.mbits - 1 then .nan
  else if ex == 0 then .fin neg mant (1 - f.bias - f.mbits)
  else .fin neg (mant + 2 ^ f.mbits) (ex - f.bias - f.mbits)

/-- Two's complement of the low n bits. -/
def toSigned (n bits : Nat) : Int :=
  let b := bits % 2 ^ n
  if b < 2 ^ (n - 1) then b else (b : Int) - 2 ^ n

/-- An integer as an exact value. -/
def FVal.ofInt (i : Int) : FVal := .fin (i < 0) i.natAbs 0

/-- The value of an element of any operand format but its MX scale (R46). -/
def decodeElem (code bits : Nat) : FVal :=
  match fmtOf code with
  | some f => decodeF f bits
  | none => .ofInt (toSigned (elemBits code) bits)

/-- Applies an E8M0 block scale (R46, R47: 0xFF makes the element NaN). -/
def scaleElem (scale : Nat) : FVal → FVal
  | .fin n m e => if scale = 255 then .nan else .fin n m (e + scale - 127)
  | .inf n => if scale = 255 then .nan else .inf n
  | .nan => .nan

/-- Rounding modes: to nearest with ties to even, or stochastic with one 32-bit draw (R55, R73). -/
inductive RMode where
  | rne
  | sr (draw : BitVec 32)
  deriving DecidableEq, Repr

/-- Floor of log2 of the positive rational num / den. -/
def floorLog2 (num den : Nat) : Int :=
  let k : Int := (Nat.log2 num : Int) - Nat.log2 den
  let ge := if 0 ≤ k then den * 2 ^ k.toNat ≤ num else den ≤ num * 2 ^ (-k).toNat
  if ge then k else k - 1

/-- Does the discarded fraction rem / den round the magnitude up? Under R73 a draw r rounds up exactly when
r / 2^32 is below the fraction, whatever the number of discarded bits. -/
def roundsUp (mode : RMode) (fl rem den : Nat) : Bool :=
  match mode with
  | .rne => den < 2 * rem || (2 * rem == den && fl % 2 == 1)
  | .sr draw => draw.toNat * den < rem * 2 ^ 32

/-- The unsigned encoding of the positive rational num / den rounded once, before the overflow test: codes rise with the
value. -/
def roundCode (f : Fmt) (mode : RMode) (num den : Nat) : Nat :=
  let emin : Int := 1 - f.bias
  let q : Int := max (floorLog2 num den) emin - f.mbits
  let n := if 0 ≤ q then num else num * 2 ^ (-q).toNat
  let d := if 0 ≤ q then den * 2 ^ q.toNat else den
  let fl := n / d
  let mant := if roundsUp mode fl (n % d) d then fl + 1 else fl
  if mant < 2 ^ f.mbits then mant
  else ((q + f.mbits + f.bias).toNat) * 2 ^ f.mbits + (mant - 2 ^ f.mbits)

/-- The largest finite code of a format (R46). -/
def maxCode (f : Fmt) : Nat :=
  if f.hasInf then (2 ^ f.ebits - 1) * 2 ^ f.mbits - 1
  else if f.topNan then 2 ^ (f.ebits + f.mbits) - 2
  else 2 ^ (f.ebits + f.mbits) - 1

/-- The canonical NaN of a format (R57); formats without NaN have none and give 0 (R56). -/
def nanCode (f : Fmt) : Nat :=
  if f.hasInf then (2 ^ f.ebits - 1) * 2 ^ f.mbits + 2 ^ (f.mbits - 1)
  else if f.topNan then 2 ^ (f.ebits + f.mbits) - 1 else 0

/-- The sign bit of a format. -/
def signBit (f : Fmt) (neg : Bool) : Nat := if neg then 2 ^ (f.ebits + f.mbits) else 0

/-- What an infinite value encodes to (R55). -/
def infCode (f : Fmt) (sat neg : Bool) : Nat :=
  if f.hasInf then signBit f neg + (2 ^ f.ebits - 1) * 2 ^ f.mbits
  else if f.topNan && !sat then nanCode f
  else signBit f neg + maxCode f

/-- What a finite value beyond the format's range encodes to (R55): FP32 always to Inf, the four saturating formats by
SAT, formats without Inf or NaN to their largest value. -/
def overflowCode (f : Fmt) (sat neg : Bool) : Nat :=
  if f = fp32 then infCode f false neg
  else if sat then signBit f neg + maxCode f
  else infCode f false neg

/-- The encoding of the signed rational with magnitude num / den. -/
def encodeQ (f : Fmt) (sat : Bool) (mode : RMode) (neg : Bool) (num den : Nat) : Nat :=
  if num = 0 then signBit f neg
  else
    let code := roundCode f mode num den
    if maxCode f < code then overflowCode f sat neg else signBit f neg + code

/-- The encoding of a value: one rounding (R55, R57). -/
def encodeF (f : Fmt) (sat : Bool) (mode : RMode) : FVal → Nat
  | .nan => nanCode f
  | .inf neg => infCode f sat neg
  | .fin neg m e =>
    if 0 ≤ e then encodeQ f sat mode neg (m * 2 ^ e.toNat) 1 else encodeQ f sat mode neg m (2 ^ (-e).toNat)

/-- A value as FP32, to nearest even (R50, R106). -/
def round32 (v : FVal) : Lane := BitVec.ofNat 32 (encodeF fp32 false .rne v)

/-- The value of an FP32 lane. -/
def val32 (x : Lane) : FVal := decodeF fp32 x.toNat

/-- A value as BF16 bits. -/
def roundBf16 (v : FVal) : Nat := encodeF bf16 false .rne v

def isNan32 (x : Lane) : Bool := val32 x == .nan

def isInf32 (x : Lane) : Bool := match val32 x with | .inf _ => true | _ => false

/-- The integer a finite value would have at exponent e0, e0 at most its own. -/
def alignInt (neg : Bool) (m : Nat) (e e0 : Int) : Int :=
  let i : Int := (m * 2 ^ (e - e0).toNat : Nat)
  if neg then -i else i

/-- The exact sum of two values under IEEE rules (R52, R57). -/
def addV : FVal → FVal → FVal
  | .nan, _ => .nan
  | _, .nan => .nan
  | .inf a, .inf b => if a = b then .inf a else .nan
  | .inf a, _ => .inf a
  | _, .inf b => .inf b
  | .fin na ma ea, .fin nb mb eb =>
    let e0 := min ea eb
    let i := alignInt na ma ea e0 + alignInt nb mb eb e0
    if i = 0 then .fin (na && nb) 0 e0 else .fin (i < 0) i.natAbs e0

/-- The exact product of two values (R57). -/
def mulV : FVal → FVal → FVal
  | .nan, _ => .nan
  | _, .nan => .nan
  | .inf a, .inf b => .inf (a != b)
  | .inf a, .fin b m _ => if m = 0 then .nan else .inf (a != b)
  | .fin a m _, .inf b => if m = 0 then .nan else .inf (a != b)
  | .fin na ma ea, .fin nb mb eb => .fin (na != nb) (ma * mb) (ea + eb)

def negV : FVal → FVal
  | .nan => .nan
  | .inf n => .inf (!n)
  | .fin n m e => .fin (!n) m e

def absV : FVal → FVal
  | .nan => .nan
  | .inf _ => .inf false
  | .fin _ m e => .fin false m e

/-- The exact sum of a list. The first term keeps the sign rule of R52: zero is −0 only if every term is. -/
def sumV : List FVal → FVal
  | [] => .fin false 0 0
  | [x] => x
  | x :: y :: t => addV x (sumV (y :: t))

/-- Strict order of numbers; false when either is NaN; the zeros are equal. -/
def ltV : FVal → FVal → Bool
  | .nan, _ => false
  | _, .nan => false
  | .inf a, .inf b => a && !b
  | .inf a, .fin _ _ _ => a
  | .fin _ _ _, .inf b => !b
  | .fin na ma ea, .fin nb mb eb =>
    let e0 := min ea eb
    alignInt na ma ea e0 < alignInt nb mb eb e0

def eqV (a b : FVal) : Bool := a != .nan && b != .nan && !(ltV a b) && !(ltV b a)

/-- An exact rational, denominator nonzero. -/
structure Q where
  num : Int
  den : Nat
  deriving DecidableEq, Repr

def Q.ofInt (i : Int) : Q := ⟨i, 1⟩
def Q.add (a b : Q) : Q := ⟨a.num * b.den + b.num * a.den, a.den * b.den⟩
def Q.neg (a : Q) : Q := ⟨-a.num, a.den⟩
def Q.sub (a b : Q) : Q := a.add b.neg
def Q.mul (a b : Q) : Q := ⟨a.num * b.num, a.den * b.den⟩
/-- The quotient; by zero it is zero, which no caller asks for. -/
def Q.div (a b : Q) : Q :=
  if b.num = 0 then ⟨0, 1⟩ else if b.num < 0 then ⟨-(a.num * b.den), a.den * b.num.natAbs⟩
  else ⟨a.num * b.den, a.den * b.num.natAbs⟩
def Q.lt (a b : Q) : Bool := a.num * b.den < b.num * a.den
def Q.pow (a : Q) (n : Nat) : Q := ⟨a.num ^ n, a.den ^ n⟩

/-- A finite value as a rational. -/
def Q.ofMant (neg : Bool) (m : Nat) (e : Int) : Q :=
  let i : Int := if neg then -(m : Int) else m
  if 0 ≤ e then ⟨i * 2 ^ e.toNat, 1⟩ else ⟨i, 2 ^ (-e).toNat⟩

/-- A finite FP32 lane as a rational; none for Inf and NaN. -/
def Q.ofLane (x : Lane) : Option Q :=
  match val32 x with
  | .fin n m e => some (.ofMant n m e)
  | _ => none

/-- A rational rounded once to FP32. -/
def Q.round32 (a : Q) : Lane := BitVec.ofNat 32 (encodeQ fp32 false .rne (a.num < 0) a.num.natAbs a.den)

/-- The FP32 quotient of two values, rounded once, under IEEE rules. -/
def div32 (a b : FVal) : Lane :=
  match a, b with
  | .nan, _ => BitVec.ofNat 32 (nanCode fp32)
  | _, .nan => BitVec.ofNat 32 (nanCode fp32)
  | .inf _, .inf _ => BitVec.ofNat 32 (nanCode fp32)
  | .inf x, .fin y _ _ => BitVec.ofNat 32 (infCode fp32 false (x != y))
  | .fin x _ _, .inf y => BitVec.ofNat 32 (signBit fp32 (x != y))
  | .fin x ma ea, .fin y mb eb =>
    if mb = 0 then
      if ma = 0 then BitVec.ofNat 32 (nanCode fp32) else BitVec.ofNat 32 (infCode fp32 false (x != y))
    else
      let e := ea - eb
      let num := if 0 ≤ e then ma * 2 ^ e.toNat else ma
      let den := if 0 ≤ e then mb else mb * 2 ^ (-e).toNat
      BitVec.ofNat 32 (encodeQ fp32 false .rne (x != y) num den)

/-- One bit of the integer square root: keeps the bit when its square still fits. -/
def isqrtBits (n : Nat) : Nat → Nat → Nat
  | 0, r => r
  | k + 1, r => if (r + 2 ^ k) * (r + 2 ^ k) ≤ n then isqrtBits n k (r + 2 ^ k) else isqrtBits n k r

/-- Floor of the square root. -/
def isqrt (n : Nat) : Nat := isqrtBits n (Nat.log2 n / 2 + 1) 0

/-- The correctly rounded FP32 square root (R108): 40 extra bits and a sticky bit decide the rounding. -/
def sqrt32 (v : FVal) : Lane :=
  match v with
  | .nan => BitVec.ofNat 32 (nanCode fp32)
  | .inf true => BitVec.ofNat 32 (nanCode fp32)
  | .inf false => BitVec.ofNat 32 (infCode fp32 false false)
  | .fin neg m e =>
    if m = 0 then BitVec.ofNat 32 (signBit fp32 neg)
    else if neg then BitVec.ofNat 32 (nanCode fp32)
    else
      let m' := if e % 2 = 0 then m else m * 2
      let h : Int := (if e % 2 = 0 then e else e - 1) / 2 - 40
      let big := m' * 2 ^ 80
      let r := isqrt big
      let num := 2 * r + (if r * r = big then 0 else 1)
      round32 (.fin false num (h - 1))

/-- A number a + b·√n over den, rounded once to FP32 (R273's weight line): scaled so that the floor holds at least 40
significant bits below the result's own, with a sticky bit. b has sign bneg; den is positive. -/
def surdRound32 (a : Int) (bneg : Bool) (n den : Nat) : Lane :=
  let k := 400
  let root := isqrt (n * 4 ^ k)
  let exact := root * root = n * 4 ^ k
  let lo : Int := if bneg then -((if exact then root else root + 1 : Nat) : Int) else root
  let t : Int := a * 2 ^ k + lo
  let fl := t / den
  let sticky := !exact || t % den != 0
  let twice : Int := 2 * fl + (if sticky then 1 else 0)
  Q.round32 ⟨twice, 2 ^ (k + 1)⟩

/-- One draw of the FREE generator (R71): the advanced state and its high word. -/
def xorshift (x : Word) : Word :=
  let a := x ^^^ (x <<< 13)
  let b := a ^^^ (a >>> 7)
  b ^^^ (b <<< 17)

/-- One Philox round (R72). -/
def philoxRound (c : BitVec 32 × BitVec 32 × BitVec 32 × BitVec 32) (k0 k1 : BitVec 32) :
    BitVec 32 × BitVec 32 × BitVec 32 × BitVec 32 :=
  let p0 := 0xD2511F53 * c.1.toNat
  let p1 := 0xCD9E8D57 * c.2.2.1.toNat
  let hi0 := BitVec.ofNat 32 (p0 / 2 ^ 32)
  let lo0 := BitVec.ofNat 32 p0
  let hi1 := BitVec.ofNat 32 (p1 / 2 ^ 32)
  let lo1 := BitVec.ofNat 32 p1
  (hi1 ^^^ c.2.1 ^^^ k0, lo1, hi0 ^^^ c.2.2.2 ^^^ k1, lo0)

/-- Rounds with the key bump between them (R72). -/
def philoxRounds : Nat → BitVec 32 × BitVec 32 × BitVec 32 × BitVec 32 → BitVec 32 → BitVec 32 →
    BitVec 32 × BitVec 32 × BitVec 32 × BitVec 32
  | 0, c, _, _ => c
  | r + 1, c, k0, k1 => philoxRounds r (philoxRound c k0 k1) (k0 + 0x9E3779B9) (k1 + 0xBB67AE85)

/-- Draw n of the COUNTER generator (R72): Philox 4×32 with 10 rounds. -/
def counterDraw (seed : Word) (c0 c1 stream : BitVec 32) (n : Nat) : BitVec 32 :=
  let r := philoxRounds 10 (c0, c1, stream, BitVec.ofNat 32 (n / 4)) (seed.truncate 32) ((seed >>> 32).truncate 32)
  match n % 4 with
  | 0 => r.1
  | 1 => r.2.1
  | 2 => r.2.2.1
  | _ => r.2.2.2

/-- Eight steps of a reflected CRC register. -/
def crcBits (poly : Nat) : Nat → Nat → Nat
  | 0, r => r
  | k + 1, r => crcBits poly k (if r % 2 = 1 then (r / 2) ^^^ poly else r / 2)

/-- A reflected CRC over bytes. -/
def crcBytes (poly : Nat) : List Byte → Nat → Nat
  | [], r => r
  | b :: t, r => crcBytes poly t (crcBits poly 8 (r ^^^ b.toNat))

/-- CRC-64 with the ECMA-182 polynomial, reflected, initial value and final XOR all ones (R243). -/
def crc64 (bs : List Byte) : Nat := crcBytes 0xC96C5795D7870F42 bs (2 ^ 64 - 1) ^^^ (2 ^ 64 - 1)

/-- CRC-32C (R138), with the reflected polynomial and all-ones presets of that checksum. Log entry 8. -/
def crc32c (bs : List Byte) : Nat := crcBytes 0x82F63B78 bs (2 ^ 32 - 1) ^^^ (2 ^ 32 - 1)

/-- The INT8 or INT4 encoding of a value: nearest even, always saturating, NaN to 0 (R55). -/
def encodeInt (n : Nat) (mode : RMode) : FVal → Nat
  | .nan => 0
  | .inf neg => if neg then 2 ^ (n - 1) else 2 ^ (n - 1) - 1
  | .fin neg m e =>
    let num := if 0 ≤ e then m * 2 ^ e.toNat else m
    let den := if 0 ≤ e then 1 else 2 ^ (-e).toNat
    let fl := num / den
    let r := if roundsUp mode fl (num % den) den then fl + 1 else fl
    if neg then (2 ^ n - min r (2 ^ (n - 1))) % 2 ^ n else min r (2 ^ (n - 1) - 1)

/-- The E8M0 encoding of a value (R46): the code of a power of two from 2^-127 to 2^127, and 0xFF for NaN. R55 gives no conversion of any
other value, which is free (log entry 105). -/
def encodeE8m0 (sat : Bool) (mode : RMode) : FVal → Nat
  | .nan => 255
  | .inf neg => (Config.e8m0 neg 0 0 sat none).toNat
  | .fin neg m e =>
    let k := e + Nat.log2 m
    if !neg && m == 2 ^ Nat.log2 m && decide (-127 ≤ k ∧ k ≤ 127) then (k + 127).toNat
    else (Config.e8m0 neg m e sat (match mode with | .rne => none | .sr d => some d)).toNat

/-- A value converted to a non-MX format code (R55). -/
def convert (code : Nat) (sat : Bool) (mode : RMode) (v : FVal) : Nat :=
  if code = 12 then encodeE8m0 sat mode v
  else match fmtOf code with
  | some f => encodeF f sat mode v
  | none => encodeInt (elemBits code) mode v

/-- Exponent of the largest normal element of an MX element format (R56). -/
def mxEmax (code : Nat) : Int :=
  if code = 5 then 8 else if code = 6 then 15 else if code = 7 then 4 else 2

/-- Magnitude comparison helper: the finite magnitude as a rational, none for NaN and Inf. -/
def magQ : FVal → Option Q
  | .fin _ m e => some (.ofMant false m e)
  | _ => none

/-- The block scale byte of R56: 0xFF for a block with a NaN, else floor(log2 amax) − emax clamped to −127..127. -/
def mxScale (code : Nat) (block : List FVal) : Nat :=
  if block.any (· == .nan) then 255
  else
    let amax := (block.filterMap magQ).foldl (fun a q => if a.lt q then q else a) ⟨0, 1⟩
    if amax.num = 0 then 0
    else
      let x := floorLog2 amax.num.natAbs amax.den - mxEmax code
      (max (-127) (min 127 x) + 127).toNat

/-- One element of an MX block under its scale (R55, R56). -/
def mxElem (code scale : Nat) (mode : RMode) (v : FVal) : Nat :=
  if scale = 255 then 0
  else
    match fmtOf code with
    | none => 0
    | some f =>
      match v with
      | .fin n m e => encodeF f true mode (.fin n m (e - scale + 127))
      | .inf n => if code = 6 then infCode f false n else signBit f n + maxCode f
      | .nan => 0

/-- Top exponent of a finite nonzero element (R59): t = q + P. scale is the block's byte, 127 for none. -/
def topExp (code scale : Nat) (v : FVal) : Option Int :=
  match v with
  | .fin _ m e =>
    if m = 0 then none
    else
      match fmtOf code with
      | some f => some (e + f.mbits + 1 + scale - 127)
      | none => some (elemBits code)
  | _ => none

/-- The largest top exponent of a row or column, none when no element is finite and nonzero. -/
def topOf (l : List (Option Int)) : Option Int :=
  l.foldl (fun a x => match a, x with | some u, some v => some (max u v) | none, v => v | u, none => u) none

/-- The exponent vector entry of a row or column (R61): its largest top exponent or 0x8000 in [15:0], and in [16], [17] and [18] whether
it holds a NaN, +Inf and −Inf. -/
def expEntry (tops : List (Option Int)) (vals : List FVal) : BitVec 32 :=
  let t : Nat := match topOf tops with | some x => (BitVec.ofInt 16 x).toNat | none => 0x8000
  let bit := fun (v : FVal) (k : Nat) => if vals.contains v then 2 ^ k else 0
  BitVec.ofNat 32 (t + bit .nan 16 + bit (.inf false) 17 + bit (.inf true) 18)

/-- The top exponent an entry holds, none for 0x8000 (R61). -/
def entryTop (e : BitVec 32) : Option Int :=
  let t := BitVec.ofNat 16 e.toNat
  if t = 0x8000 then none else some t.toInt

/-! Residues modulo 15 (R74) -/

/-- The residue of an integer. -/
def mod15 (i : Int) : Nat := (i % 15).toNat

/-- The residue of a term of m times 2^s, predicted from the significand's residue by 2^s ≡ 2^(s mod 4). -/
def termResidue (neg : Bool) (m s : Nat) : Nat :=
  let r := m % 15 * 2 ^ (s % 4) % 15
  if neg then (15 - r) % 15 else r

/-- The true-colour window's weight exponent (R60). -/
def windowL (ra cb : Int) : Int := ra + cb - 111

/-- A product truncated toward zero into the window at weight 2^L (R62). -/
def windowInt (v : FVal) (l : Int) : Int :=
  match v with
  | .fin neg m e =>
    let mag : Nat := if l ≤ e then m * 2 ^ (e - l).toNat else m / 2 ^ (l - e).toNat
    if neg then -(mag : Int) else mag
  | _ => 0

end Sys2Proof.Machine
end

