-- ==== Sys2Proof/Machine/State.lean ====
section
/-! DEFINITION. The state of the TK8 block as plain data: every register, table, buffer, queue, counter and mode the
spec gives the module, grouped by unit, the queue of waiting commands, and the state after reset. Every field's default
is its reset value; INVENTORY.md lists each with its rule. -/

namespace Sys2Proof.Machine

/-- The status codes of R311. -/
inductive Status where
  | ok | emptyShape | badOpcode | badLength | badAlign | planRejected | shapeExceedsPlan | tileIllegal | quota | locked
  | preempted | preemptAborted | exactRange | queueReset | staleEpoch | syncOverrun | ownerLost | tenantViolation
  | syncDirty | poisoned | remoteWriteFailed | deadlineFallback | swappedOut | nonfiniteSkip | genMismatch
  | genChecksum | shapeMismatch | buddyUnavailable | unitDark | timeout | hwFault
  deriving DecidableEq, Repr

/-- What a started command answers: status, detail word and the four result words of bytes 16 to 31 (R307). -/
structure Answer where
  status : Status
  detail : Nat := 0
  words : List (BitVec 32) := []
  deriving DecidableEq, Repr

/-- A reply held inside the device until it is written (R299, R307). final is false for the interim reply of R354;
isSignalled is false where R305 check 6 withholds the signal. -/
structure Reply where
  cmd : Cmd
  answer : Answer
  time : Word
  final : Bool := true
  isSignalled : Bool := true
  deriving DecidableEq, Repr

/-- A fetched command packet (R303), with the number it has in the ring's FETCHED count. -/
structure Packet where
  idx : Nat
  opcode : BitVec 16
  flags : BitVec 8
  plen : BitVec 8
  tag : BitVec 32
  part : BitVec 16
  fence : BitVec 16
  completion : BitVec 32
  params : List Byte
  deriving DecidableEq, Repr

/-- One command ring with its completion ring and its HOST_RING_ registers (R296 to R301, R425). count is how many packets
were read since the pair was enabled, base how many of them realignment has subtracted (R300). -/
structure Ring where
  enabled : Bool := false
  enableHeld : Bool := false
  ringError : Bool := false
  log2Size : Nat := 6
  vector : Nat := 0
  cmdBase : Word := 0
  cplBase : Word := 0
  recordAddr : Word := 0
  fetchPtr : Nat := 0
  cplPtr : Nat := 0
  submit : BitVec 32 := 0
  fetched : BitVec 32 := 0
  completed : BitVec 32 := 0
  consumed : BitVec 32 := 0
  epoch : BitVec 16 := 0
  realign : BitVec 32 := 0
  realignCpl : BitVec 32 := 0
  count : Nat := 0
  base : Nat := 0
  discards : Nat := 0
  submitBell : Word := 0
  completionBell : Word := 0
  packets : List Packet := []
  started : List Cmd := []
  unfinished : List Nat := []
  interims : List Nat := []
  due : List Nat := []
  replies : List Reply := []
  deriving DecidableEq, Repr

/-- Kinds of signal-store object (R167). -/
inductive ObjKind where
  | flag | counter | lock
  deriving DecidableEq, Repr

/-- What a pending entry of an object waits for (R172, R174). -/
inductive WaitKind where
  | consume | peek
  | target (t : BitVec 48)
  | writer (v : Word)
  | acquirer
  deriving DecidableEq, Repr

/-- A pending wait, blocked writer or blocked acquirer (R174). -/
structure Waiter where
  who : Issuer
  kind : WaitKind
  timeout : Nat := 0
  deriving DecidableEq, Repr

/-- A signal-store object (R167), its waiters oldest first (R174) and its last signaller (R201). -/
structure SyncObj where
  value : Word := 0
  part : Nat
  kind : ObjKind
  full : Bool := false
  orphaned : Bool := false
  monotonic : Bool := false
  overrun : Nat := 0
  waiters : List Waiter := []
  lastModule : Nat := 0
  lastUnit : Nat := 0
  lastTime : Word := 0
  deriving DecidableEq, Repr

/-- A core's local flag (R169): value, FULL, overrun count, its owner's wait and the writers blocked on it, and its last signaller (R201).
Its kind is what the loaded plans of the core's partition set. -/
structure LocalFlag where
  value : Word := 0
  full : Bool := false
  overrun : Nat := 0
  waiters : List Waiter := []
  lastModule : Nat := 0
  lastUnit : Nat := 0
  lastTime : Word := 0
  deriving DecidableEq, Repr

/-- An entry of a partition's host-word table (R194). -/
structure HostWord where
  counter : Bool
  msix : Bool
  vector : Nat
  addr : Nat
  count : BitVec 48 := 0
  deriving DecidableEq, Repr

/-- A block barrier (R195, R196). waiting holds each waiting member with the sense it waits to leave; dark says that the
pending episode lost a member, lastDark that the last one did; joining takes effect at the next episode. -/
structure Barrier where
  mask : BitVec 9 := 0
  sense : Bool := false
  arrived : BitVec 9 := 0
  waiting : List (UnitId × Bool) := []
  dark : Bool := false
  lastDark : Bool := false
  joining : BitVec 9 := 0
  deriving DecidableEq, Repr

/-- A barrier tree node (R197, R199): its partition, the children counted per episode, those that have arrived in this one, the parent as
(module, site), and the modules and blocks its release is forwarded to. -/
structure TreeNode where
  part : Nat := 0
  children : Nat
  arrived : List Nat := []
  counter : BitVec 48 := 0
  episode : Nat := 0
  parent : Option (Nat × Nat) := none
  kids : List Nat := []
  blocks : List Nat := []
  released : Nat := 0
  overrun : Bool := false
  deriving DecidableEq, Repr

/-- A unit's release from a wait: status, detail and returned value (R172, R176, R189). -/
structure Release where
  unit : UnitId
  status : Status
  detail : Nat := 0
  value : Word := 0
  deriving DecidableEq, Repr

/-- An exact accumulator (R105, R110) or a true-colour element: 128 bits and the three flags of R64. res is the 4-bit residue modulo
15 beside an element of a canvas (R66, R74); an exact accumulator has none and leaves it 0. -/
structure XAcc where
  w : BitVec 128 := 0
  nan : Bool := false
  posInf : Bool := false
  negInf : Bool := false
  base : Int := 0
  count : Nat := 0
  res : Nat := 0
  deriving DecidableEq, Repr

/-- The registers of a brush unit (R105), the NaN and Inf counts its instructions gather (R107), its random lane states
(R71) and the position its counted loops and branches move. -/
structure Brush where
  v : Tbl (List Lane) := []
  p : Tbl (BitVec 256) := []
  sr : Tbl Word := []
  xa : Tbl XAcc := []
  rng : Tbl Word := []
  nanCount : Nat := 0
  infCount : Nat := 0
  position : Int := 0
  exactRange : Bool := false
  deriving DecidableEq, Repr

/-- The posted-error record of a core (R162, R424). -/
structure PostedRecord where
  address : Word := 0
  time : Word := 0
  armed : Bool := false
  count : Nat := 0
  code : Nat := 0
  deriving DecidableEq, Repr

/-- A tile a core holds (R83, R101, R109): its descriptor, how often it was reissued, whether its start state is being restored, and the
cells, as (row, column), an error changed that escaped the checks of R74. -/
structure RunTile where
  desc : TileDesc
  reissues : Nat := 0
  restoring : Bool := false
  upset : List (Nat × Nat) := []
  deriving DecidableEq, Repr

/-- A split-K partial tile of 16 by 16 outputs (R41, R43, R121); exact holds true-colour elements, and space is the part of each canvas's
accumulator share its tile takes until it has left (R42). -/
structure Partial where
  job : Nat
  part : Nat
  epoch : BitVec 16
  core : Nat
  item : Nat
  row : Nat
  col : Nat
  chunk : Nat
  chunks : Nat
  pieces : Nat := 1
  space : Nat × Nat := (0, 0)
  data : List Lane
  exact : List XAcc
  deriving DecidableEq, Repr

/-- The running sum of one output tile at a combining unit (R43, R121). -/
structure Combining where
  job : Nat
  item : Nat
  row : Nat
  col : Nat
  next : Nat
  data : List Lane
  exact : List XAcc
  deriving DecidableEq, Repr

/-- A signal held behind a fence (R186): issuer, handle, module, BLOCKING, REMOTE and value. -/
structure HeldSignal where
  who : Issuer
  handle : BitVec 32
  module : Nat
  blocking : Bool
  remote : Bool
  v : Word
  deriving DecidableEq, Repr

/-- What a core's DMA port holds back behind a fence in progress (R164, R185, R186): a store as (address, bytes, whether its home's
merge reads an uncorrectable line), a load of a line with a held store as (register, address, width), or a further fence with its
signals. -/
inductive HeldOp where
  | store (addr : Nat) (data : List Byte) (badLine : Bool)
  | load (sdst addr width : Nat)
  | fence (signals : List HeldSignal)
  deriving DecidableEq, Repr

/-- A fence in progress at a core's DMA port (R185): the destinations it probed, those whose answers are awaited, the signals held
behind it (R186), and the operations it holds back, oldest first. -/
structure FenceRun where
  dests : List Nat
  awaited : List Nat
  signals : List HeldSignal := []
  held : List HeldOp := []
  deriving DecidableEq, Repr

/-- A physical core (R9, R105, R162, R169, R185): loads lists outstanding remote loads as (register, address, width);
accWaits the writes and reads waiting for a tile boundary (R144) as (key, bytes, the packet to answer). computeFaults is the compute-fault
count of R75, tileWait the descriptor a TILE of a brush program waits with while the canvases hold two (R109), and haloWait says that
the first tile of a HALO candidate has not had its flag (R127). -/
structure Core where
  brush : Brush := {}
  tiles : List RunTile := []
  work : List TileDesc := []
  stopped : Bool := false
  computeFaults : Nat := 0
  tileWait : Option TileDesc := none
  haloWait : Bool := false
  accFlags : Tbl XAcc := []
  credits : Nat := 2
  partials : List Partial := []
  flags : Tbl LocalFlag := []
  posted : PostedRecord := {}
  fenceSet : List Nat := []
  fence : Option FenceRun := none
  waiting : Bool := false
  loadError : Bool := false
  loads : List (Nat × Nat × Nat) := []
  accWaits : List (Nat × List Byte × Pkt) := []
  deriving DecidableEq, Repr

/-- The byte memories behind the address map (R150): HBM, palettes and accumulator memories by physical core, host
memory as the device has written it, and the 64-byte units that hold poison (R430). -/
structure Memory where
  hbm : List Host.Cell := []
  palette : List Host.Cell := []
  acc : List Host.Cell := []
  host : List Host.Cell := []
  poisonHbm : List Nat := []
  poisonPalette : List Nat := []
  deriving DecidableEq, Repr

/-- A cached line's tag (R145 to R148): its partition, whether it is dirty, the 64-byte units that a prefetch stored poisoned and no
demand access has read (R155), and whether a prefetch brought it; newest first in the region's list. -/
structure CacheLine where
  line : Nat
  part : Nat
  way : Nat
  dirty : Bool := false
  latent : List Nat := []
  prefetched : Bool := false
  deriving DecidableEq, Repr

/-- Prefetcher states (R153): streaming holds the last demand, the lines issued ahead of it, the prefetched lines since the last demand
hit, and when it last advanced; hinted the next index of the hint's visit and how far demand has come in it. -/
inductive PfState where
  | idle
  | training (last : Nat) (stride : Int) (hits misses : Nat) (part : Nat)
  | streaming (last : Nat) (stride : Int) (ahead unused : Nat) (part : Nat) (stamp : Nat)
  | hinted (hint : Hint) (i : Nat) (job : Nat) (part : Nat) (seen : Nat)
  deriving DecidableEq, Repr

/-- A multicast group of a region as its switches hold it (R124 to R126): the partition and the plan that set it, its mask, the
physical cores its members translate to, the placement epoch of the translation, and the panels sent through it. -/
structure McastGroup where
  part : Nat
  plan : Nat
  mask : BitVec 128
  ports : List Nat
  epoch : BitVec 16
  sent : Nat := 0
  deriving DecidableEq, Repr

/-- What a region's memory side holds beside data: cache tags, prefetchers, hint queue and counts (R146 to R155), and the multicast
groups by number (R124). -/
structure RegionMem where
  lines : List CacheLine := []
  prefetchers : Tbl PfState := []
  hintQueue : List (Hint × Nat × Nat) := []
  hintDrops : Nat := 0
  prefetchDrops : Nat := 0
  latents : Nat := 0
  clock : Nat := 0
  groups : Tbl McastGroup := []
  deriving DecidableEq, Repr

/-- Operations a DMA transfer runs (R431); pieces is the engine's own copy between lists of (address, bytes) that a
sequence swap uses (R258), and image its write of slots that a TOKEN_DISPATCH has filled (R276). -/
inductive DmaOp where
  | copy
  | gather (indices : List Nat) (esize : Nat)
  | scatter (indices : List Nat) (esize : Nat)
  | fill (pattern : BitVec 64)
  | pageWalk (srcPaged dstPaged : Bool) (srcList dstList srcEntries dstEntries : Nat)
  | pieces (src dst : List (Nat × Nat))
  | image (data : List Byte)
  deriving DecidableEq, Repr

/-- Why the engine runs a transfer: a host command's, or Birzu's own for a sequence, a layer, a segment of dispatched rows, whose counter is
signalled with the slots sent, or a buddy copy, whose head is written last (R258, R232, R276, R385). -/
inductive DmaFor where
  | command (c : Cmd)
  | swapOut (c : Option Cmd) (seq : Nat)
  | swapIn (c : Option Cmd) (seq : Nat)
  | offload (part mb layer : Nat)
  | bring (part mb layer : Nat)
  | dispatch (c : Cmd) (counter : BitVec 32) (home slots : Nat)
  | buddy (c : Option Cmd) (part : Nat) (head : Option (Nat × List Byte))
  deriving DecidableEq, Repr

/-- A page walk of one list (R159): the entries it has reached, as it read them, in list order. -/
structure WalkPos where
  read : List Nat := []
  deriving DecidableEq, Repr

/-- A DMA transfer queued or running on a channel (R157 to R161). checks counts the range checks awaited; next the bytes
issued; out holds issued packets not yet settled as (destination, offset, length), reads the offsets of those whose source data
have not come yet; done the acknowledged (offset, length); down says that it runs from its end (R431). -/
structure Transfer where
  purpose : DmaFor
  part : Nat
  op : DmaOp
  src : Nat
  dst : Nat
  length : Nat
  clsSrc : AllocClass := .normal
  clsDst : AllocClass
  serial : Nat
  down : Bool := false
  checks : Nat := 0
  next : Nat := 0
  srcWalk : WalkPos := {}
  dstWalk : WalkPos := {}
  out : List (Nat × Nat × Nat) := []
  reads : List Nat := []
  done : List (Nat × Nat) := []
  firstFail : Option Nat := none
  failure : Option (Status × Nat) := none
  paused : Bool := false
  deriving DecidableEq, Repr

/-- A DMA channel (R158, R159, R161, R372). translations holds the last 8 page-list entries its walk read, as (address, entry). -/
structure Channel where
  retired : Bool := false
  transfers : List Transfer := []
  serial : Nat := 0
  staleDrops : Nat := 0
  translations : List (Nat × Nat) := []
  deriving DecidableEq, Repr

/-- A queue slot's contents (R206). -/
structure Slot where
  next : Option Nat := none
  kind : Nat := 0
  qgen : BitVec 8 := 0
  epoch : BitVec 16 := 0
  producer : Nat := 0
  length : BitVec 32 := 0
  tag : BitVec 32 := 0
  payload : List Byte := []
  deriving DecidableEq, Repr

/-- One copy of a queue's pointers (R220): head, tail, and header and last item of each open packet by endpoint. -/
structure Pointers where
  head : Option Nat := none
  tail : Option Nat := none
  opens : Tbl (Nat × Nat) := []
  deriving DecidableEq, Repr

/-- A producer endpoint at the consumer's engine (R205, R211, R214, R217, R220): grant, held count (at a remote producer,
the engine's own reckoning of it), credits not yet returned, slots ever freed, and its open packet's items, job and
epoch. -/
structure Endpoint where
  module : Nat
  unit : Nat
  grant : Nat := 0
  held : Nat := 0
  transit : Nat := 0
  freed : BitVec 32 := 0
  openItems : Nat := 0
  openJob : Option Nat := none
  openEpoch : BitVec 16 := 0
  discardOpen : Bool := false
  disconnected : Bool := false
  refuseOnce : Bool := false
  deriving DecidableEq, Repr

/-- The eight counts of R223, in the order of R427. -/
structure QueueStats where
  pushes : Nat := 0
  pops : Nat := 0
  blanks : Nat := 0
  stale : Nat := 0
  poisoned : Nat := 0
  violations : Nat := 0
  flushes : Nat := 0
  resets : Nat := 0
  deriving DecidableEq, Repr

/-- A queue (R204, R205, R217, R218, R220, R222). midItems counts the items left of the packet the consumer began;
flushes holds the flushes that wait for a boundary, with their timeouts; destroy the command and the endpoints whose
proxies have not acknowledged; consumerRefuse the refusal owed to the consumer after a reset; cause why it is RESETTING (0 a pointer
mismatch, 1 an uncorrectable NEXT, 2 the free list) with both values of the mismatched pointer; blankNext the blank item owed after a flush's
timeout. -/
structure Queue where
  part : Nat
  width : Nat
  consumer : Nat
  high : Nat
  low : Nat
  publish : BitVec 32
  watermark : BitVec 32
  reset : BitVec 32
  eps : List Endpoint
  ptrA : Pointers := {}
  ptrB : Pointers := {}
  qgen : BitVec 8 := 0
  resetting : Bool := false
  cause : Nat × Nat × Nat := (0, 0xFFFF, 0xFFFF)
  blankNext : Bool := false
  highEvent : Bool := false
  lowEvent : Bool := false
  occ : Nat := 0
  occMax : Nat := 0
  occMin : Nat := 0
  midItems : Nat := 0
  stats : QueueStats := {}
  flushes : List (Cmd × Nat) := []
  destroy : Option (Cmd × List Nat) := none
  consumerRefuse : Bool := false
  deriving DecidableEq, Repr

/-- A region's queue engine (R202, R221): queues by number, slots by slot number, the slot-ownership array and both
copies of the free list (slots never taken are those at and above fresh); gens keeps the QGEN of a number whose queue was
destroyed (R218). -/
structure QueueEngine where
  queues : Tbl Queue := []
  slots : Tbl Slot := []
  owner : Tbl Nat := []
  freeA : List Nat := []
  freeB : List Nat := []
  fresh : Nat := 0
  gens : Tbl (BitVec 8) := []
  deriving DecidableEq, Repr

/-- A proxy for an endpoint of a remote queue (R213, R214, R216, R218), in the engine of its producer unit's region. violations counts its
credit violations (R212), closing is the unit whose QCLOSE the queue's engine has not answered. -/
structure Proxy where
  module : Nat
  queue : Nat
  endpoint : Nat
  part : Nat
  unit : Nat := 0
  violations : Nat := 0
  closing : Option UnitId := none
  grant : Nat := 0
  held : Nat := 0
  pushed : BitVec 32 := 0
  returned : BitVec 32 := 0
  qgen : BitVec 8 := 0
  disconnected : Bool := false
  openJob : Option Nat := none
  deriving DecidableEq, Repr

/-- One pass of a stage's order (R225, R226). -/
inductive Pass where
  | forward (i : Nat)
  | backward (i : Nat)
  deriving DecidableEq, Repr

/-- A stage's configuration (R224). -/
structure StageCfg where
  stages : Nat
  index : Nat
  nmb : Nat
  inFlight : Nat
  fillDrain : Bool
  fwdIn : Nat
  fwdOut : Nat
  bwdIn : Nat
  bwdOut : Nat
  fwdOutModule : Nat
  bwdOutModule : Nat
  plan : Nat
  fwdList : Nat
  bwdList : Nat
  deriving DecidableEq, Repr

/-- A layer's space in the host buffer, held from its off-load's start until its backward and its off-load have both ended (R232). -/
structure HostCopy where
  mb : Nat
  layer : Nat
  host : Nat
  bytes : Nat
  deriving DecidableEq, Repr

/-- A step a stage runs (R227, R229), since when it waits for an input, its layers as (micro-batch, layer) whose off-load has started or
completed, and whose return has, and the host buffer's space in use (R232). -/
structure StageRunState where
  cmd : Cmd
  passes : List Pass
  completed : Nat := 0
  inFlight : List Nat := []
  stallNs : Nat := 0
  waitFrom : Option Word := none
  offloading : List (Nat × Nat) := []
  offloaded : List (Nat × Nat) := []
  returning : Option (Nat × Nat) := none
  returned : List (Nat × Nat) := []
  buffer : List HostCopy := []
  deriving DecidableEq, Repr

/-- A partition's stage (R224, R230, R231): drain is the waiting STAGE_DRAIN with its timeout, cut the index in force, layerBytes the most
a layer of a micro-batch saves (log entry 26). -/
structure Stage where
  cfg : Option StageCfg := none
  run : Option StageRunState := none
  drain : Option (Cmd × Nat) := none
  cut : Option Nat := none
  offloadK : Nat := 0
  offloadT : Nat := 0
  hostBuf : Nat := 0
  hostBytes : Nat := 0
  layerBytes : Nat := 0
  deriving DecidableEq, Repr

/-- Sequence states (R235). -/
inductive SeqState where
  | prefill | decode | swapped | finished | faulted | shadow
  deriving DecidableEq, Repr

/-- A page-list entry (R239): first 16 KiB page number, size exponent and SHARED. -/
structure PageRef where
  page : Nat
  size : Nat
  shared : Bool
  deriving DecidableEq, Repr

/-- A sequence table entry (R235), its page list (R239) and what R255, R259, R261 and R287 attach to it: lag counts emitted tokens
the fall-back made and the main model has not processed (R260), preemptsDue the pre-emptions its client record lacks (R262). -/
structure Seq where
  handle : BitVec 32
  state : SeqState
  priority : Nat
  part : Nat
  model : Nat
  client : Nat
  fallbackEnabled : Bool := false
  verify : Option (List (BitVec 32) × Bool) := none
  length : Nat := 0
  maxLength : Nat
  promptLength : Nat
  prefilled : Nat := 0
  pendingTok : BitVec 32 := 0xFFFFFFFF
  promptAddr : Nat := 0
  pageListAddr : Nat := 0
  pages : List PageRef := []
  sharedBlocks : Nat := 0
  tokenRec : Nat
  temperature : BitVec 32
  topK : Nat
  gen : BitVec 16 := 0
  seed : Word
  deadline : Word := 0
  interval : Nat := 0
  shadow : BitVec 32 := 0xFFFFFFFF
  arrival : Word := 0
  swapAddr : Nat := 0
  waitMax : Nat := 0
  preempts : Nat := 0
  fallbackSteps : Nat := 0
  waitTotal : Nat := 0
  unbroken : Nat := 0
  stopTok : BitVec 32
  oldGen : Option (BitVec 16) := none
  oldestKv : BitVec 16 := 0
  recompute : Bool := false
  homeRegion : Nat := 0
  lag : Nat := 0
  preemptsDue : Nat := 0
  blockGens : List (BitVec 16) := []
  deriving DecidableEq, Repr

/-- A node of a partition's prompt tree (R243, R244): start is the window offset of the first of its pages. -/
structure PromptNode where
  part : Nat
  model : Nat
  key : Word
  parent : Word
  tokens : List (BitVec 32)
  start : Nat := 0
  pages : List PageRef
  matched : Nat
  deriving DecidableEq, Repr

/-- A client accounting record (R262). -/
structure Client where
  part : Nat
  client : Nat
  waitMax : Nat := 0
  waitTotal : Nat := 0
  tokens : Nat := 0
  fallbackTokens : Nat := 0
  preempts : Nat := 0
  deadlineMisses : Nat := 0
  deriving DecidableEq, Repr

/-- A sequence's place in a batch step (R246): tokens processed and whether it runs on its fall-back (R260). -/
structure StepEntry where
  seq : Nat
  count : Nat
  prefill : Bool
  fallback : Bool := false
  deriving DecidableEq, Repr

/-- A command held until the running step commits (R249). -/
inductive Held where
  | release (c : Cmd) (seq : BitVec 32)
  | rollback (c : Cmd) (seq : BitVec 32) (n : Nat) (t : BitVec 32)
  | fork (c : Cmd) (parent : BitVec 32) (seed : BitVec 64) (tokenRec : Nat)
  | verify (c : Cmd) (seq : BitVec 32) (toks : List (BitVec 32)) (external : Bool)
  | deadline (c : Cmd) (seq : BitVec 32) (interval : Nat) (deadline : Word) (fallback : Nat)
  | swapOut (c : Cmd) (seq : BitVec 32) (host : Nat)
  | swapIn (c : Cmd) (seq : BitVec 32)
  deriving DecidableEq, Repr

/-- An ATTN_FWD a step issues in each layer (R250): the model whose plan it uses, its key/value bucket and its pointer list. -/
structure StepAttn where
  model : Nat
  bucket : Nat
  entries : List (List Byte)
  deriving DecidableEq, Repr

/-- The batch step a partition runs (R246, R248). -/
structure BatchStep where
  cmd : Cmd
  model : Nat
  gen : BitVec 16
  mixed : Bool
  entries : List StepEntry
  leftOut : List Nat
  result : Nat
  predictNs : Nat := 0
  swappedOut : List Nat := []
  held : List Held := []
  rows : Nat := 0
  attn : List StepAttn := []
  deriving DecidableEq, Repr

/-- The serving tables of the module (R233, R241, R243, R262): refs holds each key/value page in use by its first 16 KiB
page number, with its size exponent and reference count (R241). -/
structure Serving where
  seqs : Tbl Seq := []
  reuse : Tbl Nat := []
  refs : Tbl (Nat × Nat) := []
  nodes : List PromptNode := []
  skippedInserts : Nat := 0
  collisions : Nat := 0
  clients : List Client := []
  steps : Tbl BatchStep := []
  ratios : Tbl (List (Nat × Nat)) := []
  stamp : Nat := 0
  deriving DecidableEq, Repr

/-- A collective group (R263). -/
structure Group where
  part : Nat
  kind : Nat
  members : List GroupMember
  deriving DecidableEq, Repr

/-- A gradient bucket (R264): base address, MiB, first and last layer, and whether it has filled. -/
structure Bucket where
  base : Nat
  mib : Nat
  first : Nat
  last : Nat
  filled : Bool := false
  reduced : Bool := false
  deriving DecidableEq, Repr

/-- A ring reduction (R265): by command or for a bucket. step counts ring steps done; in true colour exps holds the top
exponents of its blocks of 256 elements, as far as the first network pass has reduced them (R67). -/
structure Reduction where
  cmd : Option Cmd
  bucket : Option Nat
  format : Nat
  addr : Nat
  length : Nat
  exact : Bool := false
  exps : List (Option Int) := []
  step : Nat := 0
  deriving DecidableEq, Repr

/-- A global-norm command in progress (R268, R271): its own vector, and in true colour the top exponents of its blocks once the
first pass has come back (R67). -/
structure NormRun where
  cmd : Cmd
  group : Nat
  layers : Nat
  skip : Bool
  maxNorm : BitVec 32
  own : List (BitVec 32) := []
  exps : Option (List (Option Int)) := none
  deriving DecidableEq, Repr

/-- A norm tree node (R268, R269): children expected (0 until its own module's command), the module above it and those below,
arrivals by child index and whether it gave up (R271). -/
structure NormNode where
  part : Nat := 0
  children : Nat := 0
  parent : Option Nat := none
  kids : List Nat := []
  arrived : Tbl (List (BitVec 32) × Option Nat) := []
  timedOut : Bool := false
  deriving DecidableEq, Repr

/-- The learning state of a partition (R264 to R266, R268, R270, R272, R273): reductions by group, the running one first; and
where the last OPTIMIZER_STEP found its state (log entry 53). -/
structure Learning where
  group : Nat := 0
  format : Nat := 0
  buckets : List Bucket := []
  reductions : Tbl (List Reduction) := []
  telemetry : Nat := 0
  telemetryRecords : Nat := 0
  telemetryNext : Nat := 0
  layerSq : Tbl (BitVec 32) := []
  layerNonfinite : Tbl Nat := []
  norm : Option NormRun := none
  clip : BitVec 32 := 0x3F800000
  skipped : Bool := false
  skipHalves : Bool := false
  optState : Option Nat := none
  gradNorms : Tbl (BitVec 32) := []
  nextGen : BitVec 16 := 0
  exact : Bool := false
  deriving DecidableEq, Repr

/-- Layer slot states (R279). -/
inductive SlotState where
  | empty | staging | complete | active | previous
  deriving DecidableEq, Repr

/-- A layer's weight slot (R279): its generation and where its image lies. -/
structure WeightSlot where
  state : SlotState := .empty
  gen : BitVec 16 := 0
  addr : Nat := 0
  bytes : Nat := 0
  deriving DecidableEq, Repr

/-- The staging of one layer (R280 to R283). -/
structure Staging where
  bytes : Nat
  crcTable : Nat
  chunks : Nat
  counter : Nat := 0
  next : Nat := 0
  verified : List Nat := []
  fails : Tbl Nat := []
  deriving DecidableEq, Repr

/-- A model layer's two slots (R279). -/
structure Layer where
  active : WeightSlot := {}
  standby : WeightSlot := {}
  staging : Option Staging := none
  deriving DecidableEq, Repr

/-- A GEN_STAGE in progress (R280 to R283). -/
structure StageCmd where
  cmd : Cmd
  model : Nat
  gen : BitVec 16
  layers : List Nat
  notice : BitVec 32
  noticeModule : Nat
  source : Nat
  deriving DecidableEq, Repr

/-- A GEN_FLIP waiting for its condition (R284). -/
structure FlipCmd where
  cmd : Cmd
  model : Nat
  atomic : Bool
  gen : BitVec 16
  layers : List Nat
  deriving DecidableEq, Repr

/-- The cached column vectors of a B operand that a plan marks as weights (R61): the operand and how it is walked, and by column its
exponent vector entry and its guard sum in units of 2^-40 (R63). -/
structure WeightVec where
  b : Nat
  scale : Nat
  ld : Nat
  n : Nat
  k : Nat
  kPad : Nat
  axis : Bool
  fmt : Nat
  pad : BitVec 32
  cols : List (BitVec 32 × Nat)
  deriving DecidableEq, Repr

/-- The weight generations of a partition (R279 to R289): layers keyed model × 65,536 + layer; vectors holds the cached column vectors
(R61). -/
structure Generations where
  layers : Tbl Layer := []
  vectors : List WeightVec := []
  stagings : List StageCmd := []
  flips : List FlipCmd := []
  retires : List (Cmd × Nat × BitVec 16) := []
  deriving DecidableEq, Repr

/-- An expert map entry (R274). -/
structure Expert where
  home : Nat
  region : Nat
  group : Nat
  cap : Nat
  recvBase : Nat
  deriving DecidableEq, Repr

/-- A TOKEN_DISPATCH whose rows are on their way to other modules (R274, R276): the segments left, the first failure and the result
words. -/
structure Dispatch where
  cmd : Cmd
  left : Nat
  failure : Option (Status × Nat) := none
  words : List (BitVec 32)
  deriving DecidableEq, Repr

/-- The expert tables of a partition (R274, R276). -/
structure Experts where
  map : Tbl Expert := []
  waiting : List (Cmd × List (Nat × Expert)) := []
  drops : Tbl Nat := []
  dispatches : List Dispatch := []
  deriving DecidableEq, Repr

/-- A loaded plan (R138, R140): header fields and contents. -/
structure Plan where
  part : Nat
  addr : Nat
  size : Nat
  coresRequired : Nat
  rowStable : Bool
  cclkNom : Nat
  hbmBwNom : Nat
  signature : Word
  body : PlanBody
  deriving DecidableEq, Repr

/-- One product of a compute command (R131, R133): operand and output addresses, its rows, the outer index its first row
has in the command's output, and in true colour the 32-bit exponent vector entries of its rows and columns (R60, R61). -/
structure MatItem where
  a : Nat
  b : Nat
  d : Nat
  m : Nat
  outer : Nat := 0
  rows : List (BitVec 32) := []
  cols : List (BitVec 32) := []
  deriving DecidableEq, Repr

/-- An output value that waits for the rest of its MX block of 32 columns (R56): where its product's output lies, its row and
column, and the value. -/
structure HeldOut where
  d : Nat
  row : Nat
  col : Nat
  v : FVal
  deriving DecidableEq, Repr

/-- A compute command in progress (R84, R119 to R121, R58): its products and epilogue, its counts, the tiles of its
unfinished outputs by logical core, the partial tiles already combined, and the output values whose MX block is not complete. mcast
is the first and the number of its candidate's multicast groups (R116). A BRUSH_RUN (isBrush) has instead the cores whose program
still runs. -/
structure MatJob where
  cmd : Cmd
  plan : Nat
  isBrush : Bool := false
  template : Template
  head : ComputeHead
  n : Nat
  k : Nat
  bias : Nat
  alpha : BitVec 32
  beta : BitVec 32
  seed : Word
  stream : BitVec 32
  exact : Bool
  conv : Option ConvParams := none
  items : List MatItem := []
  todo : List (Nat × TileDesc) := []
  donePieces : List (Nat × Nat × Nat) := []
  held : List HeldOut := []
  mcast : Nat × Nat := (0, 0)
  nan : Nat := 0
  inf : Nat := 0
  cores : List Nat := []
  deriving DecidableEq, Repr

/-- A task's snapshot (R200): listed objects by handle and the local flags of the partition's cores by logical core. -/
structure Snapshot where
  plan : Nat
  task : Nat
  objects : List (BitVec 32 × SyncObj)
  flags : List (Nat × Tbl LocalFlag)
  deriving DecidableEq, Repr

/-- Partition quotas (R344). -/
structure Quota where
  hbmMib : Nat := 0
  syncObjects : Nat := 0
  queues : Nat := 0
  queueSlots : Nat := 0
  sequences : Nat := 0
  clients : Nat := 0
  kvPoolMib : Nat := 0
  deriving DecidableEq, Repr

/-- What a stop keeps of one logical core (R353, R354): its brush state, the tiles still to issue, the descriptor its program waits with,
its accumulator flags, and whether its first tile waits for a halo. -/
structure SavedCore where
  core : Nat
  brush : Brush
  work : List TileDesc
  tileWait : Option TileDesc
  accFlags : Tbl XAcc
  haloWait : Bool
  deriving DecidableEq, Repr

/-- A job's saved work (R350, R353, R354): withdrawn waits with their handles; what it keeps of each logical core; the byte ranges saved as (is-accumulator, core, offset, bytes); and the poisoned palette units
among them as (core, unit); and the placement epoch of the stop. -/
structure Saved where
  epoch : BitVec 16 := 0
  waits : List (BitVec 32 × Waiter) := []
  cores : List SavedCore := []
  ranges : List (Bool × Nat × Nat × List Byte) := []
  poison : List (Nat × Nat) := []
  deriving DecidableEq, Repr

/-- A job of a partition (R346, R348, R351 to R356). soft and hard are pre-emptions that have not stopped it yet (soft without a
command is a slice's), waiters the PREEMPT commands to answer at the stop, sliced says that the stop is a slice's, saving that a stopped job's save has not
completed, restoring a restore that waits for the save and its turn, with the RESUME commands to answer (none after a slice). -/
structure Job where
  stopped : Bool := false
  soft : Option (Option Cmd) := none
  hard : Option Cmd := none
  waiters : List Cmd := []
  sliced : Bool := false
  saving : Bool := false
  restoring : Option (List Cmd) := none
  locks : List (Nat × BitVec 32 × UnitId) := []
  interrupted : List Cmd := []
  saved : Saved := {}
  deriving DecidableEq, Repr

/-- CKPT_POLICY and the last CKPT_BUDDY of a partition (R384 to R386). -/
structure Ckpt where
  codes : List Nat := [0, 0, 0, 0, 0, 0, 0, 0]
  onFog : Bool := false
  minInterval : Nat := 0
  last : Option (Cmd × Nat × Nat × Nat × Word) := none
  lastTime : Word := 0
  fogWaiting : Bool := false
  holding : Bool := false
  deriving DecidableEq, Repr

/-- A tenant partition with its PART_ registers (R343 to R349, R357 to R362). -/
structure Partition where
  enabled : Bool := false
  mask : BitVec 96 := 0
  quota : Quota := {}
  hbmBase : Nat := 0
  epoch : BitVec 16 := 0
  epochTime : Word := 0
  wayMask : List (BitVec 16) := [0xFFFF, 0xFFFF, 0xFFFF, 0xFFFF, 0xFFFF, 0xFFFF, 0xFFFF, 0xFFFF]
  link : BitVec 16 := 0
  flushBase : Word := 0
  flushLen : Word := 0
  flushBusy : Option (Bool × Nat × Nat) := none
  passedOver : Nat := 0
  mixedSteps : Nat := 0
  staleDrops : Nat := 0
  mode : Nat := 0
  kvPolicy : Nat := 0
  pageMax : Nat := 7
  slice : Nat := 0
  drainMs : Nat := 0
  holder : Option Nat := none
  jobs : Tbl Job := []
  selection : List (Nat × Nat × Nat × Nat) := []
  windowDiscards : Nat := 0
  snapshots : List Snapshot := []
  stage : Stage := {}
  learning : Learning := {}
  gens : Generations := {}
  experts : Experts := {}
  ckpt : Ckpt := {}
  deriving DecidableEq, Repr

/-- A log entry (R382), with whether LOG_READ has returned it; states holds the 16 bytes of an object as snapshotted and as found, beside
the entry of a task's difference (R200; log entry 126). -/
structure LogEntry where
  index : Nat
  time : Word
  event : Nat
  status : Nat := 0
  severity : Nat
  level : Nat := 3
  coalesced : Bool := false
  path : Nat := 8
  part : Nat := 0xFF
  otherPart : Nat := 0xFF
  source : Nat := 0
  inc : Nat := 0
  other : Nat := 0
  repeats : Nat := 0
  arg : Word := 0
  states : List Byte := []
  read : Bool := false
  deriving DecidableEq, Repr

/-- The keeper's log and its drop counters by severity (R380). -/
structure Log where
  entries : List LogEntry := []
  drops : List Nat := [0, 0, 0, 0, 0, 0]
  deriving DecidableEq, Repr

/-- Arbiter state of one output (R35, R36): the last 16 grants' classes newest first, skips of P3, the round-robin pointer of each class
and the refused urgent decisions of R37. -/
structure Arbiter where
  window : List Nat := []
  last : Nat := 4
  p3Skips : Nat := 0
  pointers : Tbl Nat := []
  urgentHeld : Nat := 0
  deriving DecidableEq, Repr

/-- A frame a port holds to send (R315, R316, R318): class, sub-channel and either packets or a stream's number with its bytes, as the
write they make. -/
structure Frame where
  cls : Nat
  subch : Nat
  packets : List Pkt := []
  stream : Option (Nat × Pkt) := none
  deriving DecidableEq, Repr

/-- A DATA stream a port direction sends (R318): its number, the identity of its transfer, its destination address and byte count, the
bytes its frames have taken, and bytes that wait for a frame, with the header their packets have. -/
structure StreamOut where
  number : Nat
  unit : Nat
  serial : Nat
  start : Nat
  total : Nat
  taken : Nat := 0
  waiting : List Byte := []
  head : Pkt
  deriving DecidableEq, Repr

/-- What this module has settled of another module's stream (R318): the sender, the stream's serial and local start address, and the
(offset, length) of its bytes written or refused. -/
structure Inbound where
  src : Nat
  unit : Nat
  serial : Nat
  start : Nat
  settled : List (Nat × Nat) := []
  deriving DecidableEq, Repr

/-- A slot kept for replay (R326): its TX_INDEX and frames, with the bound fields of its link word (R324). -/
structure SentSlot where
  index : Nat
  frames : List Frame
  credits : List Nat
  p0 : BitVec 32
  deriving DecidableEq, Repr

/-- A slot as a port sends it (R315, R320, R321): its link word, whether its codewords are markers, the physical lane of each logical one,
whether the port is UP, and its place in the count of codewords. -/
structure SlotOut where
  port : Nat
  slot : SentSlot
  link : BitVec 128
  marker : Bool
  lanes : List Nat
  up : Bool
  count : Nat
  deriving DecidableEq, Repr

/-- Lane lock states (R322): where the search goes on, the bit position of the remembered candidate, or that of the last marker's place
with the miss count. -/
inductive LaneLock where
  | hunt (start : Nat)
  | check1 (seen : Nat)
  | check2 (seen : Nat)
  | locked (place misses : Nat)
  deriving DecidableEq, Repr

/-- A physical receive lane (R322, R323, R326, R329): its lock, its run of uncorrectable codewords, the transmitting lane its markers name,
how many picoseconds it lies behind the earliest, its corrected symbols, and those since a moment at most 1 s ago (R378). -/
structure Lane18 where
  lock : LaneLock := .hunt 0
  peer : Nat := 0
  skewPs : Nat := 0
  corrected : Nat := 0
  marginFrom : Word := 0
  marginSum : Nat := 0
  badRun : Nat := 0
  resyncs : List Word := []
  retired : Bool := false
  deriving DecidableEq, Repr

/-- A lantern port (R312 to R333) with its LP_ registers. -/
structure Port where
  enable : Bool := true
  loopback : Bool := false
  axis : Nat := 0
  dateline : Bool := false
  bond : BitVec 6 := 0
  state : Nat := 0
  peerModule : Nat := 0
  peerBoot : Option Nat := none
  flightNs : Nat := 0
  noAssembly : Bool := false
  selfConnected : Bool := false
  flightLimit : Bool := false
  laneTx : List Nat := [0, 1, 2, 3, 4, 5, 6, 7, 8, 9, 10, 11, 12, 13, 14, 15]
  laneRx : List Nat := [0, 1, 2, 3, 4, 5, 6, 7, 8, 9, 10, 11, 12, 13, 14, 15]
  lanes : Tbl Lane18 := []
  mapRequest : Option (Nat × Nat × Nat) := none
  mapTransmit : Option (Nat × Nat × Nat) := none
  txLanes : List Nat := []
  slotClock : Nat := 0
  codewords : Nat := 0
  txIndex : Nat := 0
  rxNext : Nat := 0
  nak : Bool := false
  nakFrom : Option (Nat × Nat) := none
  resending : Option Nat := none
  sameResends : Nat := 0
  replay : List SentSlot := []
  frames : List Frame := []
  credits : List Nat := [32, 32, 64, 64, 960, 960]
  creditSeen : List Nat := [0, 0, 0, 0, 0, 0]
  freed : List Nat := [0, 0, 0, 0, 0, 0]
  p0Out : List (BitVec 32) := []
  p0In : List (BitVec 32) := []
  lostWords : Nat := 0
  arb : Arbiter := {}
  streamsOut : List StreamOut := []
  heldOpens : List Pkt := []
  turn : Nat := 0
  streamsIn : Tbl (Nat × Nat × Pkt) := []
  corrected : Nat := 0
  uncorrectable : Nat := 0
  naks : Nat := 0
  resends : Nat := 0
  falseMarkers : Nat := 0
  resyncs : Nat := 0
  reservedDrops : Nat := 0
  routeDrops : Nat := 0
  timeOffset : Int := 0
  deriving DecidableEq, Repr

/-- The scale-out tables of the package (R339, R340): both dies' route table, tree nodes by die × 4,096 + node, groups,
and norm nodes. -/
structure Lantern where
  ports : Tbl Port := []
  routes : Tbl Byte := []
  trees : Tbl TreeNode := []
  groups : Tbl Group := []
  norms : Tbl NormNode := []
  armedTrees : List (Nat × Nat) := []
  inbound : List Inbound := []
  deriving DecidableEq, Repr

/-- Beacon time (R335 to R338). -/
structure Time where
  now : Word := 0
  source : Nat := 0
  parent : Nat := 0
  holdover : Bool := false
  rate : Int := 0
  loadAtPps : Option Word := none
  lastPps : Word := 0
  deriving DecidableEq, Repr

/-- Power control (R390, R401 to R404) with the PWR_ registers. cclk is what PWR_CCLK_MHZ reads, cclkRun the programmed
CCLK in force (R99), stretch the sixteenths of its span the effective clock lies below it (R404). -/
structure Power where
  uv : Bool := false
  ov : Bool := false
  capClamped : Bool := false
  brakeSeen : Bool := false
  brakePin : Bool := false
  brakeUv : Bool := false
  inputW : Nat := 0
  cap : Nat := 2800
  brakeLevel : Nat := 1200
  cclk : Nat := 1200
  cclkRun : Nat := 1200
  clkCtrl : Nat := 4
  idleOff : BitVec 96 := 0
  hostOff : Bool := false
  stretch : Nat := 0
  fEff : Nat := 0
  hold : Nat := 0
  lowering : Bool := false
  raising : Bool := false
  thermalLimit : Nat := 2800
  phases : List Nat := []
  domains : BitVec 128 := 0x80000000000000000000000000000000
  zgate : List Nat := [0, 0, 0, 0, 0, 0, 0, 0]
  deriving DecidableEq, Repr

/-- Thermal state and thresholds (R405); temperatures are in 0.125 °C units. -/
structure Thermal where
  junctionAlert : Bool := false
  hbmAlert : Bool := false
  throttling : Bool := false
  tripSeen : Bool := false
  throttle : Nat := 95
  hbmThrottle : Nat := 90
  alert : Nat := 100
  hbmAlertAt : Nat := 95
  sensors : Tbl Int := []
  hbm : Tbl Int := []
  tripPin : Bool := false
  deriving DecidableEq, Repr

/-- The package registers (R417 to R422). -/
structure Pkg where
  state : Nat := 0
  moduleId : Option Nat := none
  straps : BitVec 4 := 0
  lock : BitVec 7 := 0
  errStatus : BitVec 7 := 0
  errMask : Word := 0
  buddyPartner : Word := 0
  buddyBase : Word := 0
  buddySize : Nat := 0
  fog : BitVec 10 := 0
  arbStats : List Nat := [0, 0, 0, 0, 0]
  dbgSelect : List Word := [0, 0, 0, 0, 0]
  dbgView : List (List Byte) := [[], [], [], [], []]
  linkRate : Nat := 0
  linkWidth : Nat := 0
  noFlit : Bool := false
  deriving DecidableEq, Repr

/-- Fused values: part number, stepping, reserve positions, minimum security version (R4, R374, R392). -/
structure Fuse where
  lowBin : Bool := false
  stepping : BitVec 8 := 1
  reserves : List Nat := []
  minSecurity : Nat := 0
  deriving DecidableEq, Repr

/-- A firmware slot in flash (R395, R398). -/
structure FwSlot where
  valid : Bool := true
  trial : Bool := false
  version : Nat := 1
  security : Nat := 0
  minPeer : Nat := 0
  deriving DecidableEq, Repr

/-- The flash (R395): slots, the active one, boot count, and the repair record. -/
structure Flash where
  slotA : FwSlot := {}
  slotB : FwSlot := {}
  activeB : Bool := false
  bootCount : Nat := 0
  retiredUnits : List Nat := []
  retiredSpans : List Nat := []
  repairedRows : List Nat := []
  deriving DecidableEq, Repr

/-- Keepers, firmware update and head keeper (R375, R376, R398, R399). activeK says which of a region's two keepers is active, out
lists keepers out of service as 2r + k, beats the time of each region's last heartbeat, takingOver the regions whose takeover or
restart is not done. fwCmd is a running ACTIVATE with its slot (without a command after its function's reset), fwRegion the
region that is being updated, fwFormer the version to revert to, fwReverting whether it reverts, fwAwaiting whether it waits for
every keeper's health. -/
structure Keepers where
  activeK : Tbl Nat := []
  out : List Nat := []
  beats : Tbl Word := []
  takingOver : List Nat := []
  headRestarting : Bool := false
  lastMismatch : Option Word := none
  fwCmd : Option (Option Cmd × Nat) := none
  fwRegion : Option Nat := none
  fwFormer : Nat := 0
  fwReverting : Bool := false
  fwAwaiting : Bool := false
  runningVersion : Nat := 1
  healthy : BitVec 17 := 0
  deriving DecidableEq, Repr

/-- Repair state (R149, R374, R377, R378): unused and repaired rows, remapped and spare lanes, UCIe masks, offline spans, the times of a row's
corrected errors, refreshes by stack × 64 + bank and the last ECS counts of each stack, newest first. -/
structure Repair where
  reserveMin : Nat := 2
  hbmUnused : Tbl Nat := []
  hbmRepaired : Tbl Nat := []
  hbmLanes : Tbl Nat := []
  hbmSpareLanes : Tbl Nat := []
  hbmChannels : List (Nat × Nat) := []
  sramUnused : Tbl Nat := []
  sramRepaired : Tbl Nat := []
  sramEmpty : Tbl Nat := []
  ucie : Tbl Byte := []
  offline : List Nat := []
  rowErrors : Tbl (List Word) := []
  refreshed : Tbl Nat := []
  ecs : Tbl (List Nat) := []
  deriving DecidableEq, Repr

/-- Which physical unit serves what (R11, R12, R368, R369): the logical map, the block each logical number was given in
at boot (log entry 11), retired and unusable units, incarnations,
fences and dark-traffic counts, and the times of a block switch's recent double-bit errors (R366). Units are numbered by R170. -/
structure Units where
  logical : Tbl Nat := []
  home : Tbl Nat := []
  retired : List Nat := []
  unusable : List Nat := []
  selfTest : List (Nat × Cmd) := []
  inc : Tbl Nat := []
  fences : List (Nat × Nat) := []
  darkBlock : Tbl Nat := []
  darkRegion : Tbl Nat := []
  darkLast : Tbl Word := []
  compute : Tbl (List Word) := []
  blocksOut : List Nat := []
  regionsOut : List Nat := []
  switchDbes : Tbl (List Word) := []
  deriving DecidableEq, Repr

/-- What the block has sent or raised that the outside world sees: packets on the fabrics and links, MSI-X messages,
unit releases, the command lists the stage sequencer gave the region keepers as (partition, plan, list, micro-batch) (R224), P0
messages delivered to the module, and slots sent with their link words, oldest first. A field of the model (log entry 3). arbs holds the arbiters the packets
pass on their way out, of R9's levels but the lantern ports' own, by level × 4,096 + number: 0 palette by core, 1 block switch by block,
2 mesh by region, 3 die-to-die by edge (R23). -/
structure Outputs where
  packets : List Pkt := []
  arbs : Tbl Arbiter := []
  msix : List (Nat × Nat) := []
  releases : List Release := []
  lists : List (Nat × Nat × Nat × Nat) := []
  p0 : List (Nat × List (BitVec 32)) := []
  slots : List SlotOut := []
  deriving DecidableEq, Repr

/-- A lock operation this module's issuer awaits from another module (R316, R302); a blocking acquisition is one of the commands a host
function has pending (R174). -/
structure RemoteOp where
  who : Issuer
  module : Nat
  handle : BitVec 32
  acquire : Bool
  blocking : Bool := false
  deriving DecidableEq, Repr

/-- A QUEUE_CREDIT command that awaits another module's engine (R211 to R213): of a remote queue, or one that takes credits back from a
remote producer. -/
structure CreditOp where
  cmd : Cmd
  module : Nat
  queue : Nat
  endpoint : Nat
  delta : Int
  deriving DecidableEq, Repr

/-- Supplies and reset pins (R389 to R391, R402). -/
structure Supplies where
  auxOk : Bool := true
  mainOn : Bool := false
  inputOk : Bool := true
  standbyLatched : Bool := false
  resetHeld : Bool := true
  perstHeld : Bool := true
  cages : BitVec 6 := 0
  deriving DecidableEq, Repr

/-- The state of the block. pending is the queue of waiting commands, first in, first out; free counts the free values
drawn so far (log entry 5). reports holds the error queues: the reports no
handler has resolved yet, each with the level and the number of its handler, oldest first (R364). -/
structure State where
  pending : List Instr := []
  free : Nat := 0
  reports : List (Nat × Nat × Report) := []
  time : Time := {}
  pkg : Pkg := {}
  fuse : Fuse := {}
  flash : Flash := {}
  supplies : Supplies := {}
  power : Power := {}
  thermal : Thermal := {}
  repair : Repair := {}
  units : Units := {}
  keepers : Keepers := {}
  log : Log := {}
  mem : Memory := {}
  cores : Tbl Core := []
  regions : Tbl RegionMem := []
  combine : Tbl (List Partial × List Combining) := []
  jobs : Tbl MatJob := []
  nextJob : Nat := 0
  plans : Tbl Plan := []
  nextPlan : Nat := 1
  rings : Tbl Ring := []
  fnInc : Tbl Nat := []
  parts : Tbl Partition := []
  objects : Tbl SyncObj := []
  hostWords : Tbl HostWord := []
  barriers : Tbl Barrier := []
  remoteOps : List RemoteOp := []
  probes : List (UnitId × Nat × Nat) := []
  channels : Tbl Channel := []
  engines : Tbl QueueEngine := []
  proxies : List Proxy := []
  creditOps : List CreditOp := []
  serving : Serving := {}
  lantern : Lantern := {}
  out : Outputs := {}
  deriving DecidableEq, Repr

/-- Faults: the model stops. No command the table gives ends so on a well-formed operand. -/
inductive Fault where
  /-- A unit number names no unit of R170 (a physical core above 863, a region above 7): raised by the meanings that
  name a unit directly, on an operand WellFormed refuses. Safe: the spec has no such unit. -/
  | noSuchUnit
  deriving DecidableEq, Repr

/-- Refusals: a command with no meaning. -/
inductive Refusal where
  /-- The row has no meaning in this model: raised by Dispatch alone. Safe. -/
  | notModelled (mnemonic : String)
  deriving DecidableEq, Repr

/-- What a meaning answers. -/
abbrev Result := Host.Outcome State Fault Refusal

/-- The reserve positions of one region the model takes at reset: its last eight physical cores (log entry 4). -/
def defaultReserves : List Nat :=
  (List.range 8).flatMap fun r => (List.range 8).map fun k => r * 108 + 100 + k

/-- The module right after reset: in BOOT (PKG_STATUS STATE 0), rails off, every register at its reset value, nothing
configured and an empty queue (R391, R421). -/
def State.reset : State := { fuse := { reserves := defaultReserves } }

end Sys2Proof.Machine
end

