-- ==== Sys2Proof/Machine/Tables.lean ====
section
/-! DEFINITION. Operations over tables (association lists with rising keys) and lists. -/

namespace Sys2Proof.Machine

/-- The entry at a key. -/
def tget {α : Type} (k : Nat) : Tbl α → Option α
  | [] => none
  | (j, v) :: t => if j = k then some v else tget k t

/-- The entry at a key, or the value an unlisted key stands for. -/
def tgetD {α : Type} (k : Nat) (d : α) (t : Tbl α) : α := (tget k t).getD d

/-- Sets an entry, keys kept rising. -/
def tput {α : Type} (k : Nat) (v : α) : Tbl α → Tbl α
  | [] => [(k, v)]
  | (j, w) :: t => if k < j then (k, v) :: (j, w) :: t else if k = j then (k, v) :: t else (j, w) :: tput k v t

/-- Removes an entry. -/
def tdel {α : Type} (k : Nat) (t : Tbl α) : Tbl α := t.filter fun e => e.1 != k

/-- Updates an entry, an unlisted one starting from d. -/
def tmod {α : Type} (k : Nat) (d : α) (f : α → α) (t : Tbl α) : Tbl α := tput k (f (tgetD k d t)) t

/-- Updates an entry only where it is listed. -/
def tupd {α : Type} (k : Nat) (f : α → α) (t : Tbl α) : Tbl α :=
  match tget k t with
  | some v => tput k (f v) t
  | none => t

/-- Replaces element i of a list. -/
def lset {α : Type} (i : Nat) (v : α) : List α → List α
  | [] => []
  | x :: t => match i with
    | 0 => v :: t
    | j + 1 => x :: lset j v t

/-- Updates element i of a list. -/
def lmod {α : Type} (i : Nat) (f : α → α) : List α → List α
  | [] => []
  | x :: t => match i with
    | 0 => f x :: t
    | j + 1 => x :: lmod j f t

/-- Saturating count. -/
def satAdd (cap n d : Nat) : Nat := min cap (n + d)

end Sys2Proof.Machine
end

