-- ==== Sys2Proof/Machine/Arbitration.lean ====
section
/-! DEFINITION. Arbitration in the fabrics (R34 to R37): the grant decision, the round-robin pointers, and the arbiters a packet passes
between its source and its destination (R9, R23 to R25). -/

namespace Sys2Proof.Machine

/-- Fewer than 12 of the last 16 grants went to P0 or P1 (R35). -/
def urgentOk (a : Arbiter) : Bool := (a.window.take 16).countP (· ≤ 1) < 12

/-- The class an arbiter grants, by which classes wait (R35). -/
def grantClass (a : Arbiter) (w0 w1 w2 w3 : Bool) : Option Nat :=
  if urgentOk a && w0 && !(a.last == 0 && w1) then some 0
  else if urgentOk a && w1 then some 1
  else if w3 && decide (15 ≤ a.p3Skips) then some 3
  else if w2 then some 2
  else if w3 then some 3
  else if w0 then some 0
  else if w1 then some 1
  else none

/-- The arbiter after a decision (R35, R37): the window takes the grant, p3_skips counts grants past a waiting P3, and
decisions at which urgent traffic was refused are counted. -/
def afterGrant (a : Arbiter) (w0 w1 _w2 w3 : Bool) (g : Nat) : Arbiter :=
  { a with
    window := (g :: a.window).take 16
    last := g
    p3Skips := if g = 3 then 0 else if w3 then a.p3Skips + 1 else a.p3Skips
    urgentHeld := if !urgentOk a && (w0 || w1) then a.urgentHeld + 1 else a.urgentHeld }

/-- Round-robin within a class (R36): of the inputs that wait, the first at or after the pointer, wrapping. -/
def roundRobin (pointer : Nat) (inputs : List Nat) : Option Nat :=
  let least := fun (l : List Nat) => l.foldl (fun (m : Option Nat) i => some (match m with | some j => min i j | none => i)) none
  match least (inputs.filter fun i => pointer ≤ i) with
  | some i => some i
  | none => least inputs

/-- The input a class's pointer grants of those that wait (R36). -/
def pickInput (a : Arbiter) (cls : Nat) (inputs : List Nat) : Option Nat := roundRobin (tgetD cls 0 a.pointers) inputs

/-- The pointer of a class moves to the input after the one granted (R36). -/
def movePointer (cls input : Nat) (a : Arbiter) : Arbiter := { a with pointers := tput cls (input + 1) a.pointers }

/-- A decision at which one packet waits (log entry 68): it is granted, and the window, the counts and the pointer of its class move. -/
def grantAlone (cls input : Nat) (a : Arbiter) : Arbiter :=
  movePointer cls input (afterGrant a (cls == 0) (cls == 1) (cls == 2) (cls == 3) cls)

/-! The path of a packet (R23 to R25) -/

/-- Where a unit of the package sits: a region's die, a lantern die or the host die. -/
inductive Die where
  | region (r : Nat)
  | lantern (d : Nat)
  | host
  deriving DecidableEq, Repr

/-- The edges between two dies (R23, R24). -/
def edgesOf : Die → Die → List Nat
  | .region r, .region q => if r = q then [] else r :: (if r / 4 = q / 4 then [q] else [8, q])
  | .region r, .lantern d => if r / 4 = d then [r] else [r, 8]
  | .lantern d, .region r => if r / 4 = d then [r] else [8, r]
  | .region r, .host => [r, 9 + r / 4]
  | .host, .region r => [9 + r / 4, r]
  | .lantern d, .lantern e => if d = e then [] else [8]
  | .lantern d, .host => [9 + d]
  | .host, .lantern d => [9 + d]
  | .host, .host => []

/-- The die of a unit (R170). -/
def dieOf (unit : Nat) : Die :=
  if unit < 864 then .region (unit / 108)
  else if 0x400 ≤ unit ∧ unit < 0x410 then .region ((unit - 0x400) / 2)
  else if 0x500 ≤ unit ∧ unit < 0x580 then .region ((unit - 0x500) / 16)
  else if unit = 0x700 ∨ unit = 0x701 then .lantern (unit - 0x700)
  else if 0x800 ≤ unit ∧ unit < 0x808 then .region (unit - 0x800)
  else .host

/-- The number of a die as an input of a lantern port's crossbar: 0 to 7 the regions, 8 the host die, 9 the relay engine (R24). -/
def dieInput : Die → Nat
  | .region r => r
  | .host => 8
  | .lantern _ => 9

/-- The keys of the arbiters inside a region on the way to or from a core's block, or to the region alone: mesh, block switch. -/
def meshKeys (r : Nat) (block : Option Nat) : List Nat :=
  (2 * 4096 + r) :: (match block with | some b => [4096 + b] | none => [])

/-- The arbiters a packet passes as it leaves a unit: its core's block switch and its region's mesh. -/
def leaveKeys (unit : Nat) : List Nat :=
  match dieOf unit with
  | .region r => (meshKeys r (if unit < 864 then some (unit / 9) else none)).reverse
  | _ => []

/-- Where a packet ends inside the module: its die, with the physical core and whether it is the core's palette. -/
structure EndPoint where
  die : Die
  core : Option Nat := none
  palette : Bool := false
  deriving DecidableEq, Repr

/-- The arbiters a packet passes as it reaches its end. -/
def enterKeys (e : EndPoint) : List Nat :=
  match e.die with
  | .region r => meshKeys r (e.core.map (· / 9)) ++ (match e.core with | some p => if e.palette then [p] else [] | none => [])
  | _ => []

/-- The end of a packet at a local address (R150). -/
def endOfAddr (logical : Tbl Nat) (a : Nat) : EndPoint :=
  let core := fun (n : Nat) (palette : Bool) => (tget n logical).elim ({ die := .host } : EndPoint) fun p =>
    { die := .region (p / 108), core := some p, palette := palette }
  if a < 0xC000000000 then { die := .region (a / 0x1800000000) }
  else if 0x10000000000 ≤ a ∧ a < 0x10000000000 + 800 * 0x200000 then core ((a - 0x10000000000) / 0x200000) true
  else if 0x11000000000 ≤ a ∧ a < 0x11000000000 + 800 * 0x20000 then core ((a - 0x11000000000) / 0x20000) false
  else { die := .host }

/-- The end of a packet for an object handle: its region's signal store, or the core of a local flag (R166). -/
def endOfHandle (logical : Tbl Nat) (h : Nat) : EndPoint :=
  if h / 2 ^ 30 = 0 then { die := .region (h % 2 ^ 16 / 2 ^ 13) }
  else if h / 2 ^ 30 = 1 then
    (tget (h % 2 ^ 16 / 32) logical).elim { die := .host } fun p => { die := .region (p / 108), core := some p }
  else { die := .host }

/-- Does ARG hold a local address (R316)? -/
def hasAddress (t : PktType) : Bool :=
  match t with
  | .write | .readReq | .rangeCheck => true
  | _ => false

/-- The end of a packet inside this module: by its address, its object or the unit it answers. -/
def endOf (logical : Tbl Nat) (p : Pkt) : EndPoint :=
  if hasAddress p.type then endOfAddr logical p.arg.toNat
  else
    match p.type with
    | .signal => endOfHandle logical p.arg.toNat
    | .lockOp => endOfHandle logical p.arg.toNat
    | _ => { die := dieOf p.dstUnit, core := if p.dstUnit < 864 then some p.dstUnit else none }

/-- The lantern die a module's traffic uses: that of the PRIMARY port its route names (R340). -/
def lanternOf (routes : Tbl Byte) (module : Nat) : Die :=
  .lantern (match tget module routes with | some b => b.toNat % 8 / 3 % 2 | none => 0)

/-- The keys of the arbiters a packet passes (R9, R24, R25): block switch, mesh, die-to-die crossings, mesh, block switch, palette. A
packet for or from another module passes only the part within this one. -/
def pathKeys (own : Nat) (logical : Tbl Nat) (routes : Tbl Byte) (p : Pkt) : List Nat :=
  let from' := if p.src = own then dieOf p.srcUnit else lanternOf routes p.src
  let leave := if p.src = own then leaveKeys p.srcUnit else []
  if p.dst = own then
    let e := endOf logical p
    leave ++ (edgesOf from' e.die).map (3 * 4096 + ·) ++
      (if e.die = from' then (enterKeys e).filter (fun k => !leave.contains k) else enterKeys e)
  else leave ++ (edgesOf from' (lanternOf routes p.dst)).map (3 * 4096 + ·)

/-- The arbiters after a packet has passed them; its input at each is the die it came from. -/
def passArbs (own : Nat) (logical : Tbl Nat) (routes : Tbl Byte) (p : Pkt) (arbs : Tbl Arbiter) : Tbl Arbiter :=
  (pathKeys own logical routes p).foldl (fun t k => tmod k {} (grantAlone p.cls (dieInput (dieOf p.srcUnit))) t) arbs

/-! Packet sizes (R34) -/

/-- The most data bytes a packet of a class carries (R34). -/
def packetMax (cls : Nat) : Nat := if cls = 3 then 512 else 64

/-- Piece i of a packet's data, with its address (R34). -/
def pieceOf (p : Pkt) (i : Nat) : Pkt :=
  let off := i * packetMax p.cls
  { p with data := (p.data.drop off).take (packetMax p.cls), arg := if hasAddress p.type || p.type == .readData then p.arg + BitVec.ofNat 64 off else p.arg }

/-- The packets a source makes of what it sends: within the limit of its class, split where it is longer (R34). -/
def piecesOf (p : Pkt) : List Pkt :=
  if p.data.length ≤ packetMax p.cls then [p]
  else (List.range ((p.data.length + packetMax p.cls - 1) / packetMax p.cls)).map (pieceOf p)

end Sys2Proof.Machine
end

