-- ==== Sys2Proof/Machine/Ops.lean ====
section
/-! DEFINITION. The named operations over tables, memories and the State's groups that every meaning is built from:
byte and multi-byte memory access, replies, the log, sticky bits and outputs. -/

namespace Sys2Proof.Machine

/-! Byte memories: an unlisted byte reads as zero (log entry 9), and no zero is listed. -/

/-- One byte. -/
def mread (a : Nat) (m : List Host.Cell) : Byte := tgetD a 0 m

/-- Writes one byte, keeping the canonical form. -/
def mwrite (a : Nat) (b : Byte) (m : List Host.Cell) : List Host.Cell := if b = 0 then tdel a m else tput a b m

/-- n bytes from an address. -/
def mreadN (a : Nat) : Nat → List Host.Cell → List Byte
  | 0, _ => []
  | n + 1, m => mread a m :: mreadN (a + 1) n m

/-- Writes bytes from an address. -/
def mwriteN (a : Nat) : List Byte → List Host.Cell → List Host.Cell
  | [], m => m
  | b :: t, m => mwriteN (a + 1) t (mwrite a b m)

/-- Writes bytes only at offsets the predicate allows (units that hold offline or poisoned data keep their bytes). -/
def mwriteIf (keep : Nat → Bool) (a : Nat) : List Byte → List Host.Cell → List Host.Cell
  | [], m => m
  | b :: t, m => mwriteIf keep (a + 1) t (if keep a then mwrite a b m else m)

/-- Keys strictly rising from a bound. -/
def risingFrom (lo : Nat) : List Host.Cell → Bool
  | [] => true
  | (k, _) :: t => lo ≤ k && risingFrom (k + 1) t

/-- The canonical form of one byte memory: addresses strictly rising, no entry equal to what an unlisted one reads. -/
def cellsWf (m : List Host.Cell) : Bool := risingFrom 0 m && m.all fun c => c.2 != 0

/-- The canonical form of the block's memories. -/
def Memory.wf (m : Memory) : Bool := cellsWf m.hbm && cellsWf m.palette && cellsWf m.acc && cellsWf m.host

/-- The little-endian number bytes spell (R18). -/
def leNat : List Byte → Nat
  | [] => 0
  | b :: t => b.toNat + 256 * leNat t

/-- n little-endian bytes of a number (R18). -/
def toLe : Nat → Nat → List Byte
  | 0, _ => []
  | n + 1, v => BitVec.ofNat 8 v :: toLe n (v / 256)

/-- n bytes at an offset of a byte string, missing bytes reading 0. -/
def bytesAt (bs : List Byte) (off n : Nat) : List Byte :=
  let t := (bs.drop off).take n
  t ++ List.replicate (n - t.length) 0

/-- The little-endian field of n bytes at an offset. -/
def fieldAt (bs : List Byte) (off n : Nat) : Nat := leNat (bytesAt bs off n)

/-! Access to the State's groups -/

def coreOf (s : State) (p : Nat) : Core := tgetD p {} s.cores
def modCore (p : Nat) (f : Core → Core) (s : State) : State := { s with cores := tmod p {} f s.cores }

def regionOf (s : State) (r : Nat) : RegionMem := tgetD r {} s.regions
def modRegion (r : Nat) (f : RegionMem → RegionMem) (s : State) : State := { s with regions := tmod r {} f s.regions }

def partOf (s : State) (n : Nat) : Partition := tgetD n {} s.parts
def modPart (n : Nat) (f : Partition → Partition) (s : State) : State := { s with parts := tmod n {} f s.parts }

def ringKey (fn ring : Nat) : Nat := fn * 4 + ring
def ringOf (s : State) (fn ring : Nat) : Ring := tgetD (ringKey fn ring) {} s.rings
def modRing (fn ring : Nat) (f : Ring → Ring) (s : State) : State :=
  { s with rings := tmod (ringKey fn ring) {} f s.rings }

def channelKey (r c : Nat) : Nat := r * 16 + c
def channelOf (s : State) (r c : Nat) : Channel := tgetD (channelKey r c) {} s.channels
def modChannel (r c : Nat) (f : Channel → Channel) (s : State) : State :=
  { s with channels := tmod (channelKey r c) {} f s.channels }

def portOf (s : State) (p : Nat) : Port := tgetD p {} s.lantern.ports
def modPort (p : Nat) (f : Port → Port) (s : State) : State :=
  { s with lantern := { s.lantern with ports := tmod p {} f s.lantern.ports } }

def engineOf (s : State) (r : Nat) : QueueEngine := tgetD r {} s.engines
def modEngine (r : Nat) (f : QueueEngine → QueueEngine) (s : State) : State :=
  { s with engines := tmod r {} f s.engines }

def jobOf (p : Partition) (j : Nat) : Job := tgetD j {} p.jobs
def modJob (part j : Nat) (f : Job → Job) (s : State) : State :=
  modPart part (fun p => { p with jobs := tmod j {} f p.jobs }) s

def modServing (f : Serving → Serving) (s : State) : State := { s with serving := f s.serving }
def modPkg (f : Pkg → Pkg) (s : State) : State := { s with pkg := f s.pkg }
def modPower (f : Power → Power) (s : State) : State := { s with power := f s.power }
def modUnits (f : Units → Units) (s : State) : State := { s with units := f s.units }
def modMem (f : Memory → Memory) (s : State) : State := { s with mem := f s.mem }
def modOut (f : Outputs → Outputs) (s : State) : State := { s with out := f s.out }

/-- This module's identifier; 0 while PKG_MODULE_ID is unwritten (log entry 10). -/
def ownModule (s : State) : Nat := s.pkg.moduleId.getD 0

/-- Sends a packet onto the fabric or towards a port, past the arbiters of its path (R35 to R37). -/
def send (p : Pkt) (s : State) : State :=
  modOut (fun o => { o with
    packets := o.packets ++ [p], arbs := passArbs (ownModule s) s.units.logical s.lantern.routes p o.arbs }) s

/-- Sends what a source has to send, split into packets where its data pass its class's limit (R34). -/
def sendPieces (p : Pkt) (s : State) : State := (piecesOf p).foldl (fun s q => send q s) s

/-- The plane of a P2 or P3 packet for an address: a hash of bits [10:7], the same for the four 128-byte lines of an aligned 512 bytes,
which one packet can hold (R26, R160; log entry 7). -/
def planeOf (addr : Nat) : Nat := Config.planeHash (BitVec.ofNat 4 (addr / 512 * 4)) % 8

/-- A free word, and the counter advanced (log entry 5). -/
def drawFree (s : State) : Word × State := (Config.freeWord s.free, { s with free := s.free + 1 })

/-! Identities -/

/-- The unit identifier of a host function (R170). -/
def fnUnit (fn : Nat) : Nat := if fn = 16 then 0x0610 else 0x0600 + fn

/-- A unit's incarnation (R369); a host function's is its count of resets (R302). -/
def incOf (s : State) (unit : Nat) : Nat :=
  if 0x0600 ≤ unit ∧ unit ≤ 0x0610 then tgetD (unit - 0x0600) 0 s.fnInc else tgetD unit 0 s.units.inc

/-- The full identity of a unit of this module. -/
def unitId (s : State) (unit : Nat) : UnitId := ⟨ownModule s, unit, incOf s unit⟩

/-- The identity a synchronisation operation acts under (R309). -/
def issuerId (s : State) : Issuer → UnitId
  | .host c => unitId s (fnUnit c.fn)
  | .unit _ u => u

/-- The job of a command (R346): the ring of a virtual function, 4 for the physical function. -/
def jobOfCmd (c : Cmd) : Nat := if c.fn = 16 then 4 else c.ring

/-- Is the job of a command stopped (R354)? -/
def cmdStopped (s : State) (c : Cmd) : Bool := (jobOf (partOf s c.part) (jobOfCmd c)).stopped

/-- The partition an operation acts for. -/
def issuerPart : Issuer → Nat
  | .host c => c.part
  | .unit p _ => p

/-- Physical core p's region, block within the module and slot (R10). -/
def regionOfCore (p : Nat) : Nat := p / 108
def blockOfCore (p : Nat) : Nat := p / 9
def slotOfCore (p : Nat) : Nat := p % 9

/-- The physical core that serves a logical number (R11, R12). -/
def physOf (s : State) (logical : Nat) : Option Nat := tget logical s.units.logical

/-- The logical number a physical core serves. -/
def logicalOf (s : State) (p : Nat) : Option Nat := (s.units.logical.find? fun e => e.2 == p).map (·.1)

/-- Is a unit retired or fenced? -/
def isDark (s : State) (unit : Nat) : Bool :=
  s.units.retired.contains unit || s.units.fences.contains (unit, incOf s unit)

/-- The enabled partition that holds a block (R343). -/
def partOfBlock (s : State) (b : Nat) : Option Nat :=
  (s.parts.find? fun e => e.2.enabled && e.2.mask.getLsbD b).map (·.1)

/-- The partition a physical core works for: that of the block its logical number was given in, or of its own block
while it serves none (R343; log entry 11). -/
def partOfCore (s : State) (p : Nat) : Option Nat :=
  partOfBlock s (match logicalOf s p with | some n => tgetD n (blockOfCore p) s.units.home | none => blockOfCore p)

/-- The logical numbers of a partition in ascending order (R343). -/
def logicalsOf (s : State) (part : Nat) : List Nat :=
  (s.units.logical.filter fun e => partOfCore s e.2 == some part).map (·.1)

/-- Active logical cores of a partition (R118). -/
def activeCores (s : State) (part : Nat) : Nat := (logicalsOf s part).length

/-! The log (R380, R381) -/

/-- The lowest free index of an area. -/
def freeIndex (used : List Nat) : Nat → Nat → Option Nat
  | _, 0 => none
  | i, n + 1 => if used.contains i then freeIndex used (i + 1) n else some i

/-- Removes the first entry a test picks. -/
def dropFirst {α : Type} (f : α → Bool) : List α → List α
  | [] => []
  | x :: t => if f x then t else x :: dropFirst f t

/-- Places a general-area entry (R380): a free entry, else the oldest of equal or lower severity, else dropped. -/
def placeGeneral (e : LogEntry) (g : Log) : Log :=
  match freeIndex (g.entries.map (·.index)) 1024 15360 with
  | some i => { g with entries := g.entries ++ [{ e with index := i }] }
  | none =>
    let victim := fun (x : LogEntry) => 1024 ≤ x.index && x.severity ≤ e.severity
    match g.entries.find? victim with
    | some v => { entries := dropFirst victim g.entries ++ [{ e with index := v.index }],
                  drops := lmod v.severity (satAdd 0xFFFFFFFF · 1) g.drops }
    | none => { g with drops := lmod e.severity (satAdd 0xFFFFFFFF · 1) g.drops }

/-- Places an entry (R380): CRITICAL and FATAL in the protected area while it has room. -/
def placeEntry (e : LogEntry) (g : Log) : Log :=
  if 4 ≤ e.severity then
    match freeIndex (g.entries.map (·.index)) 0 1024 with
    | some i => { g with entries := g.entries ++ [{ e with index := i }] }
    | none => placeGeneral e g
  else placeGeneral e g

/-- Is the protected area full for an entry of this severity? -/
def protectedFull (e : LogEntry) (g : Log) : Bool :=
  decide (4 ≤ e.severity) && (freeIndex (g.entries.map (·.index)) 0 1024).isNone

/-- The same source and event code within 1 ms of a first report (R381). -/
def sameReport (e x : LogEntry) : Bool :=
  x.source == e.source && x.event == e.event && decide (e.time.toNat < x.time.toNat + 1000000)

/-- Adds one report to the log (R381): coalesced into its first report within 1 ms, else a new entry. -/
def addLog (e : LogEntry) (g : Log) : Log :=
  if g.entries.any (sameReport e) then
    { g with entries := g.entries.map fun x =>
        if sameReport e x then { x with repeats := satAdd 0xFFFF x.repeats 1, coalesced := true } else x }
  else placeEntry e g

/-- Logs an event at this moment (R381) and marks a full protected area (R380). -/
def logEvent (event severity : Nat) (e : LogEntry → LogEntry) (s : State) : State :=
  let x := e { index := 0, time := s.time.now, event := event, severity := severity }
  { s with
    log := addLog x s.log
    pkg := { s.pkg with
      errStatus := if protectedFull x s.log && !(s.log.entries.any (sameReport x)) then s.pkg.errStatus ||| 2
        else s.pkg.errStatus } }

/-- The severity of an event code (R435). -/
def eventSev (event : Nat) : Nat :=
  if event = 0x0702 ∨ event = 0x0704 then 0
  else if event ∈ [0x0101, 0x0102, 0x0201, 0x0303, 0x030A, 0x0401] then 1
  else if event = 0x0407 ∨ 0x0500 ≤ event ∧ event ≤ 0x0509 then 2
  else if event = 0x0408 then 5
  else if event ∈ [0x0301, 0x0302, 0x0305, 0x0307, 0x0308, 0x0309, 0x030B, 0x0402, 0x0404, 0x0405, 0x0406, 0x0409,
      0x0701, 0x0703] then 4
  else 3

/-- The level that resolves an event code: what a region cannot resolve the package does (R366); else the table's groups 0x01, 0x02 and
0x03 are core, block and region, the others the package's (log entry 13). -/
def eventLevel (event : Nat) : Nat :=
  if event ∈ [0x0302, 0x0307, 0x0309] then 3
  else if event < 0x0200 then 0 else if event < 0x0300 then 1 else if event < 0x0400 then 2 else 3

/-- The levels an event has passed through when its entry is written (R365): the one that resolves it, and the region before the package
where the region passes it up. A report that came from further below names its levels itself. -/
def eventPath (event : Nat) : Nat := 2 ^ eventLevel event + (if event ∈ [0x0302, 0x0307, 0x0309] then 4 else 0)

/-- Logs an event under the severity and level its code has (R365, R381, R435). -/
def note (event : Nat) (f : LogEntry → LogEntry) (s : State) : State :=
  logEvent event (eventSev event) (fun e => f { e with level := eventLevel event, path := eventPath event }) s

/-- Sets a bit of PKG_ERR_STATUS. -/
def setErr (bit : Nat) (s : State) : State :=
  modPkg (fun p => { p with errStatus := p.errStatus ||| BitVec.ofNat 7 (2 ^ bit) }) s

/-- Is this the warning's existing entry (R379)? -/
def sameFog (bit unit : Nat) (x : LogEntry) : Bool := x.event == 0x0500 + bit && x.source == unit

/-- A repeat of a fog warning counts in its entry, or in LOG_DROP once the entry is gone (R379). -/
def repeatFog (bit unit : Nat) (g : Log) : Log :=
  if g.entries.any (sameFog bit unit) then
    { g with entries := g.entries.map fun x =>
        if sameFog bit unit x then { x with repeats := satAdd 0xFFFF x.repeats 1 } else x }
  else { g with drops := lmod 2 (satAdd 0xFFFFFFFF · 1) g.drops }

/-- A fog warning (R379): a new one sets its sticky bit, writes a WARNING entry and asks every partition with ON_FOG
for a buddy copy (R386); a repeat is counted. -/
def fogWarning (bit unit : Nat) (s : State) : State :=
  if s.pkg.fog.getLsbD bit then { s with log := repeatFog bit unit s.log }
  else
    { s with
      parts := s.parts.map fun e =>
        if e.2.ckpt.onFog then (e.1, { e.2 with ckpt := { e.2.ckpt with fogWaiting := true } }) else e
      pkg := { s.pkg with fog := s.pkg.fog ||| BitVec.ofNat 10 (2 ^ bit) }
      log := placeEntry { index := 0, time := s.time.now, event := 0x0500 + bit, severity := 2, source := unit }
        s.log }

/-! Error queues (R364) -/

/-- The depth of a level's error queue. -/
def queueDepth (level : Nat) : Nat := match level with | 0 => 4 | 1 => 16 | 2 => 64 | _ => 256

/-- The severity of a report (R363, R435). -/
def reportSev : Report → Nat
  | .switchSbe _ => 1
  | .hbmLane _ _ _ => 1
  | .fog _ _ => 2
  | .paletteDbe _ _ => 3
  | .switchDbe _ => 3
  | .prefetchLatent _ => 3
  | .persistentCore _ => 4
  | .regionFault _ => 4
  | .meshUncorrectable _ => 4
  | .freeListMismatch _ => 4
  | .hbmChannel _ _ => 4
  | .keeperPairLost _ => 4
  | .blockRetired _ => 4

/-- Counts a report lost to a full queue in LOG_DROP. -/
def dropReport (r : Report) (s : State) : State :=
  { s with log := { s.log with drops := lmod (reportSev r) (satAdd 0xFFFFFFFF · 1) s.log.drops } }

/-- A report enters the queue of a handler (R364): with the queue full it takes the place of the oldest of equal or lower severity, or is
dropped; either way the lost one is counted. -/
def raiseReport (level unit : Nat) (r : Report) (s : State) : State :=
  let mine := fun (q : Nat × Nat × Report) => q.1 == level && q.2.1 == unit
  if s.reports.countP mine < queueDepth level then { s with reports := s.reports ++ [(level, unit, r)] }
  else
    match s.reports.find? fun q => mine q && decide (reportSev q.2.2 ≤ reportSev r) with
    | some v => dropReport v.2.2 { s with reports := dropFirst (· == v) s.reports ++ [(level, unit, r)] }
    | none => dropReport r s

/-- A report that its handler has taken leaves its queue. -/
def takeReport (r : Report) (s : State) : State := { s with reports := dropFirst (fun q => q.2.2 == r) s.reports }

/-! Answers -/

/-- An answer with a status and detail alone. -/
def ans (st : Status) (detail : Nat := 0) : Answer := { status := st, detail := detail }

/-- The two words of a 64-bit result. -/
def words64 (v : Nat) : List (BitVec 32) := [BitVec.ofNat 32 v, BitVec.ofNat 32 (v / 2 ^ 32)]

/-- Completes a started command (R298, R299): its reply is held in the device until REPLY_WRITE writes it. A command
that was pre-empted keeps its place until this, its final reply (R354). -/
def finish (c : Cmd) (a : Answer) (s : State) : State :=
  modRing c.fn c.ring (fun r =>
    { r with
      started := r.started.erase c
      replies := r.replies ++ [{ cmd := c, answer := a, time := s.time.now }] }) s

/-- A meaning that only completes its command. -/
def done (c : Cmd) (a : Answer) (s : State) : Result := .next (finish c a s)

/-- Answers a list of commands alike. -/
def finishAll (cs : List Cmd) (a : Answer) (s : State) : State := cs.foldl (fun s c => finish c a s) s

/-- Runs a meaning on a physical core, which must exist (R9, R170). -/
def onCore (p : Nat) (s : State) (f : Core → State) : Result :=
  if p < 864 then .next (f (coreOf s p)) else .fault .noSuchUnit

/-- Runs a meaning on a region, which must exist (R6). -/
def onRegion (r : Nat) (f : State) : Result := if r < 8 then .next f else .fault .noSuchUnit

/-- Runs a meaning on a port, which must exist (R6). -/
def onPort (p : Nat) (f : State) : Result := if p < 6 then .next f else .fault .noSuchUnit

/-- Runs a meaning on a ring of a function, which must exist (R291, R296). -/
def onRing (fn ring : Nat) (f : State) : Result := if fn ≤ 16 ∧ ring < 4 then .next f else .fault .noSuchUnit

/-- A tick of the clock while no command waits: one nanosecond of beacon time (R335; log entry 1). -/
def tick (s : State) : State := { s with time := { s.time with now := s.time.now + 1 } }

end Sys2Proof.Machine
end

