-- ==== Sys2Proof/Machine/Flags.lean ====
section
/-! DEFINITION. Status codes, the completion value, non-finite flags and generation order: everything the
spec computes as a flag or a code from a state. -/

namespace Sys2Proof.Machine

/-- The 16-bit code of a status (R311). -/
def statusCode : Status → Nat
  | .ok => 0x0000 | .emptyShape => 0x0001 | .badOpcode => 0x0010 | .badLength => 0x0011 | .badAlign => 0x0012
  | .planRejected => 0x0013 | .shapeExceedsPlan => 0x0014 | .tileIllegal => 0x0015 | .quota => 0x0020
  | .locked => 0x0021 | .preempted => 0x0022 | .preemptAborted => 0x0023 | .exactRange => 0x0030
  | .queueReset => 0x0031 | .staleEpoch => 0x0032 | .syncOverrun => 0x0040 | .ownerLost => 0x0041
  | .tenantViolation => 0x0042 | .syncDirty => 0x0043 | .poisoned => 0x0044 | .remoteWriteFailed => 0x0045
  | .deadlineFallback => 0x0050 | .swappedOut => 0x0051 | .nonfiniteSkip => 0x0060 | .genMismatch => 0x0061
  | .genChecksum => 0x0062 | .shapeMismatch => 0x0070 | .buddyUnavailable => 0x0071 | .unitDark => 0x0080
  | .timeout => 0x0081 | .hwFault => 0x0082

/-- The status a code names; a code of no status reads as ST_HW_FAULT, which no caller gives. -/
def statusOf (code : Nat) : Status :=
  match [Status.ok, .emptyShape, .badOpcode, .badLength, .badAlign, .planRejected, .shapeExceedsPlan, .tileIllegal,
      .quota, .locked, .preempted, .preemptAborted, .exactRange, .queueReset, .staleEpoch, .syncOverrun, .ownerLost,
      .tenantViolation, .syncDirty, .poisoned, .remoteWriteFailed, .deadlineFallback, .swappedOut, .nonfiniteSkip,
      .genMismatch, .genChecksum, .shapeMismatch, .buddyUnavailable, .unitDark, .timeout].find?
      (fun s => statusCode s == code) with
  | some s => s
  | none => .hwFault

/-- POISON is set for every status except these four (R306). -/
def poisons : Status → Bool
  | .ok | .emptyShape | .ownerLost | .nonfiniteSkip => false
  | _ => true

/-- The value a completion signal carries to a FLAG object (R306). -/
def completionValue (tag : BitVec 32) (st : Status) : Word :=
  BitVec.ofNat 64 ((if poisons st then 2 ^ 62 else 0) + statusCode st * 2 ^ 32 + tag.toNat)

/-- Generation a is newer than b (R278). -/
def genNewer (a b : BitVec 16) : Bool := 1 ≤ (a - b).toNat && (a - b).toNat ≤ 32767

/-- Records one operand's non-finite product in an exact element's flags (R64). -/
def flagProduct (x : XAcc) : FVal → XAcc
  | .nan => { x with nan := true }
  | .inf true => { x with negInf := true }
  | .inf false => { x with posInf := true }
  | .fin _ _ _ => x

/-- Adds an integer to an exact element's 128 bits; a carry out sets the Inf flag of its direction (R63). -/
def addExact (x : XAcc) (i : Int) : XAcc :=
  let t := x.w.toInt + i
  { x with
    w := BitVec.ofInt 128 t
    posInf := x.posInf || decide ((2 : Int) ^ 127 ≤ t)
    negInf := x.negInf || decide (t < -(2 : Int) ^ 127) }

/-- An addition to a canvas's element, with the 4-bit residue beside it updated (R74): by the residue of the integer, and by the wrap of
the 128 bits where there is one (R63). -/
def accumulate (x : XAcc) (i : Int) : XAcc :=
  let y := addExact x i
  { y with res := mod15 ((x.res : Int) + mod15 i - (x.w.toInt + i - y.w.toInt) / 2 ^ 128) }

/-- Does an element agree with the residue beside it (R74)? -/
def residueOk (x : XAcc) : Bool := x.res == mod15 x.w.toInt

/-- Combines two exact elements: integers added, flags ORed (R64). -/
def mergeExact (a b : XAcc) : XAcc :=
  let t := addExact a b.w.toInt
  { t with nan := t.nan || b.nan, posInf := t.posInf || b.posInf, negInf := t.negInf || b.negInf }

/-- The value an exact element outputs (R64, R65) with weight 2^l. A W of zero gives +0. -/
def exactVal (x : XAcc) (l : Int) : FVal :=
  if x.nan || (x.posInf && x.negInf) then .nan
  else if x.posInf then .inf false
  else if x.negInf then .inf true
  else .fin (x.w.toInt < 0) x.w.toInt.natAbs l

end Sys2Proof.Machine
end

