-- ==== Sys2Proof/Machine/Operands.lean ====
section
/-! DEFINITION. Operand forms: the global address map, handles, page lists, element encodings in memory, command packets
and their parameter blocks. -/

namespace Sys2Proof.Machine

/-! The address map (R150) -/

/-- The byte memories an address can name. -/
inductive Space where
  | hbm | palette | acc | host
  deriving DecidableEq, Repr

/-- Where a global address leads (R150). -/
inductive Place where
  | mem (sp : Space) (key : Nat)
  | notTarget
  | remote (module addr : Nat)
  | unmapped
  deriving DecidableEq, Repr

def hbmTop : Nat := 0xC000000000
def paletteBytes : Nat := 0x180000
def accBytes : Nat := 0x20000

/-- The place of a local address (R150). A logical window whose number is vacant is unmapped. -/
def placeLocal (s : State) (a : Nat) : Place :=
  if a < hbmTop then .mem .hbm a
  else if 0x10000000000 ≤ a ∧ a < 0x10000000000 + 800 * 0x200000 then
    let n := (a - 0x10000000000) / 0x200000
    let off := (a - 0x10000000000) % 0x200000
    match physOf s n with
    | some p => if off < paletteBytes then .mem .palette (p * 0x200000 + off) else .unmapped
    | none => .unmapped
  else if 0x11000000000 ≤ a ∧ a < 0x11000000000 + 800 * 0x20000 then
    let n := (a - 0x11000000000) / 0x20000
    match physOf s n with
    | some p => .mem .acc (p * 0x20000 + (a - 0x11000000000) % 0x20000)
    | none => .unmapped
  else if 0x12000000000 ≤ a ∧ a < 0x12000000000 + 8 * 0x20000 then .notTarget
  else if 0x12100000000 ≤ a ∧ a < 0x12100000000 + 8 * 0x200000 ∧ (a - 0x12100000000) % 0x200000 < 0x180000 then
    .notTarget
  else if 0x13000000000 ≤ a ∧ a < 0x13000000000 + 864 * 0x200000 then
    if (a - 0x13000000000) % 0x200000 < paletteBytes then .notTarget else .unmapped
  else if 0x14000000000 ≤ a ∧ a < 0x14001000000 then .notTarget
  else if 0x400000000000 ≤ a then .mem .host (a - 0x400000000000)
  else .unmapped

/-- The place of a 64-bit global address: bits [63:47] the module, [46:0] the local address (R8, R150). -/
def place (s : State) (addr : Nat) : Place :=
  let m := addr / 2 ^ 47 % 2 ^ 17
  if m = ownModule s then placeLocal s (addr % 2 ^ 47) else .remote m (addr % 2 ^ 47)

/-- The end of a partition's HBM allocation. -/
def hbmEnd (p : Partition) : Nat := p.hbmBase + p.quota.hbmMib * 0x100000

/-- Does the place lie in the partition (R152)? Host memory is the partition's own virtual function's. -/
def inPart (s : State) (part : Nat) (sp : Space) (key : Nat) : Bool :=
  match sp with
  | .hbm => (partOf s part).hbmBase ≤ key && decide (key < hbmEnd (partOf s part))
  | .palette => partOfCore s (key / 0x200000) == some part
  | .acc => partOfCore s (key / 0x20000) == some part
  | .host => true

/-- The end of the target region that holds a place (R150). -/
def regionEnd (s : State) (part : Nat) (sp : Space) (key : Nat) : Nat :=
  match sp with
  | .hbm => hbmEnd (partOf s part)
  | .palette => key / 0x200000 * 0x200000 + paletteBytes
  | .acc => (key / 0x20000 + 1) * 0x20000
  | .host => 2 ^ 46

/-- A local range of a partition: its space and key, or none where its start or extent fails (R157 checks 2, 3). -/
def localRange (s : State) (part addr len : Nat) : Option (Space × Nat) :=
  match place s addr with
  | .mem sp key =>
    if inPart s part sp key && decide (key + len ≤ regionEnd s part sp key) then some (sp, key) else none
  | _ => none

/-- The cells of a space. -/
def cellsOf (sp : Space) (m : Memory) : List Host.Cell :=
  match sp with
  | .hbm => m.hbm | .palette => m.palette | .acc => m.acc | .host => m.host

/-- The memory with one space's cells replaced. -/
def setCells (sp : Space) (c : List Host.Cell) (m : Memory) : Memory :=
  match sp with
  | .hbm => { m with hbm := c } | .palette => { m with palette := c }
  | .acc => { m with acc := c } | .host => { m with host := c }

/-- The span number of a byte: aligned 2 KiB of HBM, or of a palette window (R377). -/
def spanOf (sp : Space) (key : Nat) : Nat :=
  match sp with
  | .palette => 2 ^ 40 + key / 2048
  | _ => key / 2048

/-- Is the byte in a span that is offline or retired (R377)? -/
def isOffline (s : State) (sp : Space) (key : Nat) : Bool :=
  (sp == .hbm || sp == .palette) &&
    (s.repair.offline.contains (spanOf sp key) || s.flash.retiredSpans.contains (spanOf sp key))

/-- The poisoned 64-byte units of a space. -/
def poisonOf (sp : Space) (m : Memory) : List Nat :=
  match sp with
  | .hbm => m.poisonHbm | .palette => m.poisonPalette | _ => []

/-- The memory with one space's poison list replaced. -/
def setPoison (sp : Space) (l : List Nat) (m : Memory) : Memory :=
  match sp with
  | .hbm => { m with poisonHbm := l } | .palette => { m with poisonPalette := l } | _ => m

/-- The 64-byte units n bytes from a key touch. -/
def unitsOf (key n : Nat) : List Nat :=
  if n = 0 then [] else (List.range ((key + n - 1) / 64 - key / 64 + 1)).map (· + key / 64)

/-- The units n bytes from a key cover whole. -/
def wholeUnits (key n : Nat) : List Nat := (unitsOf key n).filter fun u => key ≤ u * 64 && u * 64 + 64 ≤ key + n

/-- Does reading the range meet poison (R143, R149, R377)? -/
def readsPoison (s : State) (sp : Space) (key n : Nat) : Bool :=
  (unitsOf key n).any fun u => (poisonOf sp s.mem).contains u || isOffline s sp (u * 64)

/-- Is a write of the range refused to its writer (R430, R377): part of a poisoned unit, or an offline span? -/
def writeRefused (s : State) (sp : Space) (key n : Nat) : Bool :=
  (unitsOf key n).any fun u =>
    isOffline s sp (u * 64) || ((poisonOf sp s.mem).contains u && !(wholeUnits key n).contains u)

/-- Writes bytes into a space (R430): offline spans keep their bytes, and a unit covered whole loses its poison. -/
def writeSpace (sp : Space) (key : Nat) (bs : List Byte) (s : State) : State :=
  let cells := mwriteIf (fun a => !isOffline s sp a) key bs (cellsOf sp s.mem)
  let cleared := wholeUnits key bs.length
  let poison := (poisonOf sp s.mem).filter fun u => !(cleared.contains u && !isOffline s sp (u * 64))
  { s with mem := setPoison sp poison (setCells sp cells s.mem) }

/-- Marks a unit poisoned. -/
def poisonUnit (sp : Space) (u : Nat) (s : State) : State :=
  let l := poisonOf sp s.mem
  { s with mem := setPoison sp (if l.contains u then l else l ++ [u]) s.mem }

/-- Writes bytes at a global address: into local memory, or out as a packet to a remote module (R150). An address that
names no memory keeps nothing. -/
def writeGlobal (addr : Nat) (bs : List Byte) (s : State) : State :=
  match place s addr with
  | .mem sp key => writeSpace sp key bs s
  | .remote m a =>
    let x : Pkt :=
      { type := .write, src := ownModule s, dst := m, cls := 3, subch := 0, hops := 0, plane := planeOf a, srcUnit := 0x0410
        srcInc := 0, part := 0, arg := BitVec.ofNat 64 a, arg2 := 0, data := bs }
    sendPieces x s
  | _ => s

/-- Bytes at a global address as the module reads them; places that hold no local memory read as zero. -/
def readGlobal (s : State) (addr n : Nat) : List Byte :=
  match place s addr with
  | .mem sp key => mreadN key n (cellsOf sp s.mem)
  | _ => List.replicate n 0

/-- Does reading a global range meet poison? -/
def globalPoisoned (s : State) (addr n : Nat) : Bool :=
  match place s addr with
  | .mem sp key => readsPoison s sp key n
  | _ => false

/-- The first address of a global range that reads poisoned. -/
def firstPoison (s : State) (addr n : Nat) : Option Nat :=
  match place s addr with
  | .mem sp key => ((unitsOf key n).find? fun u => (poisonOf sp s.mem).contains u || isOffline s sp (u * 64)).map fun u => addr + (u * 64 - key)
  | _ => none

/-- The little-endian number of n bytes at a global address. -/
def readNum (s : State) (addr n : Nat) : Nat := leNat (readGlobal s addr n)

/-- The encoding of element i of an array of a format (R46, R47: sub-byte formats packed little-endian). -/
def readElem (s : State) (addr code i : Nat) : Nat :=
  let b := elemBits code
  let off := i * b
  leNat (readGlobal s (addr + off / 8) ((off % 8 + b + 7) / 8)) / 2 ^ (off % 8) % 2 ^ b

/-- Writes element i of an array of a format, keeping the other bits of a shared byte. -/
def writeElem (addr code i v : Nat) (s : State) : State :=
  let b := elemBits code
  let off := i * b
  let n := (off % 8 + b + 7) / 8
  let old := leNat (readGlobal s (addr + off / 8) n)
  let cleared := old - old / 2 ^ (off % 8) % 2 ^ b * 2 ^ (off % 8)
  writeGlobal (addr + off / 8) (toLe n (cleared + v % 2 ^ b * 2 ^ (off % 8))) s

/-- The HBM region of a local address (R150). -/
def regionOfHbm (a : Nat) : Nat := a / 0x1800000000

/-- The stack of a local HBM address (R151). -/
def stackOf (a : Nat) : Nat :=
  let x := (a / 2 ^ 8 + a / 2 ^ 14 + a / 2 ^ 21) % 2
  2 * regionOfHbm a + x

/-! Handles (R166) -/

/-- What a handle names. -/
inductive HandleRef where
  | object (index : Nat)
  | flag (logical flag : Nat)
  | hostWord (entry : Nat)
  | none
  | bad
  deriving DecidableEq, Repr

/-- Decodes an object handle; reserved bits, indexes beyond range and other SPACE 3 handles are bad (R166). -/
def handleRef (h : BitVec 32) : HandleRef :=
  let n := h.toNat
  let idx := n % 2 ^ 16
  if n = 0xFFFFFFFF then .none
  else if n / 2 ^ 16 % 2 ^ 14 ≠ 0 then .bad
  else
    match n / 2 ^ 30 with
    | 0 => .object idx
    | 1 => if idx / 32 < 800 then .flag (idx / 32) (idx % 32) else .bad
    | 2 => if idx < 4096 then .hostWord idx else .bad
    | _ => .bad

/-- The host-word table key of a partition's entry. -/
def hostWordKey (part entry : Nat) : Nat := part * 4096 + entry

/-- A queue handle's region and number, none with reserved bits set (R204). -/
def queueRef (h : Nat) : Option (Nat × Nat) :=
  if h < 2 ^ 16 ∧ h / 2 ^ 10 % 8 = 0 then some (h / 2 ^ 13, h % 2 ^ 10) else none

/-! Page lists (R239, R240) -/

/-- A page-list entry of 8 bytes. -/
def pageEntry (w : Nat) : PageRef := ⟨w % 2 ^ 32, w / 2 ^ 32 % 8, w / 2 ^ 35 % 2 == 1⟩

/-- The 8-byte word of a page-list entry. -/
def pageWord (p : PageRef) : Nat := p.page % 2 ^ 32 + p.size % 8 * 2 ^ 32 + (if p.shared then 2 ^ 35 else 0)

/-- Bytes a page covers. -/
def pageBytes (p : PageRef) : Nat := 0x4000 * 2 ^ p.size

/-- What translating a window offset answers. -/
inductive Walk where
  | at (addr left : Nat)
  | misaligned
  | beyond
  deriving DecidableEq, Repr

/-- Walks a page list to a window offset (R240): each entry must start at a multiple of its size, in the window and in
HBM, and lie in the partition's HBM; left is how many bytes follow within the entry. -/
def walkPages (s : State) (part : Nat) : List PageRef → Nat → Nat → Walk
  | [], _, _ => .beyond
  | p :: t, start, off =>
    if start % pageBytes p ≠ 0 ∨ p.page * 0x4000 % pageBytes p ≠ 0 then .misaligned
    else if off < start + pageBytes p then
      if inPart s part .hbm (p.page * 0x4000) && decide (p.page * 0x4000 + pageBytes p ≤ hbmEnd (partOf s part)) then
        .at (p.page * 0x4000 + (off - start)) (start + pageBytes p - off)
      else .beyond
    else walkPages s part t (start + pageBytes p) off

/-- A page list of n entries read out of memory. -/
def readPageList (s : State) (addr n : Nat) : List PageRef :=
  (List.range n).map fun i => pageEntry (readNum s (addr + 8 * i) 8)

/-! Command packets (R303) and their blocks (R304, R305, R308, R434) -/

/-- A packet out of the 64 bytes of its slot. -/
def parsePacket (idx : Nat) (bs : List Byte) : Packet :=
  { idx := idx
    opcode := BitVec.ofNat 16 (fieldAt bs 0 2)
    flags := BitVec.ofNat 8 (fieldAt bs 2 1)
    plen := BitVec.ofNat 8 (fieldAt bs 3 1)
    tag := BitVec.ofNat 32 (fieldAt bs 4 4)
    part := BitVec.ofNat 16 (fieldAt bs 8 2)
    fence := BitVec.ofNat 16 (fieldAt bs 10 2)
    completion := BitVec.ofNat 32 (fieldAt bs 12 4)
    params := bytesAt bs 16 48 }

/-- What R308 fixes of an opcode: block size, PF-only, the byte ranges that hold no field, the bits that fields use of bytes they use in
part, and listed values of fields. -/
structure OpInfo where
  size : Nat
  pfOnly : Bool := false
  reserved : List (Nat × Nat) := []
  partly : List (Nat × Nat) := []
  listed : List (Nat × Nat × List Nat) := []
  deriving DecidableEq, Repr

/-- The fields DMA commands share: 2-bit CLASS parts, CHANNEL and REGION (R434). -/
def dmaListed : List (Nat × Nat × List Nat) :=
  [(21, 1, [0, 1, 2, 4, 5, 6, 8, 9, 10]), (22, 1, 255 :: List.range 16), (23, 1, List.range 8)]

/-- The opcode table of R308. -/
def opInfo (op : Nat) : Option OpInfo :=
  match op with
  | 0x0001 => some { size := 16, pfOnly := true, reserved := [(2, 2)], partly := [(1, 1)] }
  | 0x0002 => some { size := 32, pfOnly := true, reserved := [(1, 3), (24, 8)] }
  | 0x0003 => some { size := 16 }
  | 0x0004 => some { size := 16, reserved := [(4, 12)] }
  | 0x0005 => some { size := 16, reserved := [(5, 11)], partly := [(3, 1)], listed := [(2, 1, [1, 2, 3])] }
  | 0x0006 => some { size := 16, reserved := [(6, 10)] }
  | 0x0007 => some { size := 16, reserved := [(6, 2)], partly := [(3, 1)] }
  | 0x0008 => some { size := 16, reserved := [(8, 8)] }
  | 0x0009 => some { size := 16, reserved := [(8, 8)] }
  | 0x0101 => some { size := 24, listed := dmaListed }
  | 0x0102 => some { size := 40, listed := dmaListed }
  | 0x0103 => some { size := 40, listed := dmaListed }
  | 0x0104 => some { size := 24, listed := dmaListed }
  | 0x0105 => some { size := 56, reserved := [(25, 7)], partly := [(24, 3)], listed := dmaListed }
  | 0x0106 => some { size := 16, reserved := [(4, 4)] }
  | 0x0107 => some { size := 16, reserved := [(4, 12)] }
  | 0x0201 => some { size := 80, reserved := [(76, 4)], partly := [(6, 7), (7, 3)] }
  | 0x0202 => some { size := 80, reserved := [(36, 12), (76, 4)], partly := [(6, 7), (7, 3)] }
  | 0x0203 => some { size := 96, reserved := [(30, 2), (84, 12)], partly := [(6, 7), (7, 3)] }
  | 0x0204 => some { size := 64, reserved := [(46, 2)], partly := [(6, 7), (7, 3)] }
  | 0x0205 => some { size := 96, reserved := [(46, 2), (88, 8)], partly := [(6, 7), (7, 3)] }
  | 0x0206 => some { size := 32, reserved := [(6, 2)] }
  | 0x0207 => some { size := 48, reserved := [(40, 8)], partly := [(6, 7)], listed := [(7, 1, [0, 1, 2])] }
  | 0x0301 => some { size := 16, partly := [(6, 1), (7, 3)] }
  | 0x0302 => some { size := 24, reserved := [(5, 3), (14, 2), (20, 4)], listed := [(4, 1, [0, 1])] }
  | 0x0303 => some { size := 24, reserved := [(18, 6)], partly := [(6, 1), (7, 3)] }
  | 0x0304 => some { size := 16, reserved := [(6, 2)], partly := [(5, 1)], listed := [(0, 1, [0, 1])] }
  | 0x0305 => some { size := 16, reserved := [(4, 4)] }
  | 0x0306 => some { size := 16, reserved := [(4, 12)] }
  | 0x0307 => some { size := 16, reserved := [(12, 4)], partly := [(7, 3)] }
  | 0x0308 => some { size := 16, reserved := [(8, 8)], partly := [(7, 2)] }
  | 0x0401 => some { size := 32, reserved := [(3, 1), (10, 2)] }
  | 0x0402 => some { size := 16, reserved := [(11, 5)], partly := [(3, 1)] }
  | 0x0403 => some { size := 16, reserved := [(2, 2), (8, 8)] }
  | 0x0404 => some { size := 16, reserved := [(2, 14)] }
  | 0x0501 => some { size := 32, reserved := [(19, 1), (23, 1)], listed := [(7, 1, [0, 1])] }
  | 0x0502 => some { size := 16, reserved := [(4, 12)] }
  | 0x0503 => some { size := 16, reserved := [(2, 2), (8, 8)] }
  | 0x0504 => some { size := 24, reserved := [(2, 2)] }
  | 0x0601 => some { size := 64, reserved := [(13, 3), (38, 2), (44, 4), (56, 8)], partly := [(12, 1)] }
  | 0x0602 => some { size := 32, reserved := [(1, 1), (20, 12)] }
  | 0x0603 => some { size := 16, reserved := [(6, 2)], listed := [(5, 1, [0, 1])] }
  | 0x0604 => some { size := 16, reserved := [(12, 4)] }
  | 0x0605 => some { size := 24, reserved := [(4, 4)] }
  | 0x0606 => some { size := 16, reserved := [(4, 12)] }
  | 0x0607 => some { size := 16, reserved := [(1, 3)] }
  | 0x0608 => some { size := 24, reserved := [(17, 7)] }
  | 0x0701 => some { size := 24, reserved := [(5, 3), (12, 4)], listed := [(4, 1, [0, 1, 2, 3, 4])] }
  | 0x0702 => some { size := 32, reserved := [(7, 1), (28, 4)] }
  | 0x0703 => some { size := 24, reserved := [(5, 3), (21, 3)] }
  | 0x0704 => some { size := 16, reserved := [(7, 1)], partly := [(6, 1)] }
  | 0x0705 => some { size := 48, reserved := [(3, 1), (26, 6)], partly := [(2, 1)], listed := [(0, 1, [0, 1])] }
  | 0x0706 => some { size := 48, reserved := [(32, 16)] }
  | 0x0707 => some { size := 24, reserved := [(18, 6)], listed := [(1, 1, [0, 1])] }
  | 0x0708 => some { size := 16, reserved := [(1, 1), (8, 8)] }
  | 0x0801 => some { size := 16, reserved := [(4, 4)] }
  | 0x0802 => some { size := 40, reserved := [(6, 2)], listed := [(5, 1, [0, 1])] }
  | 0x0803 => some { size := 40, reserved := [(6, 2)], partly := [(5, 1)] }
  | 0x0901 => some { size := 24, reserved := [(7, 1)] }
  | 0x0902 => some { size := 24, reserved := [(7, 1)] }
  | 0x0903 => some { size := 16, reserved := [(9, 3)], partly := [(8, 1)] }
  | 0x0A01 => some { size := 16, pfOnly := true, reserved := [(12, 4)],
                     listed := [(1, 1, [0, 1]), (2, 1, [0, 1, 2]), (3, 1, List.range 8)] }
  | 0x0A02 => some { size := 16, reserved := [(2, 2), (8, 8)], listed := [(1, 1, [0, 1])] }
  | 0x0A03 => some { size := 16, reserved := [(1, 3), (8, 8)] }
  | 0x0A04 => some { size := 16, partly := [(1, 1)], listed := [(0, 1, [0, 1, 2, 3])] }
  | 0x0B01 => some { size := 16, pfOnly := true, reserved := [(2, 14)] }
  | 0x0B02 => some { size := 16, pfOnly := true, reserved := [(2, 14)] }
  | 0x0B03 => some { size := 24, pfOnly := true, reserved := [(2, 6), (20, 4)],
                     listed := [(0, 1, [0, 1, 2]), (1, 1, [0, 1])] }
  | 0x0B04 => some { size := 16, reserved := [(5, 3)], partly := [(4, 1)] }
  | 0x0B05 => some { size := 16, pfOnly := true, reserved := [(4, 12)] }
  | 0x0B06 => some { size := 16, pfOnly := true, reserved := [(9, 7)], partly := [(8, 1)] }
  | _ => none

/-- Check 7 of R305 on a block: bits that no field of R308 uses are zero (log entry 103), listed values held, nothing beyond S. -/
def blockOk (i : OpInfo) (plen : Nat) (block : List Byte) : Bool :=
  i.reserved.all (fun r => (bytesAt block r.1 r.2).all (· == 0)) &&
  i.partly.all (fun r => fieldAt block r.1 1 &&& (255 - r.2) == 0) &&
  i.listed.all (fun f => f.2.2.contains (fieldAt block f.1 f.2.1)) &&
  (bytesAt block i.size (plen * 16 - i.size)).all (· == 0)

end Sys2Proof.Machine
end

