-- ==== Sys2Proof/Machine/Wire.lean ====
section
/-! DEFINITION. What a port puts on its lanes (R315, R316, R320, R321): packet headers, frame payloads, control fields and the scrambled
message bits of each codeword. The parity symbols are those of the standard's code (R313). -/

namespace Sys2Proof.Machine

/-- Packet types by their TYPE numbers (R316). -/
def typeCode : PktType → Nat
  | .write => 0 | .readReq => 1 | .readData => 2 | .ack => 3 | .refusal => 4 | .signal => 5 | .queueOp => 6 | .lockOp => 7
  | .streamOpen => 8 | .fenceProbe => 9 | .fenceAnswer => 10 | .relay => 11 | .rangeCheck => 12 | .queueCreditReturn => 13
  | .reserved => 14

/-- Bytes 0 to 15 of a packet header (R316). -/
def headerLow (p : Pkt) : Nat :=
  p.arg.toNat * 2 ^ 64 + typeCode p.type * 2 ^ 59 + p.data.length % 2 ^ 10 * 2 ^ 49 + p.src % 2 ^ 17 * 2 ^ 32 + p.cls % 4 * 2 ^ 28 +
    p.subch % 2 * 2 ^ 27 + p.hops % 2 ^ 10 * 2 ^ 17 + p.dst % 2 ^ 17

/-- Bytes 16 to 31 of a packet header (R316). -/
def headerHigh (p : Pkt) : Nat :=
  p.arg2.toNat * 2 ^ 64 + p.plane % 8 * 2 ^ 32 + p.srcInc % 2 ^ 8 * 2 ^ 24 + p.srcUnit % 2 ^ 16

/-- Zero bytes up to a length. -/
def padTo (n : Nat) (bs : List Byte) : List Byte := bs ++ List.replicate (n - bs.length) 0

/-- A packet in a MSG frame (R316): its header and its data, padded to a multiple of 16 bytes. -/
def packetBytes (p : Pkt) : List Byte :=
  toLe 16 (headerLow p) ++ toLe 16 (headerHigh p) ++ padTo ((p.data.length + 15) / 16 * 16) p.data

/-- The 640 payload bytes of a frame (R315, R316); an IDLE frame's are zero. -/
def framePayload : Option Frame → List Byte
  | none => padTo 640 []
  | some f => padTo 640 (match f.stream with | some (_, q) => q.data | none => f.packets.flatMap packetBytes)

/-- The control field (R315): KIND, TAG and LINK_SLICE; a marker's upper twelve bits read 0xED3 (R320). -/
def controlField (marker : Bool) (f : Option Frame) (slice : Nat) : Nat :=
  let tag := match f with
    | none => 0
    | some f =>
      match f.stream with
      | some (n, _) => 2 * 2 ^ 10 + n % 1024
      | none => 2 ^ 10 + f.cls % 4 * 2 ^ 8 + f.subch % 2 * 2 ^ 7
  (if marker then 0xED3 else tag) * 2 ^ 8 + slice % 2 ^ 8

/-- n bits of a number, the least significant first. -/
def bitsOf (n v : Nat) : List Bool := (List.range n).map fun i => v.testBit i

/-- One step of the scrambler x^58 + x^39 + 1 (R315), with the bit it gives. -/
def scramblerStep (st : BitVec 58) : Bool × BitVec 58 :=
  let b := st.getLsbD 57 != st.getLsbD 38
  (b, st <<< 1 ||| BitVec.ofNat 58 b.toNat)

/-- The scrambler after some bits. -/
def scramblerAfter : Nat → BitVec 58 → BitVec 58
  | 0, st => st
  | n + 1, st => scramblerAfter n (scramblerStep st).2

/-- Bits added to the scrambler's. -/
def scramble : List Bool → BitVec 58 → List Bool
  | [], _ => []
  | b :: t, st => (b != (scramblerStep st).1) :: scramble t (scramblerStep st).2

/-- The 5,140 message bits of a codeword (R315): bits [19:8] as they are; bits [7:0] and the payload scrambled from the lane number plus 1
at the last marker, place codewords before. -/
def codewordBits (lane place control : Nat) (payload : List Byte) : List Bool :=
  let sc := scramble (bitsOf 8 control ++ bitsOf 5120 (leNat payload)) (scramblerAfter (place * 5128) (BitVec.ofNat 58 (lane + 1)))
  sc.take 8 ++ bitsOf 12 (control / 2 ^ 8) ++ sc.drop 8

/-- The message of a physical lane in a slot (R319 to R321, R324, R328): its logical lane's frame and slice of the link word; a lane that
carries none sends IDLE frames; while the port is not UP a marker's slice is the lane's own number. -/
def laneMessage (o : SlotOut) (lane : Nat) : List Bool :=
  let logical := if o.up then o.lanes.findIdx? (· == lane) else none
  let frame := logical.bind fun l => o.slot.frames[l]?
  let slice := match logical with
    | some l => o.link.toNat / 2 ^ (8 * l)
    | none => if !o.up && o.marker then lane else 0
  codewordBits lane ((o.count + 1) % 8192) (controlField o.marker frame slice) (framePayload frame)

end Sys2Proof.Machine
end

