-- ==== Sys2Proof/Machine/SyncOps.lean ====
section
/-! DEFINITION. The shared operations of chapter 06: what a signal, a wait, a lock operation, a sweep and a reset do to
an object, to whom each releases an answer, and the tenant check every one of them makes first. -/

namespace Sys2Proof.Machine

/-- An answer owed to an issuer: status, detail, VALUE and state word. -/
structure Rel where
  who : Issuer
  status : Status
  detail : Nat := 0
  value : Word := 0
  word : Word := 0
  deriving DecidableEq, Repr

/-- KIND as the state word encodes it (R167). -/
def kindCode : ObjKind → Nat
  | .flag => 1 | .counter => 2 | .lock => 3

/-- The state word of an object (R167); a counter always reads FULL = 1. -/
def stateWord (o : SyncObj) : Word :=
  BitVec.ofNat 64 (o.overrun * 2 ^ 48 + o.part % 16 * 2 ^ 28 + o.waiters.length % 2 ^ 12 * 2 ^ 16 +
    (if o.full || o.kind == .counter then 2 ^ 7 else 0) + (if o.orphaned then 2 ^ 6 else 0) +
    (if o.monotonic then 2 ^ 5 else 0) + kindCode o.kind)

/-- The owner identity a lock's VALUE holds (R168). -/
def lockValue (u : UnitId) : Word := BitVec.ofNat 64 (u.module % 2 ^ 17 * 2 ^ 24 + u.unit % 2 ^ 16 * 2 ^ 8 + u.inc % 2 ^ 8)

/-- Records the last signaller (R201). -/
def traceSignal (now : Word) (u : UnitId) (o : SyncObj) : SyncObj :=
  { o with lastModule := u.module, lastUnit := u.unit, lastTime := now }

def isPeek (w : Waiter) : Bool := w.kind == .peek
def isConsume (w : Waiter) : Bool := w.kind == .consume
def isAcquirer (w : Waiter) : Bool := w.kind == .acquirer
def isWriter (w : Waiter) : Bool := match w.kind with | .writer _ => true | _ => false
def writerValue (w : Waiter) : Word := match w.kind with | .writer v => v | _ => 0

/-- A release with the object's value and state word. -/
def relOf (o : SyncObj) (st : Status) (w : Waiter) : Rel := { who := w.who, status := st, value := o.value, word := stateWord o }

/-- R173: a full word releases its PEEK waiters and its oldest CONSUME waiter takes the value; an empty word takes its
oldest blocked writer; the rule runs again until nothing applies. Each round retires a waiter, so the fuel is their
number twice over. -/
def settleFlag (ident : Issuer → UnitId) (now : Word) : Nat → SyncObj → List Rel → SyncObj × List Rel
  | 0, o, acc => (o, acc)
  | n + 1, o, acc =>
    if o.full then
      let o1 := { o with waiters := o.waiters.filter fun w => !isPeek w }
      let acc1 := acc ++ (o.waiters.filter isPeek).map (relOf o1 .ok)
      match o1.waiters.find? isConsume with
      | some w =>
        let o2 := { o1 with full := false, waiters := o1.waiters.erase w }
        settleFlag ident now n o2 (acc1 ++ [relOf o2 .ok w])
      | none => (o1, acc1)
    else
      match o.waiters.find? isWriter with
      | some w =>
        let o1 := traceSignal now (ident w.who) { o with value := writerValue w, full := true, waiters := o.waiters.erase w }
        settleFlag ident now n o1 (acc ++ [relOf o1 .ok w])
      | none => (o, acc)

/-- Fuel for settleFlag. -/
def settleFuel (o : SyncObj) : Nat := 2 * o.waiters.length + 2

/-- (VALUE − T) mod 2^48 < 2^47 (R172). -/
def targetMet (value : Word) (t : BitVec 48) : Bool := ((value.truncate 48 : BitVec 48) - t).toNat < 2 ^ 47

/-- 0 < (T − VALUE) mod 2^48 < 2^20 (R172). -/
def targetNear (value : Word) (t : BitVec 48) : Bool :=
  let d := (t - (value.truncate 48 : BitVec 48)).toNat
  0 < d && d < 2 ^ 20

/-- Does a counter at this value release the waiter? -/
def targetWaiterMet (value : Word) (w : Waiter) : Bool := match w.kind with | .target t => targetMet value t | _ => false

/-- What an operation on one object answers: the object, its releases, and the operation's own answer, none while its
issuer waits. -/
structure Applied where
  obj : SyncObj
  rels : List Rel := []
  reply : Option Rel := none
  deriving DecidableEq, Repr

/-- SIGNAL on an object (R172, R173, R432); cap is where its overrun count saturates. -/
def applySignal (ident : Issuer → UnitId) (now : Word) (cap : Nat) (who : Issuer) (blocking : Bool) (v : Word) (o : SyncObj) :
    Applied :=
  match o.kind with
  | .flag =>
    if !o.full then
      let o1 := traceSignal now (ident who) { o with value := v, full := true }
      let r := settleFlag ident now (settleFuel o1) o1 []
      { obj := r.1, rels := r.2, reply := some { who := who, status := .ok } }
    else if blocking then { obj := { o with waiters := o.waiters ++ [{ who := who, kind := .writer v }] } }
    else
      { obj := traceSignal now (ident who) { o with overrun := satAdd cap o.overrun 1 }
        reply := some { who := who, status := .syncOverrun } }
  | .counter =>
    let value := BitVec.ofNat 64 ((o.value.toNat + v.toNat % 2 ^ 20) % 2 ^ 48)
    let o1 := traceSignal now (ident who)
      { o with value := value, waiters := o.waiters.filter fun w => !targetWaiterMet value w }
    { obj := o1
      rels := (o.waiters.filter (targetWaiterMet value)).map (relOf o1 .ok)
      reply := some { who := who, status := .ok } }
  | .lock => { obj := o, reply := some { who := who, status := .badOpcode, detail := 2 } }

/-- WAIT on an object (R172, R173, R432). -/
def applyWait (ident : Issuer → UnitId) (now : Word) (who : Issuer) (peek : Bool) (target : BitVec 48) (timeout : Nat) (o : SyncObj) :
    Applied :=
  match o.kind with
  | .flag =>
    if o.full then
      if peek then { obj := o, reply := some { who := who, status := .ok, value := o.value, word := stateWord o } }
      else
        let o1 := { o with full := false }
        let r := settleFlag ident now (settleFuel o1) o1 []
        { obj := r.1, rels := r.2, reply := some { who := who, status := .ok, value := o.value, word := stateWord o1 } }
    else
      { obj := { o with waiters := o.waiters ++ [{ who := who, kind := if peek then .peek else .consume, timeout := timeout }] } }
  | .counter =>
    if targetMet o.value target then { obj := o, reply := some { who := who, status := .ok, value := o.value, word := stateWord o } }
    else if targetNear o.value target then
      { obj := { o with waiters := o.waiters ++ [{ who := who, kind := .target target, timeout := timeout }] } }
    else { obj := o, reply := some { who := who, status := .syncOverrun, detail := 2, value := o.value, word := stateWord o } }
  | .lock => { obj := o, reply := some { who := who, status := .badOpcode, detail := 2 } }

/-- LOCK_ACQUIRE on an object (R172, R181, R432). -/
def applyAcquire (ident : Issuer → UnitId) (who : Issuer) (blocking : Bool) (timeout : Nat) (o : SyncObj) : Applied :=
  match o.kind with
  | .lock =>
    if o.orphaned then
      let o1 := { o with value := lockValue (ident who), full := true, orphaned := false }
      { obj := o1, reply := some { who := who, status := .ownerLost, value := o1.value, word := stateWord o1 } }
    else if !o.full then
      let o1 := { o with value := lockValue (ident who), full := true }
      { obj := o1, reply := some { who := who, status := .ok, value := o1.value, word := stateWord o1 } }
    else if blocking then { obj := { o with waiters := o.waiters ++ [{ who := who, kind := .acquirer, timeout := timeout }] } }
    else { obj := o, reply := some { who := who, status := .locked, value := o.value, word := stateWord o } }
  | _ => { obj := o, reply := some { who := who, status := .badOpcode, detail := 2 } }

/-- LOCK_RELEASE on an object (R172, R180, R432): the oldest waiting acquirer then acquires. -/
def applyRelease (ident : Issuer → UnitId) (who : Issuer) (o : SyncObj) : Applied :=
  match o.kind with
  | .lock =>
    if o.orphaned || !o.full then { obj := o, reply := some { who := who, status := .locked, detail := 2 } }
    else if o.value ≠ lockValue (ident who) then { obj := o, reply := some { who := who, status := .locked, detail := 1 } }
    else
      match o.waiters.find? isAcquirer with
      | some w =>
        let o1 := { o with value := lockValue (ident w.who), waiters := o.waiters.erase w }
        { obj := o1, rels := [relOf o1 .ok w], reply := some { who := who, status := .ok } }
      | none => { obj := { o with value := 0, full := false }, reply := some { who := who, status := .ok } }
  | _ => { obj := o, reply := some { who := who, status := .badOpcode, detail := 2 } }

/-- Every pending entry of an object released with ST_POISONED, detail 0x0001, none of them applied (R176, R433). -/
def poisonWaiters (o : SyncObj) : List Rel :=
  o.waiters.map fun w => { who := w.who, status := .poisoned, detail := 1, value := 0, word := 0 }

/-- OBJ_RESET on an object (R172, R176). -/
def resetObj (o : SyncObj) : SyncObj :=
  { o with value := 0, full := false, orphaned := false, overrun := 0, waiters := [] }

/-- An owner sweep on an object (R181). -/
def sweepObj (owner : UnitId) (o : SyncObj) : SyncObj × List Rel :=
  if o.kind == .lock && o.full && !o.orphaned && o.value == lockValue owner then
    ({ o with orphaned := true, waiters := [] },
     o.waiters.map fun w => { who := w.who, status := .ownerLost, value := o.value, word := stateWord { o with orphaned := true } })
  else (o, [])

/-! Answers to issuers -/

/-- A reply packet to a unit of another module: ACK for ST_OK and ST_OWNER_LOST, REFUSAL for the rest (R316). -/
def replyPacket (s : State) (u : UnitId) (r : Rel) (handle : BitVec 32) : Pkt :=
  { type := if r.status == .ok || r.status == .ownerLost then .ack else .refusal
    src := ownModule s, dst := u.module, cls := 2, subch := 0, hops := 0, plane := 0, srcUnit := 0, srcInc := 0
    part := issuerPart r.who, arg := handle.setWidth 64, arg2 := 0
    data := toLe 8 r.value.toNat ++ toLe 8 r.word.toNat, dstUnit := u.unit, status := statusCode r.status + r.detail * 2 ^ 16 }

/-- Result words of WAIT, OBJ_READ and LOCK_ACQUIRE (R307): VALUE and the state word. -/
def relWords (r : Rel) : List (BitVec 32) :=
  if r.word = 0 then [] else words64 r.value.toNat ++ words64 r.word.toNat

/-- Gives an answer to its issuer: a command's reply, a wake packet to a unit of this module (R189), or a reply packet to
another module's. -/
def answer (handle : BitVec 32) (r : Rel) (s : State) : State :=
  match r.who with
  | .host c => finish c { status := r.status, detail := r.detail, words := relWords r } s
  | .unit _ u =>
    if u.module = ownModule s then
      modOut (fun o => { o with releases := o.releases ++ [{ unit := u, status := r.status, detail := r.detail, value := r.value }] }) s
    else send (replyPacket s u r handle) s

def answerAll (handle : BitVec 32) (rs : List Rel) (s : State) : State := rs.foldl (fun s r => answer handle r s) s

/-- Marks a core of this module as waiting on an operation that did not answer (R188, R189). -/
def markWaiting (who : Issuer) (s : State) : State :=
  match who with
  | .unit _ u => if u.module = ownModule s ∧ u.unit < 864 then modCore u.unit (fun c => { c with waiting := true }) s else s
  | .host _ => s

/-! Lock records (R181, R351) -/

/-- The job whose commands and brush programs an issuer's locks belong to (R346, R351). -/
def issuerJob (s : State) : Issuer → Nat
  | .host c => jobOfCmd c
  | .unit p _ => (partOf s p).holder.getD 0

/-- Enters a lock in its job's record. -/
def recordLock (who : Issuer) (module : Nat) (h : BitVec 32) (s : State) : State :=
  modJob (issuerPart who) (issuerJob s who) (fun j => { j with locks := j.locks ++ [(module, h, issuerId s who)] }) s

/-- Removes a lock from its owner's job record. -/
def unrecordLock (who : Issuer) (module : Nat) (h : BitVec 32) (s : State) : State :=
  modPart (issuerPart who)
    (fun p => { p with jobs := p.jobs.map fun e => (e.1, { e.2 with locks := e.2.locks.erase (module, h, issuerId s who) }) }) s

/-- Enters the locks an operation's answers granted to units and functions of this module. -/
def recordGrants (h : BitVec 32) (rs : List Rel) (s : State) : State :=
  rs.foldl (fun s r =>
    if (r.status == .ok || r.status == .ownerLost) && (issuerId s r.who).module == ownModule s then
      recordLock r.who (ownModule s) h s
    else s) s

/-! The tenant check (R179) -/

/-- Logs a tenant violation (R179). -/
def logTenant (who : Issuer) (objPart : Nat) (h : BitVec 32) (s : State) : State :=
  note 0x0602 (fun e => { e with
    status := 0x42, part := issuerPart who, otherPart := objPart, source := (issuerId s who).unit
    inc := (issuerId s who).inc, arg := h.setWidth 64 }) s

/-- The partition an allocated object belongs to. -/
def objPart (s : State) (i : Nat) : Option Nat := (tget i s.objects).map (·.part)

/-- Stores an object back. -/
def putObj (i : Nat) (o : SyncObj) (s : State) : State := { s with objects := tput i o s.objects }

/-- Is the issuer a command of a host function? -/
def isHostOf (fn : Nat) : Issuer → Bool
  | .host c => c.fn == fn
  | .unit _ _ => false

/-- WAIT, blocking SIGNAL and blocking LOCK_ACQUIRE commands a function has pending in the module (R174): on objects, on local flags and
on locks of other modules. -/
def hostPending (s : State) (fn : Nat) : Nat :=
  (s.objects.map fun e => e.2.waiters.countP fun w => isHostOf fn w.who).sum +
    (s.cores.map fun e => (e.2.flags.map fun f => f.2.waiters.countP fun w => isHostOf fn w.who).sum).sum +
    s.remoteOps.countP fun o => o.blocking && isHostOf fn o.who

/-- Would this issuer's wait exceed the 64 a host function holds (R174)? -/
def hostFull (s : State) : Issuer → Bool
  | .host c => 64 ≤ hostPending s c.fn
  | .unit _ _ => false

/-- Runs an operation on a signal-store object: the tenant check first (R179), the host part's limit where it would wait
(R174), then the object, its releases and the issuer's answer in one step (R171). -/
def onObject (who : Issuer) (h : BitVec 32) (i : Nat) (f : SyncObj → Applied) (s : State) : State :=
  match tget i s.objects with
  | none => answer h { who := who, status := .tenantViolation } (logTenant who 0xFF h s)
  | some o =>
    if o.part ≠ issuerPart who then answer h { who := who, status := .tenantViolation } (logTenant who o.part h s)
    else
      let a := f o
      match a.reply with
      | none =>
        if hostFull s who then answer h { who := who, status := .quota } s
        else markWaiting who (putObj i a.obj s)
      | some r => answer h r (answerAll h a.rels (putObj i a.obj s))

/-! Local flags (R169) -/

/-- The kind the loaded plans of a partition give a flag (R169): COUNTER where one says so, else FLAG. -/
def flagKind (s : State) (part flag : Nat) : ObjKind :=
  if s.plans.any fun e => e.2.part == part && e.2.body.flagKinds.contains (flag, 2) then .counter else .flag

/-- A local flag as an object, for the operations both share. -/
def flagObj (s : State) (part flag : Nat) (l : LocalFlag) : SyncObj :=
  { value := l.value, part := part, kind := flagKind s part flag, full := l.full, overrun := l.overrun, waiters := l.waiters
    lastModule := l.lastModule, lastUnit := l.lastUnit, lastTime := l.lastTime }

/-- The local flag out of its object. -/
def objFlag (o : SyncObj) : LocalFlag :=
  { value := o.value, full := o.full, overrun := o.overrun, waiters := o.waiters, lastModule := o.lastModule, lastUnit := o.lastUnit
    lastTime := o.lastTime }

def flagOf (s : State) (p flag : Nat) : LocalFlag := tgetD flag {} (coreOf s p).flags

/-- Runs an operation on a local flag of a logical core (R169): the partition first (R179), then as one step, within the host part's limit where
it would wait (R174). -/
def onFlag (who : Issuer) (h : BitVec 32) (logical flag : Nat) (f : SyncObj → Applied) (s : State) : State :=
  match physOf s logical with
  | none => answer h { who := who, status := .tenantViolation } (logTenant who 0xFF h s)
  | some p =>
    if partOfCore s p ≠ some (issuerPart who) then
      answer h { who := who, status := .tenantViolation } (logTenant who ((partOfCore s p).getD 0xFF) h s)
    else
      let a := f (flagObj s (issuerPart who) flag (flagOf s p flag))
      let t := modCore p (fun c => { c with flags := tput flag (objFlag a.obj) c.flags }) s
      match a.reply with
      | none => if hostFull s who then answer h { who := who, status := .quota } s else markWaiting who t
      | some r => answer h r (answerAll h a.rels t)

/-! Host words (R194) -/

/-- A signal to a host word: the 8 bytes it writes, with bit 63 set. -/
def hostWordValue (e : HostWord) (v : Word) : Nat :=
  2 ^ 63 + (if e.counter then (e.count.toNat + v.toNat % 2 ^ 20) % 2 ^ 48 else v.toNat % 2 ^ 63)

/-- Applies a signal to a host word of the issuer's partition (R194). -/
def signalHostWord (who : Issuer) (h : BitVec 32) (entry : Nat) (v : Word) (s : State) : State :=
  match tget (hostWordKey (issuerPart who) entry) s.hostWords with
  | none => answer h { who := who, status := .tenantViolation } (logTenant who 0xFF h s)
  | some e =>
    let e1 := { e with count := BitVec.ofNat 48 (e.count.toNat + v.toNat % 2 ^ 20) }
    let s1 := { s with hostWords := tput (hostWordKey (issuerPart who) entry) (if e.counter then e1 else e) s.hostWords }
    let s2 := writeSpace .host e.addr (toLe 8 (hostWordValue e v)) s1
    let s3 := if e.msix then modOut (fun o => { o with msix := o.msix ++ [(issuerPart who, e.vector)] }) s2 else s2
    answer h { who := who, status := .ok } s3

/-! Signals and lock operations by handle -/

/-- The address a SIGNAL packet carries: the object's in the signal-store window, else the handle (R150, R316). -/
def signalAddr (h : BitVec 32) : Nat :=
  match handleRef h with
  | .object i => 0x12000000000 + i * 16
  | _ => h.toNat

/-- A packet an issuer of this module sends to another module. -/
def outPacket (s : State) (type : PktType) (who : Issuer) (module cls arg arg2 : Nat) (data : List Byte) : Pkt :=
  { type := type, src := ownModule s, dst := module, cls := cls, subch := 0, hops := 0, plane := 0
    srcUnit := (issuerId s who).unit, srcInc := (issuerId s who).inc, part := issuerPart who
    arg := BitVec.ofNat 64 arg, arg2 := BitVec.ofNat 64 arg2, data := data }

/-- A signal by handle to an object of this module (R166, R169, R172, R194). -/
def signalLocal (who : Issuer) (h : BitVec 32) (blocking : Bool) (v : Word) (s : State) : State :=
  match handleRef h with
  | .bad => answer h { who := who, status := .badLength, detail := 4 } s
  | .none => answer h { who := who, status := .ok } s
  | .object i => onObject who h i (applySignal (issuerId s) s.time.now 0xFFFF who blocking v) s
  | .flag n f => onFlag who h n f (applySignal (issuerId s) s.time.now 0xFF who blocking v) s
  | .hostWord e => signalHostWord who h e v s

/-- A signal to a local or remote object (R172, R308). A remote signal is posted: it leaves as a packet, and its issuer
goes on (log entry 14). -/
def signalAny (who : Issuer) (h : BitVec 32) (module : Nat) (blocking remote : Bool) (v : Word) (s : State) : State :=
  if remote ∧ module ≠ ownModule s then
    match handleRef h with
    | .bad => answer h { who := who, status := .badLength, detail := 4 } s
    | .none => answer h { who := who, status := .ok } s
    | _ => answer h { who := who, status := .ok } (send (outPacket s .signal who module 1 (signalAddr h) v.toNat []) s)
  else signalLocal who h blocking v s

/-- A signal a unit of the module raises on its own account (R212, R222, R306): non-blocking, and its own answer goes
nowhere. The handle 0xFFFFFFFF raises nothing. -/
def raiseSignal (part unit : Nat) (h : BitVec 32) (v : Word) (s : State) : State :=
  let u := unitId s unit
  let t := signalLocal (.unit part u) h false v s
  if s.out.releases.length < t.out.releases.length ∧ (t.out.releases.getLast?.map (·.unit)) = some u then
    { t with out := { t.out with releases := t.out.releases.dropLast } }
  else t

/-- The same for a handle of any module. -/
def raiseAny (part unit : Nat) (h : BitVec 32) (module : Nat) (v : Word) (s : State) : State :=
  if module = ownModule s then raiseSignal part unit h v s
  else
    match handleRef h with
    | .bad | .none => s
    | _ => send (outPacket s .signal (.unit part (unitId s unit)) module 1 (signalAddr h) v.toNat []) s

/-- A lock operation on a handle of this module (R166, R169, R172, R432). -/
def lockLocal (who : Issuer) (h : BitVec 32) (f : SyncObj → Applied) (s : State) : State :=
  match handleRef h with
  | .bad => answer h { who := who, status := .badLength, detail := 4 } s
  | .none => answer h { who := who, status := .ok } s
  | .object i => onObject who h i f s
  | .flag n _ =>
    match physOf s n with
    | some p =>
      if partOfCore s p = some (issuerPart who) then answer h { who := who, status := .badOpcode } s
      else answer h { who := who, status := .tenantViolation } (logTenant who ((partOfCore s p).getD 0xFF) h s)
    | none => answer h { who := who, status := .tenantViolation } (logTenant who 0xFF h s)
  | .hostWord _ => answer h { who := who, status := .badOpcode, detail := 2 } s

/-- Does an operation's own answer or a release grant a lock? -/
def grantsOf (a : Applied) : List Rel := a.rels ++ a.reply.toList

/-- LOCK_ACQUIRE on a local lock, entered in the lock record where it is taken (R172, R351). -/
def acquireLocal (who : Issuer) (h : BitVec 32) (blocking : Bool) (timeout : Nat) (s : State) : State :=
  let f := applyAcquire (issuerId s) who blocking timeout
  let t := lockLocal who h f s
  match handleRef h with
  | .object i =>
    match tget i s.objects with
    | some o =>
      if o.part = issuerPart who ∧ o.kind = .lock then recordGrants h (grantsOf (f o)) t else t
    | none => t
  | _ => t

/-- LOCK_RELEASE on a local lock: its record entry goes, and the next holder's is made (R172, R351). -/
def releaseLocal (who : Issuer) (h : BitVec 32) (s : State) : State :=
  let f := applyRelease (issuerId s) who
  let t := lockLocal who h f s
  match handleRef h with
  | .object i =>
    match tget i s.objects with
    | some o =>
      if o.part = issuerPart who ∧ o.kind = .lock ∧ (f o).obj ≠ o then
        recordGrants h (f o).rels (unrecordLock who (ownModule s) h t)
      else t
    | none => t
  | _ => t

/-- A lock operation sent to another module's store, its answer awaited (R316). ARG2's operation byte is 0 for an
acquisition, 1 for a blocking one, 2 for a release and 3 for a sweep (log entry 15). -/
def lockRemote (who : Issuer) (h : BitVec 32) (module op timeout : Nat) (s : State) : State :=
  match handleRef h with
  | .bad => answer h { who := who, status := .badLength, detail := 4 } s
  | .none => answer h { who := who, status := .ok } s
  | _ =>
    if op = 1 ∧ hostFull s who then answer h { who := who, status := .quota } s
    else
      markWaiting who
        { send (outPacket s .lockOp who module 1 (signalAddr h) (op + timeout % 2 ^ 32 * 256) []) s with
          remoteOps := s.remoteOps ++ [{ who := who, module := module, handle := h, acquire := op ≠ 2, blocking := op = 1 }] }

/-! Sweeps (R181) -/

/-- Sweeps the locks of one region's store for an owner. -/
def sweepRegion (region : Nat) (owner : UnitId) (s : State) : State :=
  let hit := s.objects.filter fun e => e.1 / 8192 == region
  let rels := hit.flatMap fun e => (sweepObj owner e.2).2
  answerAll 0 rels
    { s with objects := s.objects.map fun e => if e.1 / 8192 == region then (e.1, (sweepObj owner e.2).1) else e }

/-- Modules other than this one where a unit holds locks, by its lock record, or has asked for one (R181, R302). -/
def lockModules (s : State) (owner : UnitId) : List Nat :=
  (((s.parts.flatMap fun e => e.2.jobs.flatMap fun j => j.2.locks.filter fun l => l.2.2 == owner).map (·.1)) ++
    (s.remoteOps.filter fun o => issuerId s o.who == owner).map (·.module)).eraseDups.filter fun m => m != ownModule s

/-- The error handler's owner sweep: to every signal store of the module and to every module whose locks the unit holds
(R181). The owner's lock record empties. -/
def sweepOwner (owner : UnitId) (s : State) : State :=
  let s1 := (List.range 8).foldl (fun s r => sweepRegion r owner s) s
  let s2 := (lockModules s owner).foldl
    (fun t m => send (outPacket t .lockOp (.unit 0 owner) m 1 0 (3 + owner.unit * 2 ^ 32 + owner.inc * 2 ^ 48) []) t) s1
  { s2 with
    parts := s2.parts.map fun e => (e.1, { e.2 with
      jobs := e.2.jobs.map fun j => (j.1, { j.2 with locks := j.2.locks.filter fun l => l.2.2 != owner }) }) }

/-! Dark traffic (R369, R370) -/

/-- Is the packet's sender a unit of this module fenced in this incarnation, and the packet none that passed the fence before it was set
(R369)? -/
def fenced (s : State) (p : Pkt) : Bool :=
  p.src == ownModule s && s.units.fences.contains (p.srcUnit, p.srcInc) && !s.out.packets.contains p

/-- The region a unit belongs to (R170). -/
def unitRegion (u : Nat) : Nat :=
  if u < 0x400 then u / 108 else if u < 0x410 then (u - 0x400) / 2 else if u < 0x600 then (u - 0x500) / 16 % 8 else u % 8

/-- A packet's target local address, 0 where its type carries none (R316, R370). -/
def targetAddr (p : Pkt) : Nat :=
  if p.type ∈ [.write, .readReq, .rangeCheck, .signal, .lockOp, .streamOpen] then p.arg.toNat % 2 ^ 47 else 0

/-- A packet of a fenced unit is dropped at its fence (R370): counted for its block or region; the first drop in each
1 ms writes an entry. -/
def darkDrop (p : Pkt) (s : State) : State :=
  let core := p.srcUnit < 0x400
  let key := if core then blockOfCore p.srcUnit else 96 + unitRegion p.srcUnit
  let fresh := match tget key s.units.darkLast with
    | some t => decide (t.toNat + 1000000 ≤ s.time.now.toNat)
    | none => true
  let s1 := modUnits (fun u => { u with
    darkBlock := if core then tmod key 0 (· + 1) u.darkBlock else u.darkBlock
    darkRegion := if core then u.darkRegion else tmod (unitRegion p.srcUnit) 0 (· + 1) u.darkRegion
    darkLast := if fresh then tput key s.time.now u.darkLast else u.darkLast }) s
  if fresh then
    note 0x0204 (fun e => { e with
      source := p.srcUnit, inc := p.srcInc
      arg := BitVec.ofNat 64 (typeCode p.type * 2 ^ 48 + targetAddr p) }) s1
  else s1

/-- Is the issuer a unit of this module in an incarnation that is fenced (R183)? -/
def issuerFenced (s : State) : Issuer → Bool
  | .host _ => false
  | .unit _ u => u.module == ownModule s && s.units.fences.contains (u.unit, u.inc)

/-- An operation of a unit: one of a fenced incarnation is dropped as dark traffic (R183, R370). -/
def unlessFenced (who : Issuer) (type : PktType) (h : BitVec 32) (f : State → State) (s : State) : State :=
  if issuerFenced s who then darkDrop (outPacket s type who (ownModule s) 1 (signalAddr h) 0 []) s else f s

/-! The debugger view (R201, R428) -/

/-- The 64 bytes of an object's view. -/
def viewOf (ident : Issuer → UnitId) (o : SyncObj) : List Byte :=
  let ws := o.waiters.map fun w => (ident w.who).unit
  let four := (ws ++ [0xFFFF, 0xFFFF, 0xFFFF, 0xFFFF]).take 4
  toLe 8 o.value.toNat ++ toLe 8 (stateWord o).toNat ++ four.flatMap (toLe 2) ++ toLe 4 (o.lastModule % 2 ^ 17) ++ toLe 2 o.lastUnit ++
    toLe 2 0 ++ toLe 8 o.lastTime.toNat ++ List.replicate 24 0

end Sys2Proof.Machine
end

