-- ==== Sys2Proof/Machine/Pages.lean ====
section
/-! DEFINITION. Key/value pages (R239 to R242): the partition's pool, the search for a free page, and reference counts.
A partition's pool is the first KV_POOL_MIB of its HBM allocation (log entry 21). -/

namespace Sys2Proof.Machine

/-- First and last+1 page numbers (16 KiB) of a partition's key/value pool. -/
def poolLo (p : Partition) : Nat := p.hbmBase / 0x4000
def poolHi (p : Partition) : Nat := (p.hbmBase + p.quota.kvPoolMib * 0x100000) / 0x4000

/-- Page numbers of one region. -/
def regionPages : Nat := 0x1800000000 / 0x4000

/-- Rounds a page number up to a multiple of a page size. -/
def alignPage (size n : Nat) : Nat := (n + 2 ^ size - 1) / 2 ^ size * 2 ^ size

/-- The first aligned free page of a size in a range, past every page in use that overlaps. -/
def findPage (used : List (Nat × Nat)) (size hi : Nat) : Nat → Nat → Option Nat
  | 0, _ => none
  | n + 1, start =>
    if hi < start + 2 ^ size then none
    else
      match ((used.filter fun u => start < u.1 + 2 ^ u.2 && u.1 < start + 2 ^ size).map fun u => u.1 + 2 ^ u.2).max? with
      | some m => findPage used size hi n (alignPage size m)
      | none => some start

/-- A free page of a size in one region's share of a partition's pool. -/
def freeIn (s : State) (part region size : Nat) : Option Nat :=
  let p := partOf s part
  let used := s.serving.refs.map fun e => (e.1, e.2.1)
  let lo := max (poolLo p) (region * regionPages)
  let hi := min (poolHi p) ((region + 1) * regionPages)
  findPage used size hi (used.length + 1) (alignPage size lo)

/-- Sizes a page at a window offset can have, largest first (R240, R241). -/
def sizesAt (pageMax off : Nat) : List Nat :=
  ((List.range (min pageMax 7 + 1)).reverse).filter fun k => off % (0x4000 * 2 ^ k) == 0

/-- A fresh private page for a window offset: the home region first, then the other regions, the largest size that is
free (R241). -/
def pickPage (s : State) (part home off : Nat) : Option PageRef :=
  let regions := home :: (List.range 8).filter (· != home)
  regions.findSome? fun r =>
    (sizesAt (partOf s part).pageMax off).findSome? fun k => (freeIn s part r k).map fun a => ⟨a, k, false⟩

/-- Takes a page into use with one reference. -/
def takePage (p : PageRef) (s : State) : State :=
  modServing (fun v => { v with refs := tput p.page (p.size, 1) v.refs }) s

/-- Adds a reference to a page. -/
def addRef (p : PageRef) (s : State) : State :=
  modServing (fun v => { v with refs := tmod p.page (p.size, 0) (fun r => (r.1, r.2 + 1)) v.refs }) s

/-- The reference table with one reference of a page dropped. -/
def dropIn (page : Nat) (refs : Tbl (Nat × Nat)) : Tbl (Nat × Nat) :=
  match tget page refs with
  | some r => if r.2 ≤ 1 then tdel page refs else tput page (r.1, r.2 - 1) refs
  | none => refs

/-- Drops a reference; the last one frees the page. -/
def dropRef (p : PageRef) (s : State) : State := modServing (fun v => { v with refs := dropIn p.page v.refs }) s

/-- Free pool pages (16 KiB) of a region for a partition (R241). -/
def freeCount (s : State) (part region : Nat) : Nat :=
  let p := partOf s part
  let lo := max (poolLo p) (region * regionPages)
  let hi := min (poolHi p) ((region + 1) * regionPages)
  (hi - lo) - ((s.serving.refs.filter fun e => lo ≤ e.1 && e.1 < hi).map fun e => 2 ^ e.2.1).sum

/-- The region of the partition with the most free pool bytes, the lowest on a tie (R241). -/
def homeRegion (s : State) (part : Nat) : Nat :=
  (List.range 8).foldl (fun b r => if freeCount s part b < freeCount s part r then r else b) 0

/-- Birzu's private area in region 0 (R235, R344): a place of 64 KiB for the page list of each sequence entry, then one for lists longer
than that (log entry 21). -/
def privateBytes : Nat := 0x80000000
def longListsBase : Nat := 0x40000000

/-- Where the page list of a sequence entry lies. -/
def pageListPlace (i : Nat) : Nat := i * 0x10000

/-- The room of a page list: 64 KiB × 2^n. -/
def listSize (n : Nat) : Nat := if n ≤ 8192 then 0 else Nat.log2 ((8 * n - 1) / 0x10000) + 1

/-- Where a list of n entries of a sequence goes; none where no place is free. -/
def placeList (s : State) (i n : Nat) : Option Nat :=
  if n ≤ 8192 then some (pageListPlace i)
  else
    let used := (s.serving.seqs.filter fun e => e.1 != i && decide (longListsBase ≤ e.2.pageListAddr)).map fun e =>
      (e.2.pageListAddr / 0x10000, listSize e.2.pages.length)
    (findPage used (listSize n) (privateBytes / 0x10000) (used.length + 1) (longListsBase / 0x10000)).map (· * 0x10000)

/-- Is a range within the page list of a sequence of the partition? -/
def ownPageList (s : State) (part addr n : Nat) : Bool :=
  addr / 2 ^ 47 == ownModule s && s.serving.seqs.any fun e =>
    e.2.part == part && decide (e.2.pageListAddr ≤ addr % 2 ^ 47) &&
      decide (addr % 2 ^ 47 + n ≤ e.2.pageListAddr + 0x10000 * 2 ^ listSize e.2.pages.length)

/-- Writes a sequence's page list out to the memory its PAGE_LIST_ADDR names (R239). -/
def writePageList (q : Seq) (s : State) : State :=
  (q.pages.zipIdx).foldl (fun s e => writeSpace .hbm (q.pageListAddr + 8 * e.2) (toLe 8 (pageWord e.1)) s) s

/-- Updates a sequence entry. -/
def modSeq (i : Nat) (f : Seq → Seq) (s : State) : State := modServing (fun v => { v with seqs := tupd i f v.seqs }) s

end Sys2Proof.Machine
end

