-- ==== Sys2Proof/Machine/StageOps.lean ====
section
/-! DEFINITION. A stage's step: how it waits, how it ends and what its copies' ends mean (R227, R229, R230, R232). -/

namespace Sys2Proof.Machine

/-- The sequencer's unit: the head keeper (R170). -/
def headUnit : Nat := 0x0410

def modStage (part : Nat) (f : Stage → Stage) (s : State) : State := modPart part (fun p => { p with stage := f p.stage }) s

/-- Answers a waiting drain once no micro-batch is in flight (R230). -/
def settleDrain (part : Nat) (s : State) : State :=
  let t := (partOf s part).stage
  match t.drain with
  | none => s
  | some d =>
    if (match t.run with | none => true | some r => r.inFlight.isEmpty) then
      finish d.1 (ans .ok) (modStage part (fun t => { t with drain := none }) s)
    else s

/-- The lowest micro-batch whose backward has not completed (R229). -/
def lowestLeft (r : StageRunState) : Nat :=
  ((r.passes.filterMap fun p => match p with | .backward i => some i | .forward _ => none).min?).getD 0

/-- Ends a stall. -/
def endStall (now : Word) (r : StageRunState) : StageRunState :=
  match r.waitFrom with
  | some t => { r with stallNs := r.stallNs + (now - t).toNat, waitFrom := none }
  | none => r

def modRun (part : Nat) (f : StageRunState → StageRunState) (s : State) : State :=
  modStage part (fun t => { t with run := t.run.map f }) s

/-- Withdraws the sequencer's waits on publish objects of a partition (R227). -/
def endWaits (part : Nat) (s : State) : State :=
  let mine := fun (w : Waiter) => w.who == .unit part (unitId s headUnit)
  if s.objects.any fun e => e.2.part == part && e.2.waiters.any mine then
    { s with objects := s.objects.map fun e =>
        if e.2.part = part then (e.1, { e.2 with waiters := e.2.waiters.filter fun w => !mine w }) else e }
  else s

/-- Ends a step: the reply with its counts, a wait still open among the stall time (R229, R307). -/
def endStep (part : Nat) (st : Status) (detail : Nat) (low : Nat) (s : State) : State :=
  match ((partOf s part).stage.run).map (endStall s.time.now) with
  | none => s
  | some r =>
    settleDrain part (finish r.cmd
      { status := st, detail := detail
        words := [BitVec.ofNat 32 r.completed, BitVec.ofNat 32 (r.stallNs / 1000), BitVec.ofNat 32 low] }
      (endWaits part (modStage part (fun t => { t with run := none }) s)))

/-- A step stops early (R229). -/
def stopStep (part : Nat) (st : Status) (detail : Nat) (s : State) : State :=
  match (partOf s part).stage.run with
  | none => s
  | some r => endStep part st detail (lowestLeft r) s

/-! Off-loaded layers (R232) -/

/-- The off-load of a layer has completed: its HBM space is released; one whose backward has run releases the host buffer
instead. -/
def offloadDone (part mb layer : Nat) (s : State) : State :=
  modRun part (fun r => { r with
    offloading := r.offloading.erase (mb, layer)
    offloaded := if r.passes.contains (.backward mb) then r.offloaded ++ [(mb, layer)] else r.offloaded
    buffer := if r.passes.contains (.backward mb) then r.buffer else r.buffer.filter fun c => !(c.mb == mb && c.layer == layer) }) s

/-- The return of a layer has completed. -/
def bringDone (part mb layer : Nat) (s : State) : State :=
  modRun part (fun r => { r with returning := none, returned := r.returned ++ [(mb, layer)] }) s

end Sys2Proof.Machine
end

