-- ==== Sys2Proof/Machine/CacheOps.lean ====
section
/-! DEFINITION. What an access does in its home region's cache, and the stream prefetchers' own state (R145 to R149, R153 to R155,
R377). Tags move and dirty bits change here; the bytes lie in the memories. -/

namespace Sys2Proof.Machine

/-! Uncorrectable HBM reads (R149, R377) -/

/-- Marks every unit a range touches poisoned and takes its spans offline: an uncorrectable line at its home (R377). -/
def takeOffline (sp : Space) (key n : Nat) (s : State) : State :=
  (unitsOf key n).foldl (fun s u =>
    { poisonUnit sp u s with repair := { s.repair with
        offline := if s.repair.offline.contains (spanOf sp (u * 64)) then s.repair.offline
          else s.repair.offline ++ [spanOf sp (u * 64)] } }) s

/-- An uncorrectable HBM error (R149, R377): its unit is poisoned and its span goes offline; with a repair row left a corrective
remap starts, and else the span is retired. -/
def correctHbm (key : Nat) (s : State) : State :=
  let m := stackOf key
  let left := tgetD m 0 s.repair.hbmUnused
  let s1 := takeOffline .hbm key 1 s
  let e := fun (e : LogEntry) => { e with source := 0x400 + 2 * regionOfHbm key, arg := BitVec.ofNat 64 key }
  if isOffline s .hbm key then poisonUnit .hbm (key / 64) s
  else if left = 0 then
    note 0x0305 e { s1 with flash := { s1.flash with retiredSpans := s1.flash.retiredSpans ++ [spanOf .hbm key] } }
  else
    let s2 := note 0x0304 e { s1 with repair := { s1.repair with hbmUnused := tput m (left - 1) s1.repair.hbmUnused } }
    if left - 1 < 4 then fogWarning 5 m s2 else s2

/-! Prefetchers (R153, R154) -/

/-- Position i of a walk over rows by columns (R122). -/
def walkAt (order rows cols i : Nat) : Nat × Nat :=
  let g := order % 64 + 1
  match order / 64 with
  | 0 => (i / cols, i % cols)
  | 1 => (i % rows, i / rows)
  | 2 => (i / cols, if i / cols % 2 = 1 then cols - 1 - i % cols else i % cols)
  | _ =>
    let band := i / (g * cols)
    let j := i % (g * cols)
    let h := min g (rows - band * g)
    (band * g + j % h, j / h)

/-- The address of step i of a hint's visit (R122, R153). -/
def hintAddr (h : Hint) (i : Nat) : Int :=
  let p := walkAt h.order h.rows h.cols i
  h.base + h.stride * ((p.1 * h.cols + p.2 : Nat) : Int)

/-- The step of a hint, within its distance of what demand has reached, that an address is. -/
def hintStep (h : Hint) (seen addr : Nat) : Option Nat :=
  (List.range (min h.count (seen + h.distance))).find? fun k => hintAddr h k == (addr : Int)

/-- How far past a stream's last demand an address lies, in strides: none off the stream, behind it, or past the 16 lines it keeps
ahead. -/
def streamStep (last : Nat) (stride : Int) (addr : Nat) : Option Nat :=
  let d : Int := (addr : Int) - last
  if stride ≠ 0 ∧ d % stride = 0 ∧ 0 ≤ d / stride ∧ d / stride ≤ 16 then some (d / stride).toNat else none

/-- Is an access covered by a prefetcher: one of the lines its stream or hint keeps ahead? -/
def covered (part addr : Nat) (p : PfState) : Bool :=
  match p with
  | .streaming last stride _ _ q _ => q == part && (streamStep last stride addr).isSome
  | .hinted h _ _ q seen => q == part && (hintStep h seen addr).isSome
  | _ => false

/-- A prefetcher that demand reaches at an address (R153): the stream's last demand, or the hint's progress, moves there, and a hit on a
prefetched line leaves no prefetched line of the stream unused before it. -/
def advance (part addr clock : Nat) (hit : Bool) (p : PfState) : PfState :=
  match p with
  | .streaming last stride ahead unused q _ =>
    match if q = part then streamStep last stride addr else none with
    | some k => .streaming addr stride (ahead - k) (if hit then 0 else unused) q clock
    | none => p
  | .hinted h i j q seen =>
    match if q = part then hintStep h seen addr else none with
    | some k => .hinted h i j q (max seen (k + 1))
    | none => p
  | _ => p

/-- Demand reaches an address in a region: every prefetcher that covers it advances. -/
def demandAt (region part addr : Nat) (hit : Bool) (s : State) : State :=
  modRegion region (fun r => { r with
    clock := r.clock + 1, prefetchers := r.prefetchers.map fun e => (e.1, advance part addr r.clock hit e.2) }) s

/-- Is a prefetcher running a hint? -/
def isHinted (p : PfState) : Bool := match p with | .hinted _ _ _ _ _ => true | _ => false

/-- The lowest idle prefetcher of a region. -/
def idlePrefetcher (r : RegionMem) : Option Nat := (List.range 64).find? fun i => tgetD i .idle r.prefetchers == .idle

/-- Queued hints start in order while fewer than 48 prefetchers run hints and one is IDLE (R154). -/
def startHints : List (Hint × Nat × Nat) → RegionMem → RegionMem
  | [], r => { r with hintQueue := [] }
  | q :: t, r =>
    match idlePrefetcher r with
    | none => { r with hintQueue := q :: t }
    | some i =>
      if (r.prefetchers.countP fun e => isHinted e.2) < 48 then
        startHints t { r with prefetchers := tput i (.hinted q.1 0 q.2.1 q.2.2 0) r.prefetchers }
      else { r with hintQueue := q :: t }

/-- Puts a prefetcher into a state; one that becomes IDLE takes a queued hint. -/
def putPrefetcher (i : Nat) (p : PfState) (r : RegionMem) : RegionMem :=
  startHints r.hintQueue { r with prefetchers := tput i p r.prefetchers }

/-- A hint arrives (R154): behind those queued, it starts or queues up to 64 deep; with the queue full it is dropped and counted. -/
def addHint (h : Hint) (job part : Nat) (r : RegionMem) : RegionMem :=
  let r1 := startHints (r.hintQueue ++ [(h, job, part)]) r
  if 64 < r1.hintQueue.length then { r1 with hintQueue := r1.hintQueue.take 64, hintDrops := r1.hintDrops + 1 } else r1

/-! The region cache (R145 to R148) -/

def lineOf (key : Nat) : Nat := key / 128

/-- The set a line falls in: its slice and the hashed index (R146; log entry 7). -/
def setOf (line : Nat) : Nat := stackOf (line * 128) * 7168 + Config.cacheSet line % 7168

/-- The ways a partition may fill in a set of a region: its mask, less way 15 where the signal store lies (R146, R148). -/
def waysOf (s : State) (part region set : Nat) : List Nat :=
  (List.range 16).filter fun w =>
    (((partOf s part).wayMask[region]?).getD 0xFFFF).getLsbD w && !(w == 15 && decide (set % 7168 < 512))

/-- The way a fill of a set takes: a free permitted one, else that of the least recently used line in a permitted way. -/
def victimWay (ways : List Nat) (held : List CacheLine) : Option Nat :=
  match ways.find? fun w => held.all fun l => l.way != w with
  | some w => some w
  | none => (held.reverse.find? fun l => ways.contains l.way).map (·.way)

/-- Lines leave a region's cache (R155): one a prefetch brought poisoned and nothing read is counted as latent, and its poison goes with
it unless the line is written back (log entry 124). -/
def evicted (region : Nat) (ls : List CacheLine) (s : State) : State :=
  let gone := (ls.filter fun l => !l.dirty).flatMap (·.latent)
  modRegion region (fun r => { r with latents := r.latents + ls.countP fun l => !l.latent.isEmpty })
    { s with mem := { s.mem with poisonHbm := s.mem.poisonHbm.filter fun u => !gone.contains u } }

/-- Fills a line (R147, R148): at the most recent position, or the least recent for STREAM. -/
def fillLine (region : Nat) (l : CacheLine) (recent : Bool) (s : State) : State :=
  let set := setOf l.line
  let lines := (regionOf s region).lines
  match victimWay (waysOf s l.part region set) (lines.filter fun x => setOf x.line == set) with
  | none => s
  | some w =>
    let out := fun (x : CacheLine) => setOf x.line == set && x.way == w
    let kept := lines.filter fun x => !out x
    modRegion region (fun r => { r with lines := if recent then { l with way := w } :: kept else kept ++ [{ l with way := w }] })
      (evicted region (lines.filter out) s)

/-- Moves a hit line to the most recent position, marked by f. -/
def touchLine (region line : Nat) (f : CacheLine → CacheLine) (s : State) : State :=
  modRegion region (fun r =>
    match r.lines.find? fun x => x.line == line with
    | some x => { r with lines := f x :: r.lines.filter fun y => y.line != line }
    | none => r) s

/-- One line of an access of n bytes at an HBM key (R147). bad lists the 64-byte units that read uncorrectable in the HBM; a poisoned
unit that a prefetch brought is reported when a read meets it (R155). -/
def accessLine (part region key n line : Nat) (write : Bool) (cls : AllocClass) (bad : List Nat) (s : State) : State :=
  let whole := fun (u : Nat) => write && (wholeUnits key n).contains u
  match (regionOf s region).lines.find? fun x => x.line == line with
  | some x =>
    let met := fun (u : Nat) => !write && (unitsOf key n).contains u
    let s1 := touchLine region line (fun y => { y with
      dirty := y.dirty || (write && cls != .none), latent := y.latent.filter fun u => !whole u && !met u, prefetched := false }) s
    let s2 := if x.prefetched then demandAt region part (line * 128) true s1 else s1
    (x.latent.filter met).foldl (fun s u => correctHbm (u * 64) s) s2
  | none =>
    let full := write && decide (key ≤ line * 128 ∧ line * 128 + 128 ≤ key + n)
    let s1 := if full then s else (bad.filter fun u => u / 2 == line && !whole u).foldl (fun s u => correctHbm (u * 64) s) s
    match cls with
    | .none => s1
    | .normal => fillLine region { line := line, part := part, way := 0, dirty := write } true s1
    | .stream => fillLine region { line := line, part := part, way := 0, dirty := write } false s1

/-- Every line an access of HBM touches, in its home region's cache (R145, R147). -/
def accessHbm (part key n : Nat) (write : Bool) (cls : AllocClass) (bad : List Nat) (s : State) : State :=
  (List.range (if n = 0 then 0 else (key + n - 1) / 128 - key / 128 + 1)).foldl (fun s i =>
    let line := key / 128 + i
    accessLine part (regionOfHbm (line * 128)) key n line write cls bad s) s

/-- The cache's side of an access to any space: only HBM is cached (R145). -/
def accessSpace (part : Nat) (sp : Space) (key n : Nat) (write : Bool) (cls : AllocClass) (s : State) : State :=
  if sp = .hbm then accessHbm part key n write cls [] s else s

end Sys2Proof.Machine
end

