-- ==== Sys2Proof/Machine/RegRead.lean ====
section
/-! DEFINITION. Reading the management registers: the map of chapter 15, by aligned 8-byte offset. No row of the table
reads a register; DIRECT_LOAD reaches the space at its local address (R150), and statements cite it. -/

namespace Sys2Proof.Machine

/-- A bit of a register word. -/
def bitW (b : Bool) (i : Nat) : Nat := if b then 2 ^ i else 0

/-- Which of PKG_LOCK's blocks is locked (R422). -/
def blockLocked (s : State) (bit : Nat) : Bool := s.pkg.lock.getLsbD bit

/-- The fused maximum power (R5, R403). -/
def fusedMax (s : State) : Nat := if s.fuse.lowBin then 2000 else 2800

/-- Lost phases of a rail. -/
def phasesLost (s : State) (rail : Nat) : Nat := s.power.phases.countP (· / 64 == rail)

/-- The fused maximum less 116.7 W for each core-rail phase lost beyond the second, in tenths of a watt (R374, R403). -/
def phaseLimit10 (s : State) : Nat := fusedMax s * 10 - 1167 * (phasesLost s 0 - 2)

/-- Is the brake applied (R390, R403)? -/
def braking (s : State) : Bool := s.power.brakePin || s.power.brakeUv

/-- P_lim in tenths of a watt (R403): the lowest of the cap, the fused maximum, the brake level and the thermal limit. -/
def pLim10 (s : State) : Nat :=
  min (min (s.power.cap * 10) (phaseLimit10 s)) (min (if braking s then s.power.brakeLevel * 10 else phaseLimit10 s)
    (s.power.thermalLimit * 10))

/-- Does the thermal limit set P_lim? -/
def thermalLimited (s : State) : Bool :=
  s.power.thermalLimit * 10 == pLim10 s && decide (s.power.thermalLimit < fusedMax s)

def protectedUsed (s : State) : Nat := s.log.entries.countP (·.index < 1024)

/-- The count of a level's PKG_ARB_STATS (R37): its arbiters' refused urgent decisions since the last clear. -/
def arbCount (s : State) (level : Nat) : Nat :=
  ((s.pkg.arbStats[level]?).getD 0) + ((s.out.arbs.filter fun e => e.1 / 4096 == level).map (·.2.urgentHeld)).sum

/-- PKG_PART_ID (R6). -/
def partIdWord (s : State) : Nat :=
  s.fuse.stepping.toNat * 2 ^ 40 + 2 ^ 32 + 8 * 2 ^ 16 + (if s.fuse.lowBin then 0x2000 else 0x2800)

/-- REPAIR_CORE_MAP's two bits of a physical core: 0 active, 1 reserve, 2 retired, 3 unusable. -/
def coreMapBits (s : State) (p : Nat) : Nat :=
  if s.units.unusable.contains p then 3
  else if s.units.retired.contains p then 2
  else if (logicalOf s p).isSome then 0
  else 1

/-- Locked spare lanes of a port direction: locked physical lanes no logical lane uses (R328). -/
def spareCount (used : List Nat) (lanes : Tbl Lane18) : Nat :=
  ((List.range 18).filter fun l =>
    !used.contains l && (match tget l lanes with | some x => (match x.lock with | .locked _ _ => !x.retired | _ => false) | none => false)).length

/-- LP_STATUS; NO_ID until PKG_MODULE_ID has been written (R396). -/
def lpStatus (s : State) (p : Port) : Nat :=
  p.peerModule % 2 ^ 17 * 2 ^ 40 + p.flightNs % 2 ^ 10 * 2 ^ 16 + (p.txLanes.filter fun l => !p.laneTx.contains l).length % 4 * 2 ^ 14 +
    spareCount p.laneRx p.lanes % 4 * 2 ^ 12 + bitW p.noAssembly 11 + bitW s.pkg.moduleId.isNone 10 + bitW p.selfConnected 9 +
    bitW p.flightLimit 8 + p.state % 4

/-- LP_CTRL. -/
def lpCtrlWord (p : Port) : Nat := bitW p.dateline 5 + p.axis % 8 * 4 + bitW p.loopback 1 + bitW p.enable 0

/-- The eight counts of LP_STATS. -/
def lpStat (p : Port) (k : Nat) : Nat :=
  ([p.corrected, p.uncorrectable, p.naks, p.resends, p.falseMarkers, p.resyncs, p.reservedDrops, p.routeDrops][k]?).getD 0

/-- HOST_RING_ CTRL (R425). -/
def ringCtrlWord (r : Ring) : Nat :=
  bitW r.ringError 31 + r.vector % 2 ^ 10 * 2 ^ 16 + r.log2Size % 32 * 2 + bitW (r.enabled || r.enableHeld) 0

/-- Word k of a HOST_RING_ entry (R425). -/
def ringWord (r : Ring) (k : Nat) : Option Nat :=
  match k with
  | 0 => some r.cmdBase.toNat
  | 1 => some r.cplBase.toNat
  | 2 => some r.recordAddr.toNat
  | 3 => some (ringCtrlWord r)
  | _ => none

/-- Word k of a partition's PART_ block. -/
def partWord (s : State) (n k : Nat) : Option Nat :=
  let p := partOf s n
  match k with
  | 0 => some (bitW p.enabled 0 + (activeCores s n + 3) / 4 % 2 ^ 8 * 2 ^ 8 + p.epoch.toNat * 2 ^ 16)
  | 1 => some (p.mask.toNat % 2 ^ 64)
  | 2 => some (p.mask.toNat / 2 ^ 64)
  | 12 => some p.link.toNat
  | 14 => some (bitW p.flushBusy.isSome 61)
  | 15 => some p.flushBase.toNat
  | 16 => some p.flushLen.toNat
  | 32 => some p.passedOver
  | 33 => some p.mixedSteps
  | 34 => some p.staleDrops
  | k => if 4 ≤ k ∧ k < 12 then some ((p.wayMask[k - 4]?).getD 0).toNat else none

/-- Word k of a queue's QUEUE_ entry (R427). -/
def queueWord (q : Option Queue) (k : Nat) : Option Nat :=
  if 5 ≤ k then none
  else
    match q with
    | none => some 0
    | some q =>
      let two := fun (a b : Nat) => some (a % 2 ^ 32 + b % 2 ^ 32 * 2 ^ 32)
      match k with
      | 0 => some (q.occMin % 2 ^ 13 * 2 ^ 48 + q.occMax % 2 ^ 13 * 2 ^ 32 + q.occ % 2 ^ 13 * 2 ^ 16 + q.qgen.toNat * 2 ^ 8 +
          bitW true 3 + bitW q.resetting 2 + bitW q.lowEvent 1 + bitW q.highEvent 0)
      | 1 => two q.stats.pushes q.stats.pops
      | 2 => two q.stats.blanks q.stats.stale
      | 3 => two q.stats.poisoned q.stats.violations
      | _ => two q.stats.flushes q.stats.resets

/-- The 64 bytes of KEEPER_FW_STATUS (R428's table). -/
def fwStatusBytes (s : State) : List Byte :=
  let f := s.flash
  toLe 1 (bitW f.activeB 0) ++
  toLe 1 (bitW f.slotA.valid 0 + bitW f.slotA.trial 1 + bitW f.slotB.valid 4 + bitW f.slotB.trial 5) ++ toLe 2 0 ++
  toLe 4 f.slotA.version ++ toLe 4 f.slotB.version ++ toLe 4 f.slotA.security ++ toLe 4 f.slotB.security ++
  toLe 4 s.keepers.runningVersion ++ toLe 4 s.keepers.healthy.toNat ++ List.replicate 36 0

/-- A word composed of 16-bit signed readings. -/
def four16 (f : Nat → Int) (i : Nat) : Nat :=
  (f i % 2 ^ 16).toNat + (f (i + 1) % 2 ^ 16).toNat * 2 ^ 16 + (f (i + 2) % 2 ^ 16).toNat * 2 ^ 32 +
    (f (i + 3) % 2 ^ 16).toNat * 2 ^ 48

/-- Package, error, log and time registers: offsets below 0x04_0000. -/
def regLow (s : State) (off path : Nat) : Option Nat :=
  if off = 0x0 then some (partIdWord s)
  else if off = 0x8 then some (s.flash.bootCount % 2 ^ 16 * 2 ^ 32 + s.pkg.state % 16)
  else if off = 0x10 then some (match s.pkg.moduleId with | some m => m % 2 ^ 17 + 2 ^ 31 | none => 0)
  else if off = 0x18 then some s.pkg.straps.toNat
  else if off = 0x20 then some s.pkg.lock.toNat
  else if off = 0x28 then some s.pkg.errStatus.toNat
  else if off = 0x30 then some s.pkg.errMask.toNat
  else if off = 0x40 then some s.pkg.buddyPartner.toNat
  else if off = 0x48 then some s.pkg.buddyBase.toNat
  else if off = 0x50 then some s.pkg.buddySize
  else if 0x80 ≤ off ∧ off < 0xA8 then some (arbCount s ((off - 0x80) / 8))
  else if off = 0xA8 then some 0
  else if off = 0x10000 then some s.pkg.fog.toNat
  else if 0x11000 ≤ off ∧ off < 0x11000 + 864 * 0x20 then
    let r := (coreOf s ((off - 0x11000) / 0x20)).posted
    match (off - 0x11000) % 0x20 / 8 with
    | 0 => some r.address.toNat
    | 1 => some r.time.toNat
    | 2 => some (bitW r.armed 31 + r.count % 2 ^ 8 * 2 ^ 16 + r.code % 2 ^ 16)
    | _ => none
  else if 0x20000 ≤ off ∧ off < 0x20030 then some ((s.log.drops[(off - 0x20000) / 8]?).getD 0)
  else if off = 0x20030 then some (s.log.entries.length % 2 ^ 15 + protectedUsed s % 2 ^ 11 * 2 ^ 16)
  else if off = 0x30000 then some s.time.now.toNat
  else if off = 0x30008 then some (s.time.source % 4 + s.time.parent % 8 * 2 ^ 4 + bitW s.time.holdover 8)
  else if 0x30010 ≤ off ∧ off < 0x30040 then some ((portOf s ((off - 0x30010) / 8)).timeOffset % 2 ^ 64).toNat
  else if 0x200000 = off then some ((s.pkg.dbgSelect[path]?).getD 0).toNat
  else if 0x200040 ≤ off ∧ off < 0x200080 then some (fieldAt ((s.pkg.dbgView[path]?).getD []) (off - 0x200040) 8)
  else none

/-- Power, thermal and repair registers: offsets 0x04_0000 to 0x06_FFFF. -/
def regMid (s : State) (off : Nat) : Option Nat :=
  if off = 0x40000 then
    some (s.power.fEff % 2 ^ 12 * 2 ^ 20 + s.power.hold % 16 * 2 ^ 16 + bitW (thermalLimited s) 5 + bitW s.power.brakeSeen 4 +
      bitW (braking s) 3 + bitW s.power.capClamped 2 + bitW s.power.ov 1 + bitW s.power.uv 0)
  else if off = 0x40008 then some (s.power.inputW % 2 ^ 16)
  else if off = 0x40010 then some s.power.cap
  else if off = 0x40018 then some s.power.brakeLevel
  else if off = 0x40020 then some s.power.cclk
  else if off = 0x40028 then some s.power.clkCtrl
  else if off = 0x40030 then some (s.power.idleOff.toNat % 2 ^ 64)
  else if off = 0x40038 then some (s.power.idleOff.toNat / 2 ^ 64)
  else if off = 0x40040 then some (bitW s.power.hostOff 0)
  else if 0x40100 ≤ off ∧ off < 0x40140 then some ((s.power.zgate[(off - 0x40100) / 8]?).getD 0 % 2 ^ 64)
  else if off = 0x50000 then
    some (bitW s.thermal.junctionAlert 0 + bitW s.thermal.hbmAlert 1 + bitW s.thermal.throttling 2 + bitW s.thermal.tripSeen 3)
  else if off = 0x50008 then some s.thermal.throttle
  else if off = 0x50010 then some s.thermal.hbmThrottle
  else if off = 0x50018 then some s.thermal.alert
  else if off = 0x50020 then some s.thermal.hbmAlertAt
  else if 0x50100 ≤ off ∧ off < 0x50230 then some (four16 (fun i => tgetD i 0 s.thermal.sensors) ((off - 0x50100) / 2))
  else if 0x50400 ≤ off ∧ off < 0x50420 then some (four16 (fun i => tgetD i 0 s.thermal.hbm) ((off - 0x50400) / 2))
  else if off = 0x60000 then some s.repair.reserveMin
  else if 0x60100 ≤ off ∧ off < 0x601D8 then
    some (((List.range 32).map fun k => coreMapBits s ((off - 0x60100) * 4 + k) * 4 ^ k).sum)
  else if 0x60400 ≤ off ∧ off < 0x60480 then
    let m := (off - 0x60400) / 8
    some (tgetD m 0 s.repair.hbmUnused % 2 ^ 16 + tgetD m 0 s.repair.hbmRepaired % 2 ^ 16 * 2 ^ 16 +
      tgetD m 0 s.repair.hbmLanes % 2 ^ 8 * 2 ^ 32)
  else if 0x60500 ≤ off ∧ off < 0x60558 then some (tgetD ((off - 0x60500) / 8) 0xFF s.repair.ucie).toNat
  else if off = 0x60600 then some (((List.range 16).map fun r => phasesLost s r % 16 * 16 ^ r).sum)
  else if 0x60700 ≤ off ∧ off < 0x60758 then
    let d := (off - 0x60700) / 8
    some (tgetD d 0 s.repair.sramUnused % 2 ^ 16 + tgetD d 0 s.repair.sramRepaired % 2 ^ 16 * 2 ^ 16 +
      tgetD d 0 s.repair.sramEmpty % 2 ^ 16 * 2 ^ 32)
  else none

/-- Is the host I/O domain powered (R402, R419)? -/
def hostPowered (s : State) : Bool := s.supplies.mainOn && s.power.domains.getLsbD 126

/-- Port, host, partition, queue and firmware registers: offsets from 0x07_0000. -/
def regHigh (s : State) (off : Nat) : Option Nat :=
  if 0x70000 ≤ off ∧ off < 0x76000 then
    let p := portOf s ((off - 0x70000) / 0x1000)
    let o := off % 0x1000
    if o = 0 then some (lpCtrlWord p)
    else if o = 8 then some (lpStatus s p)
    else if 0x10 ≤ o ∧ o < 0x30 then
      some (leNat (((p.laneTx ++ p.laneRx).drop (o - 0x10)).take 8 |>.map (BitVec.ofNat 8)))
    else if o = 0x30 then some p.bond.toNat
    else if 0x100 ≤ o ∧ o < 0x140 then some (lpStat p ((o - 0x100) / 8) % 2 ^ 64)
    else none
  else if off = 0x80000 then
    some (if hostPowered s then s.pkg.linkRate % 8 + s.pkg.linkWidth % 32 * 8 + bitW s.pkg.noFlit 8 else 0)
  else if 0x81000 ≤ off ∧ off < 0x81100 then
    (ringWord (ringOf s 16 ((off - 0x81000) / 0x40)) (off % 0x40 / 8)).map fun w => if hostPowered s then w else 0
  else if 0x100000 ≤ off ∧ off < 0x200000 then
    let n := (off - 0x100000) / 0x10000
    let o := off % 0x10000
    if 0x8000 ≤ o ∧ o < 0x8100 then
      (ringWord (ringOf s n ((o - 0x8000) / 0x40)) (o % 0x40 / 8)).map fun w => if hostPowered s then w else 0
    else partWord s n (o / 8)
  else if 0x300000 ≤ off ∧ off < 0x380000 then
    queueWord (tget (off % 0x10000 / 0x40) (engineOf s ((off - 0x300000) / 0x10000)).queues) (off % 0x40 / 8)
  else if 0x400000 ≤ off ∧ off < 0x400040 then some (fieldAt (fwStatusBytes s) (off - 0x400000) 8)
  else none

/-- The register word at an 8-byte offset, none where no register lies (R417); path picks the SYNC_DBG_ copy (R428). -/
def regWord (s : State) (off path : Nat) : Option Nat :=
  match regLow s off path with
  | some w => some w
  | none =>
    match regMid s off with
    | some w => some w
    | none => regHigh s off

/-- A read of a width at an offset (R417): none where the width, the alignment or the offset is not a register's. A
4-byte read returns its half. -/
def readReg (s : State) (off width path : Nat) : Option Nat :=
  if width = 8 ∧ off % 8 = 0 then regWord s off path
  else if width = 4 ∧ off % 4 = 0 then
    (regWord s (off / 8 * 8) path).map fun w => if off % 8 = 0 then w % 2 ^ 32 else w / 2 ^ 32 % 2 ^ 32
  else none

/-- The answer of a management read: 0 with ACCESS_ERROR set where no register answers (R417). -/
def regReadEffect (s : State) (off width path : Nat) : Nat × State :=
  match readReg s off width path with
  | some w => (w, s)
  | none => (0, setErr 2 s)

end Sys2Proof.Machine
end

