-- ==== Sys2Proof/Machine/JobOps.lean ====
section
/-! DEFINITION. Compute commands in progress (R84, R101, R115, R367): which job a core's program belongs to, and how a job
ends before its work is done. -/

namespace Sys2Proof.Machine

def modMatJob (j : Nat) (f : MatJob → MatJob) (s : State) : State := { s with jobs := tupd j f s.jobs }

/-- The BRUSH_RUN whose program runs on a core; one of a stopped job does not run. -/
def brushJobOf (s : State) (core : Nat) : Option Nat :=
  (s.jobs.find? fun e => e.2.isBrush && e.2.cores.contains core && !cmdStopped s e.2.cmd).map (·.1)

/-- A core without a job's tiles and partials. -/
def coreWithoutJob (j : Nat) (c : Core) : Core :=
  { c with
    tiles := c.tiles.filter fun t => t.desc.job != j, work := c.work.filter fun d => d.job != j
    partials := c.partials.filter fun p => p.job != j, tileWait := c.tileWait.filter fun d => d.job != j }

/-- A combining unit without a job's partials and sums. -/
def combineWithoutJob (j : Nat) (b : List Partial × List Combining) : List Partial × List Combining :=
  (b.1.filter fun p => p.job != j, b.2.filter fun x => x.job != j)

/-- Is a prefetcher running a hint of a job? -/
def hintOf (j : Nat) (p : PfState) : Bool := match p with | .hinted _ _ k _ _ => k == j | _ => false

/-- A region's prefetchers with a job's hints cancelled (R153, R154): the prefetchers so freed start queued hints. -/
def cancelHints (j : Nat) (r : RegionMem) : RegionMem :=
  startHints (r.hintQueue.filter fun q => q.2.1 != j)
    { r with prefetchers := r.prefetchers.map fun e => (e.1, if hintOf j e.2 then .idle else e.2) }

/-- Takes a job's work off the cores, the combining units and the prefetchers. -/
def dropJobWork (j : Nat) (s : State) : State :=
  { s with
    cores := s.cores.map fun e => (e.1, coreWithoutJob j e.2)
    regions := s.regions.map fun e => (e.1, cancelHints j e.2)
    combine := s.combine.map fun e => (e.1, combineWithoutJob j e.2) }

/-- Ends a job with an answer. -/
def endJob (j : Nat) (a : Answer) (s : State) : State :=
  match tget j s.jobs with
  | some m => finish m.cmd a (dropJobWork j { s with jobs := tdel j s.jobs })
  | none => s

/-- The NaN and Inf counts of a compute command's reply (R58, R307). -/
def countWords (nan inf : Nat) : List (BitVec 32) :=
  [BitVec.ofNat 32 (min nan 0xFFFFFFFF), BitVec.ofNat 32 (min inf 0xFFFFFFFF)]

/-- Ends the BRUSH_RUN of a core, where there is one. -/
def endBrush (core : Nat) (a : Answer) (s : State) : State :=
  match brushJobOf s core with
  | some j => endJob j a s
  | none => s

/-- A poisoned operand read by a core (R367): the command that read it ends with ST_POISONED and a region, and the entry
names the address. -/
def notePoisoned (core region addr : Nat) (s : State) : State :=
  note 0x0103 (fun e => { e with
    status := 0x44, part := (partOfCore s core).getD 0xFF, source := core, inc := incOf s core
    other := region, arg := BitVec.ofNat 64 addr }) s

end Sys2Proof.Machine
end

