-- ==== Sys2Proof/Machine/Stores.lean ====
section
/-! DEFINITION. Direct stores and loads of a core, its posted-error record, fences and fenced signals (R152, R162 to R164,
R185, R186). -/

namespace Sys2Proof.Machine

/-- Records a failed posted store (R162): the first failure's address, code and time stay; every failure counts, arms the
record and is logged. -/
def postError (core addr : Nat) (st : Status) (s : State) : State :=
  let upd := fun (r : PostedRecord) =>
    if r.count = 0 then
      ({ address := BitVec.ofNat 64 addr, time := s.time.now, armed := true, count := 1, code := statusCode st } : PostedRecord)
    else { r with armed := true, count := satAdd 255 r.count 1 }
  note 0x0104 (fun e => { e with
    status := statusCode st, part := (partOfCore s core).getD 0xFF, source := core, inc := incOf s core
    arg := BitVec.ofNat 64 addr }) (modCore core (fun c => { c with posted := upd c.posted }) s)

/-- Is a core running a tile (R144)? -/
def tileRunning (s : State) (p : Nat) : Bool := !(coreOf s p).tiles.isEmpty

/-- The region of a local address, for a fence destination (R150, R185). -/
def destRegion (a : Nat) : Nat :=
  if a < hbmTop then regionOfHbm a
  else if 0x10000000000 ≤ a ∧ a < 0x11000000000 then (a - 0x10000000000) / 0x200000 / 100
  else if 0x11000000000 ≤ a ∧ a < 0x12000000000 then (a - 0x11000000000) / 0x20000 / 100
  else 0

/-- A fence destination: the pair of module and region, or a host function (R185). -/
def fenceDest (s : State) (part addr : Nat) : Nat :=
  if addr / 2 ^ 47 = ownModule s ∧ 0x400000000000 ≤ addr % 2 ^ 47 then 2 ^ 40 + part
  else addr / 2 ^ 47 % 2 ^ 17 * 16 + destRegion (addr % 2 ^ 47)

/-- Is the address in a logical window whose number is vacant: a unit that has gone dark (R162, R368)? -/
def vacantWindow (s : State) (a : Nat) : Bool :=
  if 0x10000000000 ≤ a ∧ a < 0x10000000000 + 800 * 0x200000 then
    decide ((a - 0x10000000000) % 0x200000 < paletteBytes) && (physOf s ((a - 0x10000000000) / 0x200000)).isNone
  else if 0x11000000000 ≤ a ∧ a < 0x11000000000 + 800 * 0x20000 then (physOf s ((a - 0x11000000000) / 0x20000)).isNone
  else false

/-- Writes a store into its home, through the cache (R145). badLine says that a partial-line merge there read an uncorrectable line
(R187, R430). -/
def homeStore (core part addr : Nat) (sp : Space) (key : Nat) (bs : List Byte) (badLine : Bool) (s : State) : State :=
  let s1 := accessSpace part sp key bs.length true .normal (writeSpace sp key bs s)
  if badLine && sp == .hbm then postError core addr .remoteWriteFailed (correctHbm key s1)
  else if writeRefused s sp key bs.length then postError core addr .remoteWriteFailed s1
  else s1

/-- The WRITE packet of a posted store to another module. -/
def storePacket (s : State) (core part module addr : Nat) (bs : List Byte) : Pkt :=
  { type := .write, src := ownModule s, dst := module, cls := 3, subch := 0, hops := 0
    plane := planeOf addr, srcUnit := core, srcInc := incOf s core, part := part
    arg := BitVec.ofNat 64 addr, arg2 := 0, data := bs }

/-- Enters a destination in a core's set. -/
def addDest (core dest : Nat) (s : State) : State :=
  modCore core (fun c => { c with fenceSet := if c.fenceSet.contains dest then c.fenceSet else c.fenceSet ++ [dest] }) s

/-- A store past its fence (R150, R152, R162): into the core's own palette at once; elsewhere posted. -/
def storeNow (core addr : Nat) (bs : List Byte) (badLine : Bool) (s : State) : State :=
  match partOfCore s core with
  | none => postError core addr .tenantViolation s
  | some part =>
    match place s addr with
    | .mem sp key =>
      if sp = .palette ∧ key / 0x200000 = core then homeStore core part addr sp key bs badLine s
      else if inPart s part sp key ∧ key + bs.length ≤ regionEnd s part sp key then
        let s1 := addDest core (fenceDest s part addr) s
        if sp = .acc ∧ tileRunning s (key / 0x20000) then
          modCore (key / 0x20000) (fun c => { c with accWaits := c.accWaits ++ [(key, bs, storePacket s core part (ownModule s) addr bs)] }) s1
        else homeStore core part addr sp key bs badLine s1
      else postError core addr .tenantViolation s
    | .remote m a => send (storePacket s core part m a bs) (addDest core (fenceDest s part addr) s)
    | _ => if vacantWindow s (addr % 2 ^ 47) then postError core addr .unitDark s else postError core addr .badLength s

/-- A probe to each plane of each destination, behind the stores, as P3 (R185). -/
def sendProbes (core : Nat) (ds : List Nat) (s : State) : State :=
  ds.foldl (fun s d =>
    (List.range 8).foldl (fun s k =>
      send { type := .fenceProbe, src := ownModule s, dst := if 2 ^ 40 ≤ d then ownModule s else d / 16, cls := 3, subch := 0
             hops := 0, plane := k, srcUnit := core, srcInc := incOf s core, part := (partOfCore s core).getD 0
             arg := BitVec.ofNat 64 d, arg2 := 0, data := [] } s) s) s

/-- Issues a signal held behind a fence: a core whose record is ARMED does not signal; it answers ST_POISONED and the
record is disarmed (R163, R186). -/
def issueFenced (core : Nat) (g : HeldSignal) (s : State) : State :=
  if (coreOf s core).posted.armed then
    answer g.handle { who := g.who, status := .poisoned }
      (modCore core (fun c => { c with posted := { c.posted with armed := false } }) s)
  else signalAny g.who g.handle g.module g.blocking g.remote g.v s

/-! Loads (R152, R164) -/

/-- The 16 bytes of a signal-store object (R167). -/
def objectBytes (o : SyncObj) : List Byte := toLe 8 o.value.toNat ++ toLe 8 (stateWord o).toNat

/-- What a direct load reads inside the module: memory of its partition, an object of its partition in the signal-store
window, or a register; none outside the partition or where nothing answers (R150, R152; log entry 20). -/
def loadLocal (s : State) (part addr width : Nat) : Option Nat :=
  match place s addr with
  | .mem sp key =>
    if inPart s part sp key && decide (key + width ≤ regionEnd s part sp key) then
      some (leNat (mreadN key width (cellsOf sp s.mem)))
    else none
  | .notTarget =>
    let a := addr % 2 ^ 47
    if 0x12000000000 ≤ a ∧ a < 0x12000000000 + 8 * 0x20000 then
      match tget ((a - 0x12000000000) / 16) s.objects with
      | some o => if o.part = part then some (fieldAt (objectBytes o) (a % 16) width) else none
      | none => none
    else if 0x14000000000 ≤ a then readReg s (a - 0x14000000000) width 4
    else none
  | _ => none

/-- Sets a scalar register of a core (R105). -/
def setScalar (core r : Nat) (v : Word) (s : State) : State :=
  modCore core (fun c => { c with brush := { c.brush with sr := tput r v c.brush.sr } }) s

/-- A load that finds nothing it may read: zero and a core error (R152). -/
def failLoad (core sdst : Nat) (s : State) : State := setScalar core sdst 0 (modCore core (fun c => { c with loadError := true }) s)

/-- The read request of a load whose data return later, with its entry among the core's outstanding loads. -/
def loadPacket (s : State) (core module a width : Nat) : Pkt :=
  { storePacket s core ((partOfCore s core).getD 0) module a [] with type := .readReq, arg2 := BitVec.ofNat 64 width }
def addLoad (core sdst addr width : Nat) (s : State) : State :=
  modCore core (fun c => { c with loads := c.loads ++ [(sdst, addr, width)] }) s

/-- A load of an address of this module (R152): zero and a core error outside the partition. A poisoned word that reaches the brush unit
ends its command (R75, R143, R367). -/
def loadHere (core sdst addr width : Nat) (s : State) : State :=
  match partOfCore s core with
  | none => failLoad core sdst s
  | some part =>
    match loadLocal s part addr width, place s addr with
    | none, _ => failLoad core sdst s
    | some v, .mem sp key =>
      let s1 := accessSpace part sp key width false .normal s
      if readsPoison s sp key width then endBrush core (ans .poisoned (regionOfCore core)) (notePoisoned core (regionOfCore core) addr s1)
      else setScalar core sdst (BitVec.ofNat 64 v) s1
    | some v, _ => setScalar core sdst (BitVec.ofNat 64 v) s

/-- May a core load from an address of this module (R152)? -/
def mayLoad (s : State) (core addr width : Nat) : Bool :=
  match partOfCore s core with
  | some part => (loadLocal s part addr width).isSome
  | none => false

/-- A direct load past the stores before it (R152, R164). A remote address sends a read request; one in an accumulator memory of its
partition whose core runs a tile waits for the tile boundary with it (R144). -/
def loadNow (core sdst addr width : Nat) (s : State) : State :=
  match place s addr with
  | .remote m a => send (loadPacket s core m a width) (addLoad core sdst addr width s)
  | .mem sp key =>
    if sp = .acc ∧ tileRunning s (key / 0x20000) ∧ mayLoad s core addr width then
      let p := loadPacket s core (ownModule s) (addr % 2 ^ 47) width
      modCore (key / 0x20000) (fun c => { c with accWaits := c.accWaits ++ [(key, [], p)] }) (addLoad core sdst addr width s)
    else loadHere core sdst addr width s
  | _ => loadHere core sdst addr width s

/-! Fences (R185, R186) -/

/-- The destination set of a core's port (R185): what a running fence covers and what the core has stored to since. -/
def destSet (c : Core) : List Nat := match c.fence with | some f => f.dests.filter (fun d => !c.fenceSet.contains d) ++ c.fenceSet | none => c.fenceSet

/-- Would a store need a 17th destination? -/
def noDest (s : State) (core addr : Nat) : Bool :=
  let ds := destSet (coreOf s core)
  decide (16 ≤ ds.length) && !ds.contains (fenceDest s ((partOfCore s core).getD 0) addr)

/-- Starts a fence over the destination set, which starts anew, with the signals behind it and the operations it holds back. -/
def beginFence (core : Nat) (gs : List HeldSignal) (held : List HeldOp) (s : State) : State :=
  let ds := (coreOf s core).fenceSet
  modCore core (fun c => { c with fence := some { dests := ds, awaited := ds, signals := gs, held := held }, fenceSet := [] })
    (sendProbes core ds s)

/-- Issues signals a completed fence held. -/
def issueAll (core : Nat) (gs : List HeldSignal) (s : State) : State := gs.foldl (fun s g => issueFenced core g s) s

/-- Issues held operations in order, up to one that starts a further fence and holds back the rest. -/
def runHeld (core : Nat) : List HeldOp → State → State
  | [], s => s
  | .store addr bs bad :: t, s =>
    if noDest s core addr then beginFence core [] (.store addr bs bad :: t) s else runHeld core t (storeNow core addr bs bad s)
  | .load r addr width :: t, s => runHeld core t (loadNow core r addr width s)
  | .fence gs :: t, s =>
    if (coreOf s core).fenceSet.isEmpty then runHeld core t (issueAll core gs s) else beginFence core gs t s

/-- Completes a fence (R185, R186): its signals issue, then the operations it held. -/
def completeFence (core : Nat) (f : FenceRun) (s : State) : State :=
  runHeld core f.held (issueAll core f.signals (modCore core (fun c => { c with fence := none }) s))

/-- Holds an operation back behind the running fence. -/
def holdBack (core : Nat) (f : FenceRun) (o : HeldOp) (s : State) : State :=
  modCore core (fun c => { c with fence := some { f with held := f.held ++ [o] } }) s

/-- A store as its core issues it (R185): one to a 17th destination first performs a fence, or waits for the one that runs; a store
behind a held one waits with it. -/
def storeOrFence (core addr : Nat) (bs : List Byte) (badLine : Bool) (s : State) : State :=
  match (coreOf s core).fence with
  | some f =>
    if f.held.isEmpty && !noDest s core addr then storeNow core addr bs badLine s else holdBack core f (.store addr bs badLine) s
  | none =>
    if noDest s core addr then beginFence core [] [.store addr bs badLine] s else storeNow core addr bs badLine s

/-- Is an operation a held store to the 128-byte line of an address? -/
def storesLine (addr : Nat) (o : HeldOp) : Bool :=
  match o with
  | .store a bs _ => decide (a / 128 ≤ addr / 128 ∧ addr / 128 ≤ (a + bs.length - 1) / 128)
  | _ => false

/-- Starts a fence with the signals held behind it; with no destination it completes at once. While one runs it joins it if the core has
stored nothing since its probes left, and follows it otherwise. -/
def startFence (core : Nat) (gs : List HeldSignal) (s : State) : State :=
  let c := coreOf s core
  match c.fence with
  | some f =>
    if f.held.isEmpty && c.fenceSet.isEmpty then modCore core (fun c => { c with fence := some { f with signals := f.signals ++ gs } }) s
    else holdBack core f (.fence gs) s
  | none => if c.fenceSet.isEmpty then issueAll core gs s else beginFence core gs [] s

/-- Is a core fenced in its present incarnation (R369)? -/
def coreFenced (s : State) (core : Nat) : Bool := s.units.fences.contains (core, incOf s core)

/-- An operation of a core whose packets a fence drops (R369, R370): its packet is dark traffic and it has no other effect. -/
def unlessDark (core addr : Nat) (type : PktType) (f : State → State) (s : State) : State :=
  if coreFenced s core then
    darkDrop { storePacket s core ((partOfCore s core).getD 0) (addr / 2 ^ 47 % 2 ^ 17) (addr % 2 ^ 47) [] with type := type } s
  else f s

/-- FENCE (R185). -/
def execFence (core : Nat) (s : State) : Result := onCore core s fun _ => unlessDark core 0 .fenceProbe (startFence core []) s

/-- FENCED_SIGNAL (R163, R186). A host's CORE is a logical number of its partition (R308): one of another partition is
ST_TENANT_VIOLATION, a vacant one ST_UNIT_DARK. -/
def execFencedSignal (who : Issuer) (core : Nat) (handle : BitVec 32) (module : Nat) (blocking remote : Bool) (v : Word)
    (s : State) : Result :=
  let g : HeldSignal := { who := who, handle := handle, module := module, blocking := blocking, remote := remote, v := v }
  match who with
  | .unit _ _ => onCore core s fun _ => unlessDark core 0 .fenceProbe (startFence core [g]) s
  | .host c =>
    if 800 ≤ core then done c (ans .badLength 0xE) s
    else
      match physOf s core with
      | none => done c (ans .unitDark) s
      | some p => if partOfCore s p = some c.part then .next (startFence p [g] s) else done c (ans .tenantViolation) s

/-- A direct store (R162, R185). -/
def execDirectStore (core addr : Nat) (data : List Byte) (refusedBy : Bool) (s : State) : Result :=
  onCore core s fun _ => unlessDark core addr .write (storeOrFence core addr data refusedBy) s

/-- A direct load (R152, R164): behind a held store of its core to the same line it waits with it. -/
def execDirectLoad (core sdst addr width : Nat) (s : State) : Result :=
  onCore core s fun c =>
    unlessDark core addr .readReq (fun s =>
      match c.fence with
      | some f => if f.held.any (storesLine addr) then holdBack core f (.load sdst addr width) s else loadNow core sdst addr width s
      | none => loadNow core sdst addr width s) s

/-- Does a store of a unit still wait for a tile boundary at a destination (R144)? -/
def storeWaits (s : State) (u : UnitId) (destination : Nat) : Bool :=
  s.cores.any fun e => e.1 / 108 == destination % 16 && decide (destination < 2 ^ 40) &&
    e.2.accWaits.any fun w => w.2.2.type == .write && w.2.2.src == u.module && w.2.2.srcUnit == u.unit

/-- The answer to a fence's probes at a destination, on P2 (R185). -/
def fenceReply (s : State) (u : UnitId) (part destination : Nat) : Pkt :=
  { type := .fenceAnswer, src := ownModule s, dst := u.module, cls := 2, subch := 0, hops := 0, plane := 0
    srcUnit := 0, srcInc := 0, part := part, arg := BitVec.ofNat 64 destination, arg2 := 0, data := []
    dstUnit := u.unit }

/-- Answers a unit's probes at a destination (R185), once those of all eight planes have come and every earlier store is at its
home. -/
def answerProbes (u : UnitId) (part destination : Nat) (s : State) : State :=
  let mine := fun (x : UnitId × Nat × Nat) => x.1 == u && x.2.1 == destination
  if (s.probes.filter mine).length < 8 ∨ storeWaits s u destination then s
  else send (fenceReply s u part destination) { s with probes := s.probes.filter fun x => !mine x }

/-- A probe arrives at a destination (R185): once the probes of all eight planes have, it is answered. Stores are visible at their home
in the step that applies them. -/
def execFenceProbe (p : Pkt) (destination : Nat) (s : State) : Result :=
  if fenced s p then .next (darkDrop p s)
  else
    let u : UnitId := ⟨p.src, p.srcUnit, p.srcInc⟩
    .next (answerProbes u p.part destination
      { s with probes := if s.probes.contains (u, destination, p.plane) then s.probes else (u, destination, p.plane) :: s.probes })

/-- A probe's answer returns (R185); the fence completes with the last. -/
def execFenceAnswer (core destination : Nat) (s : State) : Result :=
  onCore core s fun c =>
    match c.fence with
    | none => s
    | some f =>
      let f1 := { f with awaited := f.awaited.filter (· != destination) }
      if f1.awaited.isEmpty ∧ f.awaited.contains destination then completeFence core f1 s
      else modCore core (fun c => { c with fence := some f1 }) s

/-- An answer missing for 10 ms (R186): the signals are not issued, the record is ARMED, the commands return ST_TIMEOUT.
A fence without a signal never fails. -/
def execFencedSignalTimeout (core : Nat) (s : State) : Result :=
  onCore core s fun c =>
    match c.fence with
    | none => s
    | some f =>
      if f.signals.isEmpty then s
      else
        f.signals.foldl (fun s g => answer g.handle { who := g.who, status := .timeout } s)
          (modCore core (fun c => { c with fence := some { f with signals := [] }, posted := { c.posted with armed := true } }) s)

end Sys2Proof.Machine
end

