-- ==== Sys2Proof/Machine/Streams.lean ====
section
/-! DEFINITION. What a port sends (R316, R318, R331, R332, R340): routing and bonds, packets into MSG frames, and DATA streams. -/

namespace Sys2Proof.Machine

def isUp (p : Port) : Bool := p.state == 2

/-! Routing and bonds -/

/-- The route entry of a destination: PRIMARY and ALT (R340). -/
def routeOf (s : State) (dst : Nat) : Option (Nat × Nat) :=
  match tget dst s.lantern.routes with
  | some b => if b.getLsbD 7 then some (b.toNat % 8, b.toNat / 8 % 8) else none
  | none => none

/-- The members of a port's bond that are UP (R332). -/
def upMembers (s : State) (port : Nat) : List Nat := (List.range 6).filter fun k => (portOf s port).bond.getLsbD k && isUp (portOf s k)

/-- Surviving members of a port's bond (R332, R333). -/
def survivors (s : State) (port : Nat) : List Nat := (upMembers s port).filter (· != port)

/-- Can a port, or the bond it stands for, carry traffic? -/
def portServes (s : State) (port : Nat) : Bool := isUp (portOf s port) || !(survivors s port).isEmpty

/-- The port a packet's route names (R340): the group's where it bears one (R263), PRIMARY, or ALT while PRIMARY is DOWN. -/
def routePort (s : State) (p : Pkt) : Option Nat :=
  match p.port with
  | some k => if k < 6 ∧ portServes s k then some k else none
  | none =>
    match routeOf s p.dst with
    | none => none
    | some (a, b) => if a < 6 ∧ portServes s a then some a else if b < 6 ∧ portServes s b then some b else none

/-- Does the port that leads to a module stand for a bond (R332, R340)? -/
def bondedTo (s : State) (dst : Nat) : Bool :=
  match routeOf s dst with
  | some (a, b) => let k := if portServes s a then a else b; (portOf s k).bond != 0
  | none => false

/-! Frames -/

/-- Bytes a packet takes in a MSG frame (R316). -/
def pktBytes (p : Pkt) : Nat := 32 + (p.data.length + 15) / 16 * 16

def frameBytes (f : Frame) : Nat := (f.packets.map pktBytes).sum

/-- Adds a packet to the frames waiting at a port: back to back in the last MSG frame of its class and sub-channel while
it fits 640 bytes, else in a new one (R316). -/
def addPacket (p : Pkt) (fs : List Frame) : List Frame :=
  match fs.getLast? with
  | some f =>
    if f.stream.isNone && f.cls == p.cls && f.subch == p.subch && decide (frameBytes f + pktBytes p ≤ 640) then
      fs.dropLast ++ [{ f with packets := f.packets ++ [p] }]
    else fs ++ [{ cls := p.cls, subch := p.subch, packets := [p] }]
  | none => [{ cls := p.cls, subch := p.subch, packets := [p] }]

/-- Cuts a stream's bytes into fabric packets of up to 512 bytes at consecutive addresses (R318), each on the plane of its own address
(R26); off is their offset in the stream, and status 1 marks them (log entry 22). -/
def cutFrame (p : Pkt) (addr off : Nat) : Nat → List Byte → List Pkt
  | 0, _ => []
  | n + 1, bs =>
    if bs.isEmpty then []
    else
      { p with type := .write, dst := addr / 2 ^ 47 % 2 ^ 17, plane := planeOf addr, arg := BitVec.ofNat 64 (addr % 2 ^ 47)
               arg2 := BitVec.ofNat 64 (off % 2 ^ 40 + p.arg2.toNat / 2 ^ 40 * 2 ^ 40), data := bs.take 512, status := 1 } ::
        cutFrame p (addr + 512) (off + 512) n (bs.drop 512)

/-- The global address and the stream offset of a write. -/
def writeAddr (p : Pkt) : Nat := p.dst * 2 ^ 47 + p.arg.toNat
def writeOff (p : Pkt) : Nat := p.arg2.toNat % 2 ^ 40

/-- The packets of frames; a DATA frame's bytes are writes of its stream. -/
def framePackets (fs : List Frame) : List Pkt :=
  fs.flatMap fun f => f.packets ++ (match f.stream with | some (_, q) => cutFrame q (writeAddr q) (writeOff q) 2 q.data | none => [])

/-! DATA streams (R318) -/

/-- The serial of a packet's transfer (R316). -/
def argSerial (p : Pkt) : Nat := p.arg2.toNat / 2 ^ 40

/-- Does a write belong to the stream that a STREAM_OPEN packet opens? -/
def inOpened (w open' : Pkt) : Bool :=
  open'.type == .streamOpen && open'.src == w.src && open'.srcUnit == w.srcUnit && argSerial open' == argSerial w &&
    decide (open'.arg.toNat ≤ writeAddr w) && decide (writeAddr w < open'.arg.toNat + open'.arg2.toNat % 2 ^ 40)

/-- Does a write belong to a stream? -/
def inStream (w : Pkt) (t : StreamOut) : Bool :=
  t.head.src == w.src && t.unit == w.srcUnit && t.serial == argSerial w && decide (t.start ≤ writeAddr w) &&
    decide (writeAddr w < t.start + t.total)

/-- Does a port hold the stream of a write, or its STREAM_OPEN? -/
def holdsStream (w : Pkt) (x : Port) : Bool := x.streamsOut.any (inStream w) || x.heldOpens.any (inOpened w)

/-- The lowest free stream number of a direction (R318). -/
def freeStream (x : Port) : Option Nat := freeIndex (x.streamsOut.map (·.number)) 0 1024

/-- The write that some bytes of a stream make. -/
def streamWrite (t : StreamOut) (off : Nat) (bs : List Byte) : Pkt :=
  let addr := t.start + off
  { t.head with
    type := .write, dst := addr / 2 ^ 47 % 2 ^ 17, plane := planeOf addr, arg := BitVec.ofNat 64 (addr % 2 ^ 47)
    arg2 := BitVec.ofNat 64 (off % 2 ^ 40 + t.serial * 2 ^ 40), data := bs, status := 1 }

/-- The DATA frames a stream's waiting bytes fill: 640 bytes each, the last one those that remain (R318). -/
def streamFrames : Nat → StreamOut → List Frame × StreamOut
  | 0, t => ([], t)
  | n + 1, t =>
    let k := min 640 (t.total - t.taken)
    if k = 0 ∨ t.waiting.length < k then ([], t)
    else
      let r := streamFrames n { t with taken := t.taken + k, waiting := t.waiting.drop k }
      ({ cls := 3, subch := t.head.subch, stream := some (t.number, streamWrite t t.taken (t.waiting.take k)) } :: r.1, r.2)

/-- A stream's write takes its place among the frames. -/
def addToStream (w : Pkt) (t : StreamOut) (x : Port) : Port :=
  let r := streamFrames (t.waiting.length + w.data.length) { t with waiting := t.waiting ++ w.data }
  { x with frames := x.frames ++ r.1, streamsOut := x.streamsOut.map fun u => if u.number == t.number then r.2 else u }

/-- A packet joins what a port sends (R316, R318): a STREAM_OPEN takes a free stream number or waits for one, and its writes with it; a
write of an open stream becomes part of its DATA frames; any other packet goes into a MSG frame. -/
def enqueue (q : Pkt) (x : Port) : Port :=
  match q.type with
  | .streamOpen =>
    match freeStream x with
    | some n =>
      let o := { q with status := n }
      { x with
        frames := addPacket o x.frames
        streamsOut := x.streamsOut ++ [{ number := n, unit := q.srcUnit, serial := argSerial q, start := q.arg.toNat
                                         total := q.arg2.toNat % 2 ^ 40, head := o }] }
    | none => { x with heldOpens := x.heldOpens ++ [q] }
  | .write =>
    match x.streamsOut.find? (inStream q) with
    | some t => addToStream q t x
    | none => if x.heldOpens.any (inOpened q) then { x with heldOpens := x.heldOpens ++ [q] } else { x with frames := addPacket q x.frames }
  | _ => { x with frames := addPacket q x.frames }

/-- Frees the stream numbers a test picks; the STREAM_OPEN packets that waited for one follow (R318). -/
def freeStreams (f : StreamOut → Bool) (x : Port) : Port :=
  if x.streamsOut.any f then
    x.heldOpens.foldl (fun x q => enqueue q x) { x with streamsOut := x.streamsOut.filter (!f ·), heldOpens := [] }
  else x

/-- The writes of a stream's bytes that are short of a frame. -/
def restPackets (t : StreamOut) : List Pkt := cutFrame (streamWrite t t.taken []) (t.start + t.taken) t.taken 2 t.waiting

/-- A stream that gets no more bytes (R161, R354): those short of a frame go as packets, and its last byte is the last it got. -/
def cutStream (t : StreamOut) (x : Port) : Port :=
  { x with
    frames := (restPackets t).foldl (fun fs p => addPacket p fs) x.frames
    streamsOut := x.streamsOut.map fun u => if u.number = t.number then { t with total := t.taken + t.waiting.length, waiting := [] } else u }

/-- Cuts the streams a test picks. -/
def cutStreams (f : StreamOut → Bool) (x : Port) : Port := (x.streamsOut.filter f).foldl (fun x t => cutStream t x) x

/-- Updates every port. -/
def modPorts (f : Port → Port) (s : State) : State :=
  { s with lantern := { s.lantern with ports := s.lantern.ports.map fun e => (e.1, f e.2) } }

/-- What a port that goes DOWN still has to send, in order: its frames' packets, its streams' bytes short of a frame and the packets that
wait for a stream number. -/
def waitingPackets (x : Port) : List Pkt :=
  framePackets x.frames ++ x.streamsOut.flatMap restPackets ++ x.heldOpens

end Sys2Proof.Machine
end

