-- ==== Sys2Proof/Machine/DmaOps.lean ====
section
/-! DEFINITION. The DMA engine (R156 to R161, R430, R431): the checks before a transfer, its packets, and how it ends. -/

namespace Sys2Proof.Machine

/-! Checks -/

/-- A check's failure: status and detail. -/
abbrev Check := Option (Status × Nat)

/-- Checks 2 and 3 on one operand (R157): its start, and its extent against its target region. A remote operand is
checked by its own module (check 5). -/
def checkOperand (s : State) (part addr len detail : Nat) : Check :=
  match place s addr with
  | .remote _ _ => none
  | .mem sp key =>
    if inPart s part sp key && decide (key + len ≤ regionEnd s part sp key) then none else some (.badLength, detail)
  | _ => some (.badLength, detail)

/-- A list in memory: its range, with the detail of its kind, and its poison (R157). -/
def checkList (s : State) (part addr len detail : Nat) : Check :=
  match localRange s part addr len with
  | none => some (.badLength, detail)
  | some (sp, key) => if readsPoison s sp key len then some (.poisoned, 0) else none

/-- Check 4 on the entries a walk from off to stop reaches (R157, R240). -/
def checkPages (s : State) (part : Nat) : List PageRef → Nat → Nat → Nat → Check
  | [], _, _, _ => some (.badLength, 3)
  | p :: t, start, off, stop =>
    if start % pageBytes p ≠ 0 ∨ p.page * 0x4000 % pageBytes p ≠ 0 then some (.badAlign, 0)
    else if start + pageBytes p ≤ off then checkPages s part t (start + pageBytes p) off stop
    else if !(inPart s part .hbm (p.page * 0x4000) && decide (p.page * 0x4000 + pageBytes p ≤ hbmEnd (partOf s part))) then
      some (.badLength, 3)
    else if stop ≤ start + pageBytes p then none
    else checkPages s part t (start + pageBytes p) off stop

/-- A paged operand: its list's range and poison, then its entries (R157 check 4). -/
def checkPaged (s : State) (part list entries off len : Nat) : Check :=
  match if ownPageList s part list (entries * 8) then none else checkList s part list (entries * 8) 3 with
  | some e => some e
  | none => checkPages s part (readPageList s list entries) 0 off (off + len)

/-- The indices of an index list. -/
def readIndices (s : State) (addr count : Nat) : List Nat := (List.range count).map fun i => readNum s (addr + 4 * i) 4

/-- The first failing check of several. -/
def firstOf : List Check → Check
  | [] => none
  | some e :: _ => some e
  | none :: t => firstOf t

/-- Check 2 of an operation on its operands (R157): their starts. -/
def checkStarts (s : State) (part src dst : Nat) (op : DmaOp) : Check :=
  match op with
  | .fill _ | .image _ => checkOperand s part dst 0 2
  | .pageWalk sp dp _ _ _ _ => firstOf [if sp then none else checkOperand s part src 0 1, if dp then none else checkOperand s part dst 0 2]
  | .pieces _ _ => none
  | _ => firstOf [checkOperand s part src 0 1, checkOperand s part dst 0 2]

/-- Checks 3 and 4 of an operation on its operands (R157), after an index list's own. -/
def checkExtents (s : State) (part src dst len : Nat) (op : DmaOp) : Check :=
  match op with
  | .copy => firstOf [checkOperand s part src len 1, checkOperand s part dst len 2]
  | .fill _ | .image _ => checkOperand s part dst len 2
  | .gather is e => firstOf [firstOf (is.map fun i => checkOperand s part src ((i + 1) * e) 1), checkOperand s part dst len 2]
  | .scatter is e => firstOf [checkOperand s part src len 1, firstOf (is.map fun i => checkOperand s part dst ((i + 1) * e) 2)]
  | .pageWalk sp dp sl dl se de =>
    firstOf [if sp then none else checkOperand s part src len 1, if dp then none else checkOperand s part dst len 2,
      if sp then checkPaged s part sl se src len else none, if dp then checkPaged s part dl de dst len else none]
  | .pieces _ _ => none

/-! Channels -/

/-- The unit identifier of a channel (R170). -/
def channelUnit (r c : Nat) : Nat := 0x0500 + 16 * r + c

/-- The channel a command runs on (R431): the one it names, or the in-service channel with the fewest commands; none
where it is retired. -/
def pickChannel (s : State) (r c : Nat) : Option Nat :=
  if c = 255 then
    ((List.range 16).filter fun k => !(channelOf s r k).retired).foldl (fun best k =>
      match best with
      | none => some k
      | some b => if (channelOf s r k).transfers.length < (channelOf s r b).transfers.length then some k else some b) none
  else if (channelOf s r c).retired then none
  else some c

/-- A RANGE_CHECK request for a remote operand, on P2 (R157 check 5); its answer returns ARG2, which holds the transfer's serial. -/
def rangeRequest (s : State) (r c part serial detail len : Nat) (addr : Nat) : List Pkt :=
  match place s addr with
  | .remote m a =>
    [{ type := .rangeCheck, src := ownModule s, dst := m, cls := 2, subch := 0, hops := 0, plane := planeOf a
       srcUnit := channelUnit r c, srcInc := incOf s (channelUnit r c), part := part, arg := BitVec.ofNat 64 a
       arg2 := BitVec.ofNat 64 (len % 2 ^ 40 + serial * 2 ^ 40), data := [], status := detail }]
  | _ => []

/-- The bytes an indexed operand extends over: to the end of its highest element (R157). -/
def indexedExtent (is : List Nat) (e : Nat) : Nat := (is.foldl max 0 + 1) * e

/-- The range checks a transfer asks of other modules: for its source and its destination. -/
def remoteChecks (s : State) (r c : Nat) (t : Transfer) : List Pkt :=
  let srcs := match t.op with
    | .fill _ => [] | .image _ => [] | .pieces _ _ => [] | .pageWalk true _ _ _ _ _ => []
    | .gather is e => rangeRequest s r c t.part t.serial 1 (indexedExtent is e) t.src
    | _ => rangeRequest s r c t.part t.serial 1 t.length t.src
  let dsts := match t.op with
    | .pieces _ _ => [] | .pageWalk _ true _ _ _ _ => []
    | .scatter is e => rangeRequest s r c t.part t.serial 2 (indexedExtent is e) t.dst
    | _ => rangeRequest s r c t.part t.serial 2 t.length t.dst
  srcs ++ dsts

/-! Where a byte of a transfer lies -/

/-- A transfer's place at an offset: an address with the bytes that follow it contiguously, or the failure that ends it. -/
inductive At where
  | addr (a left : Nat)
  | fail (st : Status) (detail : Nat)
  deriving DecidableEq, Repr

/-- Place of an offset in a list of (address, bytes). -/
def atPieces : List (Nat × Nat) → Nat → At
  | [], _ => .fail .badLength 3
  | p :: t, off => if off < p.2 then .addr (p.1 + off) (p.2 - off) else atPieces t (off - p.2)

/-- The place of a window offset in a page list (R159): entry i is the one the walk read, or is read now; fuel bounds the entries.
start is the window offset entry i begins at. -/
def walkTo (s : State) (part list entries off : Nat) : Nat → Nat → Nat → WalkPos → At × WalkPos
  | 0, _, _, w => (.fail .badLength 3, w)
  | n + 1, i, start, w =>
    if entries ≤ i then (.fail .badLength 3, w)
    else
      let word := (w.read[i]?).getD (readNum s (list + 8 * i) 8)
      let p := pageEntry word
      let w1 : WalkPos := if i < w.read.length then w else { read := w.read ++ [word] }
      if start % pageBytes p ≠ 0 ∨ p.page * 0x4000 % pageBytes p ≠ 0 then (.fail .badAlign 0, w1)
      else if start + pageBytes p ≤ off then walkTo s part list entries off n (i + 1) (start + pageBytes p) w1
      else if inPart s part .hbm (p.page * 0x4000) && decide (p.page * 0x4000 + pageBytes p ≤ hbmEnd (partOf s part)) then
        (.addr (p.page * 0x4000 + (off - start) + ownModule s * 2 ^ 47) (start + pageBytes p - off), w1)
      else (.fail .badLength 3, w1)

/-- The source place of an offset, and the source walk after it. -/
def srcAt (s : State) (t : Transfer) (off : Nat) : At × WalkPos :=
  match t.op with
  | .gather is e => (.addr (t.src + (is[off / e]?).getD 0 * e + off % e) (e - off % e), t.srcWalk)
  | .pageWalk true _ sl _ se _ => walkTo s t.part sl se (t.src + off) (se + 1) 0 0 t.srcWalk
  | .pieces src _ => (atPieces src off, t.srcWalk)
  | _ => (.addr (t.src + off) (t.length - off), t.srcWalk)

/-- The destination place of an offset, and the destination walk after it. -/
def dstAt (s : State) (t : Transfer) (off : Nat) : At × WalkPos :=
  match t.op with
  | .scatter is e => (.addr (t.dst + (is[off / e]?).getD 0 * e + off % e) (e - off % e), t.dstWalk)
  | .pageWalk _ true _ dl _ de => walkTo s t.part dl de (t.dst + off) (de + 1) 0 0 t.dstWalk
  | .pieces _ dst => (atPieces dst off, t.dstWalk)
  | _ => (.addr (t.dst + off) (t.length - off), t.dstWalk)

/-- Does a destination lie above an overlapping source of some bytes? -/
def overlapsUp (src dst length : Nat) : Bool := decide (src < dst) && decide (dst < src + length)

/-- Does a transfer run from its end (R431)? One whose destination lies above an overlapping local source does: by their addresses, or
by their window offsets where both are windows of one page list (log entry 125). -/
def descending (s : State) (t : Transfer) : Bool :=
  match t.op with
  | .copy => overlapsUp t.src t.dst t.length
  | .pageWalk sp dp sl dl _ _ =>
    if sp && dp && sl == dl then overlapsUp t.src t.dst t.length
    else
      match (srcAt s t 0).1, (dstAt s t 0).1 with
      | .addr a _, .addr b _ => overlapsUp a b t.length
      | _, _ => false
  | _ => false

/-- Puts a transfer on a channel, with the range checks of its remote operands. -/
def startTransfer (r c : Nat) (t : Transfer) (s : State) : State :=
  let serial := ((channelOf s r c).serial + 1) % 2 ^ 24
  let reqs := remoteChecks s r c { t with serial := serial }
  let t1 := { t with serial := serial, checks := reqs.length, down := descending s t }
  reqs.foldl (fun s p => send p s)
    (modChannel r c (fun k => { k with serial := serial, transfers := k.transfers ++ [t1] }) s)

/-- The bytes from a place up to the next aligned 512 bytes of its address, and from them down to the last: a packet holds no more, so
that two packets that touch one 128-byte line take one plane (R26, R160). -/
def roomUp (a : At) : Nat := match a with | .addr x left => min left (512 - x % 512) | .fail _ _ => 512
def roomDown (a : At) : Nat := match a with | .addr x _ => x % 512 + 1 | .fail _ _ => 512

/-- The bytes a source gives upward within its element or page, and downward within the smallest page. -/
def leftUp (a : At) : Nat := match a with | .addr _ left => left | .fail _ _ => 512
def leftDown (t : Transfer) (a : At) : Nat :=
  match t.op, a with | .pageWalk true _ _ _ _ _, .addr x _ => x % 0x4000 + 1 | _, _ => 512

/-- Offset and bytes of the next packet, at most 512 (R34, R161) and, towards a bond, within one 64 KiB segment (R332). -/
def nextPacket (s : State) (t : Transfer) : Nat × Nat :=
  let whole := min 512 (t.length - t.next)
  let want := if bondedTo s (t.dst / 2 ^ 47 % 2 ^ 17) then min whole (65536 - t.next % 65536) else whole
  if t.down then
    let last := t.length - t.next - 1
    let n := min want (min (leftDown t (srcAt s t last).1) (roomDown (dstAt s t last).1))
    (last + 1 - n, n)
  else
    let room := roomUp (dstAt s t t.next).1
    (t.next, match t.op with
      | .fill _ | .image _ => min want room
      | _ => min want (min (leftUp (srcAt s t t.next).1) room))

/-- The bytes a fill writes at an offset: the pattern, little-endian and repeated (R431). -/
def fillBytes (pattern : Word) (off n : Nat) : List Byte :=
  (List.range n).map fun i => BitVec.ofNat 8 (pattern.toNat / 256 ^ ((off + i) % 8))

/-- Starts a transfer of a buddy copy on a channel of region 0 (R385; log entry 56); with every one of them retired the copy ends. -/
def startBuddy (c : Option Cmd) (part addr : Nat) (bs : List Byte) (head : Option (Nat × List Byte)) (s : State) : State :=
  match pickChannel s 0 255 with
  | none => match c with | some c => finish c (ans .unitDark) s | none => s
  | some k =>
    startTransfer 0 k { purpose := .buddy c part head, part := part, op := .image bs, src := 0, dst := addr, length := bs.length
                        clsDst := .normal, serial := 0 } s

/-! Endings -/

/-- Bytes acknowledged contiguously from the start (R161). -/
def contiguous (done : List (Nat × Nat)) : Nat → Nat → Nat
  | 0, at_ => at_
  | n + 1, at_ =>
    match done.find? fun d => d.1 ≤ at_ && at_ < d.1 + d.2 with
    | some d => contiguous done n (d.1 + d.2)
    | none => at_

/-- The result words of a transfer (R307). -/
def transferWords (t : Transfer) : List (BitVec 32) :=
  words64 (contiguous t.done (t.done.length + 1) 0) ++ words64 (t.firstFail.getD (2 ^ 64 - 1))

/-- Frees the private pages a swapped-out sequence no longer needs (R258). -/
def dropPrivate (q : Seq) (s : State) : State := (q.pages.filter fun p => !p.shared).foldl (fun s p => dropRef p s) s

/-- A segment of a TOKEN_DISPATCH has ended (R276): with the last one, the command replies. -/
def endSegment (c : Cmd) (failed : Option (Status × Nat)) (s : State) : State :=
  match (partOf s c.part).experts.dispatches.find? fun d => d.cmd == c with
  | none => s
  | some d =>
    let d1 := { d with left := d.left - 1, failure := d.failure.or failed }
    let set := fun (ds : List Dispatch) => modPart c.part (fun p => { p with experts := { p.experts with dispatches := ds } }) s
    let all := (partOf s c.part).experts.dispatches
    if d1.left = 0 then
      finish c (match d1.failure with | some f => ans f.1 f.2 | none => { status := .ok, words := d1.words }) (set (all.erase d))
    else set (all.map fun x => if x == d then d1 else x)

/-- What the end of a transfer means for what it ran for: its command's reply, its sequence's state (R258), its layer's (R232), or its
segment's (R276). -/
def endPurpose (t : Transfer) (a : Answer) (s : State) : State :=
  let reply := fun (c : Option Cmd) (s : State) => match c with | some c => finish c a s | none => s
  match t.purpose with
  | .buddy c part head =>
    let endOf := fun (b : Answer) => match c with | some c => finish c b s | none => s
    match head with
    | some h => if t.failure.isSome then endOf (ans a.status a.detail) else startBuddy c part h.1 h.2 none s
    | none => endOf (ans a.status a.detail)
  | .command c => finish c a s
  | .dispatch c counter home n =>
    endSegment c t.failure (if t.failure.isSome then s else raiseAny t.part headUnit counter home (BitVec.ofNat 64 n) s)
  | .offload part mb layer => if t.failure.isSome then stopStep part a.status a.detail s else offloadDone part mb layer s
  | .bring part mb layer => if t.failure.isSome then stopStep part a.status a.detail s else bringDone part mb layer s
  | .swapOut c i =>
    match tget i s.serving.seqs with
    | none => reply c s
    | some q =>
      if t.failure.isSome then reply c (modSeq i (fun q => { q with state := .faulted }) s)
      else reply c (modSeq i (fun q => { q with state := .swapped }) (dropPrivate q s))
  | .swapIn c i =>
    match tget i s.serving.seqs with
    | none => reply c s
    | some _ =>
      if t.failure.isSome then reply c (modSeq i (fun q => { q with state := .faulted }) s)
      else reply c (modSeq i (fun q => { q with
        state := if q.recompute || q.prefilled < q.promptLength then .prefill else .decode, swapAddr := 0 }) s)

/-- Is a stream one of a transfer? -/
def streamOf (r c : Nat) (t : Transfer) (o : StreamOut) : Bool := o.unit == channelUnit r c && o.serial == t.serial

/-- Ends the running transfer of a channel once every issued packet is settled and nothing is left to issue (R158, R161):
the answer, and for a failure one log entry. One that failed gives its streams no more bytes. -/
def settleTransfer (r c : Nat) (s : State) : State :=
  match (channelOf s r c).transfers with
  | [] => s
  | t :: rest =>
    if t.out.isEmpty && t.checks == 0 && (t.failure.isSome || decide (t.length ≤ t.next)) then
      let st := match t.failure with | some f => f | none => (.ok, 0)
      let s1 := modPorts (freeStreams (streamOf r c t)) (modChannel r c (fun k => { k with transfers := rest, translations := [] }) s)
      let s2 := if t.failure.isSome then
          note 0x0601 (fun e => { e with status := statusCode st.1, part := t.part, source := channelUnit r c
                                         inc := incOf s (channelUnit r c), arg := BitVec.ofNat 64 (t.firstFail.getD 0) }) s1
        else s1
      endPurpose t { status := st.1, detail := st.2, words := transferWords t } s2
    else if t.failure.isSome then modPorts (cutStreams (streamOf r c t)) s
    else s

/-- Updates the running transfer of a channel. -/
def modRunning (r c : Nat) (f : Transfer → Transfer) (s : State) : State :=
  modChannel r c (fun k => { k with transfers := lmod 0 f k.transfers }) s

/-- A failure of a transfer at an offset (R161): the first in time decides the status, the lowest offset is kept. -/
def failAt (off : Nat) (st : Status) (detail : Nat) (t : Transfer) : Transfer :=
  { t with
    failure := some (t.failure.getD (st, detail))
    firstFail := some (match t.firstFail with | some o => min o off | none => off) }

/-! Issue -/

/-- The WRITE packet of a transfer's bytes: ARG2 carries the offset and the stream serial (R161, R318; log entry 22). -/
def writePacket (s : State) (r c : Nat) (t : Transfer) (addr off : Nat) (bs : List Byte) : Pkt :=
  { type := .write, src := ownModule s, dst := addr / 2 ^ 47 % 2 ^ 17, cls := 3, subch := 0, hops := 0
    plane := planeOf addr, srcUnit := channelUnit r c, srcInc := incOf s (channelUnit r c)
    part := t.part, arg := BitVec.ofNat 64 (addr % 2 ^ 47), arg2 := BitVec.ofNat 64 (off % 2 ^ 40 + t.serial * 2 ^ 40), data := bs }

/-- Is the address remote? -/
def isRemote (s : State) (addr : Nat) : Bool := match place s addr with | .remote _ _ => true | _ => false

/-- Do a transfer's bytes leave in order for consecutive addresses, as a stream's do (R318)? Those of a remote source, or for an indexed
or paged destination, are written packet by packet (log entry 22). -/
def streams (s : State) (t : Transfer) : Bool :=
  match t.op with
  | .fill _ | .image _ => true
  | .copy | .gather _ _ | .pageWalk false false _ _ _ _ => !isRemote s t.src
  | .pageWalk true false _ _ _ _ => true
  | _ => false

/-- Does a stream have to be opened before a packet to a remote destination: at the start, and under a bond at every
64 KiB segment (R318, R332)? -/
def opensStream (s : State) (t : Transfer) (addr off : Nat) : Bool :=
  isRemote s addr && streams s t && (off == 0 || (off % 65536 == 0 && bondedTo s (addr / 2 ^ 47 % 2 ^ 17)))

/-- The STREAM_OPEN packet: destination address, the byte count of the transfer or of its segment, and serial (R318, R332). -/
def openPacket (s : State) (r c : Nat) (t : Transfer) (addr off : Nat) : Pkt :=
  let n := if bondedTo s (addr / 2 ^ 47 % 2 ^ 17) then min 65536 (t.length - off) else t.length - off
  { writePacket s r c t addr off [] with
    type := .streamOpen, arg := BitVec.ofNat 64 addr, arg2 := BitVec.ofNat 64 (n % 2 ^ 40 + t.serial * 2 ^ 40) }

/-- Sends a transfer's bytes to their destination, opening a stream where one is needed. -/
def sendBytes (r c : Nat) (t : Transfer) (addr off : Nat) (bs : List Byte) (s : State) : State :=
  send (writePacket s r c t addr off bs)
    (if opensStream s t addr off then send (openPacket s r c t addr off) s else s)

/-- The entry a packet leaves in the outstanding list. -/
def issued (addr off n : Nat) (t : Transfer) : Transfer :=
  { t with out := t.out ++ [(addr, off, n)], next := t.next + n }

/-- Bytes of a range before its first poisoned unit. -/
def cleanPart (s : State) (sp : Space) (key n : Nat) : Nat :=
  match (unitsOf key n).find? fun u => (poisonOf sp s.mem).contains u || isOffline s sp (u * 64) with
  | some u => u * 64 - key
  | none => n

/-- Issues the packet at an offset whose source and destination are known (R158, R161). -/
def issueAt (r c : Nat) (t : Transfer) (off n src dst : Nat) (s : State) : State :=
  if vacantWindow s (dst % 2 ^ 47) ∧ ¬ isRemote s dst then settleTransfer r c (modRunning r c (failAt off .unitDark 0) s)
  else
    match t.op with
    | .fill p => sendBytes r c t dst off (fillBytes p off n) (modRunning r c (issued dst off n) s)
    | .image bs => sendBytes r c t dst off ((bs.drop off).take n) (modRunning r c (issued dst off n) s)
    | _ =>
      match place s src with
      | .mem sp key =>
        let m := cleanPart s sp key n
        let s0 := accessSpace t.part sp key n false t.clsSrc s
        let s1 := if m = 0 then s0
          else sendBytes r c t dst off (mreadN key m (cellsOf sp s.mem)) (modRunning r c (issued dst off m) s0)
        if m < n then settleTransfer r c (modRunning r c (failAt (off + m) .poisoned 0) s1) else s1
      | .remote _ a =>
        send { writePacket s r c t src off [] with
                type := .readReq, arg := BitVec.ofNat 64 a, data := toLe 4 n }
          (modRunning r c (fun t => { issued dst off n t with reads := t.reads ++ [off] }) s)
      | _ => settleTransfer r c (modRunning r c (failAt off (if vacantWindow s (src % 2 ^ 47) then .unitDark else .badLength) 1) s)

/-- Does the transfer wait for a tile boundary of the accumulator memory it reads (R144)? -/
def waitsForTile (s : State) (src : Nat) : Bool :=
  match place s src with
  | .mem .acc key => tileRunning s (key / 0x20000)
  | _ => false

/-- The page-list entries two walks have read past what they had, as (address, entry) (R159). -/
def walkReads (t : Transfer) (src dst : WalkPos) : List (Nat × Nat) :=
  let new := fun (list : Nat) (before after : WalkPos) =>
    (after.read.zipIdx.drop before.read.length).map fun e => (list + 8 * e.2, e.1)
  match t.op with
  | .pageWalk _ _ sl dl _ _ => new sl t.srcWalk src ++ new dl t.dstWalk dst
  | _ => []

/-- Issues a channel's next packet (R158): nothing while it pauses, waits for range checks, holds 4,096 unacknowledged
packets, has failed, or has nothing left. -/
def issueNext (r c : Nat) (s : State) : State :=
  match (channelOf s r c).transfers with
  | [] => s
  | t :: _ =>
    if t.paused || t.checks != 0 || t.failure.isSome || decide (4096 ≤ t.out.length) || decide (t.length ≤ t.next) then s
    else
      let k := nextPacket s t
      let a := srcAt s t k.1
      let b := dstAt s t k.1
      let s1 := modRunning r c (fun t => { t with srcWalk := a.2, dstWalk := b.2 })
        (modChannel r c (fun k => { k with translations := (k.translations ++ walkReads t a.2 b.2).reverse.take 8 |>.reverse }) s)
      match t.op, a.1, b.1 with
      | .fill _, _, .addr dst _ | .image _, _, .addr dst _ => issueAt r c t k.1 k.2 0 dst s1
      | _, .addr src _, .addr dst _ => if waitsForTile s src then s else issueAt r c t k.1 k.2 src dst s1
      | _, .fail st d, _ => settleTransfer r c (modRunning r c (failAt k.1 st d) s1)
      | _, _, .fail st d => settleTransfer r c (modRunning r c (failAt k.1 st d) s1)

/-! Answers to a channel -/

/-- A channel by its unit identifier. -/
def channelOfUnit (u : Nat) : Nat × Nat := ((u - 0x0500) / 16, (u - 0x0500) % 16)

def isChannel (u : Nat) : Bool := 0x0500 ≤ u && u < 0x0580

/-- The byte count of an answer's ARG2 (R316). -/
def argCount (p : Pkt) : Nat := p.arg2.toNat % 2 ^ 40

/-- Does an answer name an outstanding packet, by its address and offset? -/
def names (p : Pkt) (e : Nat × Nat × Nat) : Bool := e.1 % 2 ^ 47 == p.arg.toNat && e.2.1 == argCount p

/-- Settles the packets an acknowledgement covers: the one its address and offset name, or, for a stream's cumulative answer (marked by
status 1), those of its contiguous bytes from the stream's start on (R158, R318; log entry 22). -/
def ackSettles (p : Pkt) (e : Nat × Nat × Nat) : Bool :=
  if p.status = 1 then
    decide (p.arg.toNat ≤ e.1 % 2 ^ 47) && decide (e.1 % 2 ^ 47 + e.2.2 ≤ p.arg.toNat + argCount p)
  else names p e

/-- The packets a refusal names: the one of its address and offset, or, of a stream, those of the refused range (R161, R318). -/
def refusalNames (p : Pkt) (e : Nat × Nat × Nat) : Bool :=
  if p.data.length = 2 then
    decide (p.arg.toNat < e.1 % 2 ^ 47 + e.2.2) && decide (e.1 % 2 ^ 47 < p.arg.toNat + leNat p.data)
  else names p e

/-- Frees the number of a stream whose last byte a cumulative answer acknowledges (R318). -/
def ackStream (p : Pkt) (s : State) : State :=
  if p.status = 1 then
    modPorts (freeStreams fun o =>
      o.unit == p.dstUnit && o.serial == argSerial p && o.start % 2 ^ 47 == p.arg.toNat && decide (o.total ≤ argCount p)) s
  else s

/-- An answer with the serial of no transfer of its channel, or of one that does not run yet, is dropped and counted (R161). -/
def dropAnswer (r c : Nat) (s : State) : State := modChannel r c (fun k => { k with staleDrops := k.staleDrops + 1 }) s

/-- The transfer of a channel that an answer's serial names, with its place in the channel's queue. -/
def answered (s : State) (r c : Nat) (p : Pkt) : Option (Transfer × Nat) :=
  (channelOf s r c).transfers.zipIdx.find? fun e => e.1.serial == argSerial p

/-- An acknowledgement reaches its channel (R157 check 5, R158): of a range check while its transfer waits for some, else of a packet. -/
def ackChannel (p : Pkt) (s : State) : State :=
  let k := channelOfUnit p.dstUnit
  match answered s k.1 k.2 p with
  | none => dropAnswer k.1 k.2 s
  | some (t, i) =>
    if t.checks ≠ 0 then
      settleTransfer k.1 k.2 (modChannel k.1 k.2 (fun c => { c with transfers := lmod i (fun t => { t with checks := t.checks - 1 }) c.transfers }) s)
    else if i ≠ 0 then dropAnswer k.1 k.2 s
    else
      settleTransfer k.1 k.2 (modRunning k.1 k.2 (fun t => { t with
        out := t.out.filter fun e => !ackSettles p e
        done := t.done ++ (t.out.filter (ackSettles p)).map fun e => e.2 }) (ackStream p s))

/-- The status a refusal carries; a refusal that names none is a refused write (R161). -/
def refusalStatus (p : Pkt) : Status × Nat :=
  if p.status = 0 then (.remoteWriteFailed, 0) else (statusOf (p.status % 2 ^ 16), p.status / 2 ^ 16)

/-- What a refused packet's transfer ends with (R161): a refused write ST_REMOTE_WRITE_FAILED, or ST_UNIT_DARK where a local
destination's core has gone dark; a refused read what its refusal carries. -/
def failureOf (s : State) (t : Transfer) (off : Nat) (p : Pkt) : Status × Nat :=
  if t.reads.contains off then refusalStatus p
  else if p.src = ownModule s ∧ (refusalStatus p).1 = .unitDark then (.unitDark, 0)
  else (.remoteWriteFailed, 0)

/-- A refusal reaches its channel (R157 check 5, R161). -/
def refuseChannel (p : Pkt) (s : State) : State :=
  let k := channelOfUnit p.dstUnit
  match answered s k.1 k.2 p with
  | none => dropAnswer k.1 k.2 s
  | some (t, i) =>
    if t.checks ≠ 0 then
      let st := refusalStatus p
      endPurpose { t with failure := some st } { status := st.1, detail := st.2, words := transferWords t }
        (modChannel k.1 k.2 (fun c => { c with transfers := c.transfers.eraseIdx i }) s)
    else if i ≠ 0 then dropAnswer k.1 k.2 s
    else
      let es := t.out.filter (refusalNames p)
      if es.isEmpty then dropAnswer k.1 k.2 s
      else
        settleTransfer k.1 k.2 (modRunning k.1 k.2 (fun t => es.foldl (fun t e =>
          let st := failureOf s t e.2.1 p
          failAt e.2.1 st.1 st.2 { t with out := t.out.erase e, reads := t.reads.erase e.2.1 }) t) s)

/-- An answer packet to a sender: ACK, or REFUSAL with a status (R160, R161, R162). -/
def replyTo (s : State) (p : Pkt) (type : PktType) (status : Nat) : Pkt :=
  { type := type, src := ownModule s, dst := p.src, cls := 2, subch := 0, hops := 0, plane := p.plane, srcUnit := 0
    srcInc := 0, part := p.part, arg := p.arg, arg2 := p.arg2, data := [], dstUnit := p.srcUnit, status := status }

/-- Is an HBM address in the buddy area (R383)? -/
def inBuddyArea (s : State) (sp : Space) (key : Nat) : Bool :=
  sp == .hbm && decide (s.pkg.buddyBase.toNat ≤ key) && decide (key < s.pkg.buddyBase.toNat + s.pkg.buddySize * 2 ^ 30)

/-- Is the packet's sender the buddy partner (R383)? -/
def fromPartner (s : State) (p : Pkt) : Bool :=
  s.pkg.buddyPartner.getLsbD 31 && s.pkg.buddyPartner.toNat % 2 ^ 17 == p.src

/-! Streams of other modules (R318) -/

/-- The local address a stream's write counts from. -/
def streamBase (p : Pkt) : Nat := p.arg.toNat - writeOff p

/-- Is this the record of a stream's write? -/
def sameInbound (p : Pkt) (i : Inbound) : Bool :=
  i.src == p.src && i.unit == p.srcUnit && i.serial == argSerial p && i.start == streamBase p

/-- Is this record of the sender's channel older than its packet's transfer? -/
def olderInbound (p : Pkt) (i : Inbound) : Bool :=
  i.src == p.src && i.unit == p.srcUnit && i.serial != argSerial p && decide ((argSerial p + 2 ^ 24 - i.serial) % 2 ^ 24 < 2 ^ 23)

/-- A stream's record once some of its bytes are settled: the contiguous part, and what lies beyond it. -/
def inboundAfter (p : Pkt) (s : State) : Inbound :=
  let old := ((s.lantern.inbound.find? (sameInbound p)).map (·.settled)).getD []
  let all := old ++ [(writeOff p, p.data.length)]
  let n := contiguous all (all.length + 1) 0
  { src := p.src, unit := p.srcUnit, serial := argSerial p, start := streamBase p
    settled := (0, n) :: all.filter fun e => n < e.1 + e.2 }

/-- Counts a stream's bytes as settled; records of the channel's earlier transfers go. -/
def settleInbound (p : Pkt) (s : State) : State :=
  { s with lantern := { s.lantern with
      inbound := inboundAfter p s :: s.lantern.inbound.filter fun i => !sameInbound p i && !olderInbound p i } }

/-- ARG2 of a stream's answer: the bytes settled contiguously from its start, and its serial (R316, R318). -/
def streamCount (p : Pkt) (s : State) : BitVec 64 :=
  BitVec.ofNat 64 (((inboundAfter p s).settled.headD (0, 0)).2 % 2 ^ 40 + argSerial p * 2 ^ 40)

/-- Acknowledges a DMA write, a stream's by its count from its start (R158, R318); a posted store has no acknowledgement (R162). -/
def ackWrite (p : Pkt) (s : State) : State :=
  if isChannel p.srcUnit then
    if p.status = 1 then
      send { replyTo s p .ack 1 with arg := BitVec.ofNat 64 (streamBase p), arg2 := streamCount p s } (settleInbound p s)
    else send (replyTo s p .ack 0) s
  else s

/-- The allocation class a packet's bytes take at their destination: the DMA command's for a channel of this module, else NORMAL
(R147, R308; log entry 122). -/
def packetClass (s : State) (p : Pkt) : AllocClass :=
  if p.src = ownModule s ∧ isChannel p.srcUnit then
    let k := channelOfUnit p.srcUnit
    match (channelOf s k.1 k.2).transfers.find? fun t => t.serial == argSerial p with
    | some t => t.clsDst
    | none => .normal
  else .normal

/-- A refusal of a write: a DMA write is refused as one, or for its dark unit; a store's refusal names its cause (R161, R162). -/
def refuseWrite (p : Pkt) (status : Nat) (s : State) : State :=
  let r := replyTo s p .refusal (if isChannel p.srcUnit && status != 0x80 then 0x45 else status)
  if isChannel p.srcUnit && p.status == 1 then
    send { r with arg2 := streamCount p s, data := toLe 2 p.data.length } (settleInbound p s)
  else send r s

/-- A write packet at its home (R145, R160, R430): stored whole, merged and refused on a poisoned unit written in part, refused
on an offline span. badLine says that a partial-line merge there read an uncorrectable line (R187, R430). -/
def writeHome (p : Pkt) (sp : Space) (key : Nat) (badLine : Bool) (s : State) : State :=
  let s1 := accessSpace p.part sp key p.data.length true (packetClass s p) (writeSpace sp key p.data s)
  if badLine && sp == .hbm then refuseWrite p 0x45 (correctHbm key s1)
  else if writeRefused s sp key p.data.length then refuseWrite p 0x45 s1
  else ackWrite p s1

/-- Is the packet's sender a keeper or the head keeper of this module (R170)? -/
def fromKeeper (s : State) (p : Pkt) : Bool := p.src == ownModule s && decide (0x400 ≤ p.srcUnit ∧ p.srcUnit ≤ 0x410)

/-- Does a core issue nothing (R38)? -/
def issuesNothing (s : State) (p : Nat) : Bool :=
  let c := coreOf s p
  c.tiles.isEmpty && c.work.isEmpty && c.tileWait.isNone && (brushJobOf s p).isNone

/-- The palette a keeper's maintenance access reaches through a physical window (R38, R150). -/
def maintenanceKey (s : State) (a : Nat) : Option Nat :=
  let core := (a - 0x13000000000) / 0x200000
  if 0x13000000000 ≤ a ∧ core < 864 ∧ (a - 0x13000000000) % 0x200000 < paletteBytes ∧ issuesNothing s core then
    some (core * 0x200000 + (a - 0x13000000000) % 0x200000)
  else none

/-- May a packet reach a place for some bytes: its partition holds the place, or the sender is a keeper (R144, R152)? -/
def reaches (s : State) (p : Pkt) (sp : Space) (key n : Nat) : Bool :=
  (fromKeeper s p || inPart s p.part sp key) && decide (key + n ≤ (if fromKeeper s p && sp == .hbm then hbmTop else regionEnd s p.part sp key))

/-- Holds an access to an accumulator memory back until its core's tile completes (R144). -/
def holdAcc (p : Pkt) (key : Nat) (s : State) : State :=
  modCore (key / 0x20000) (fun c => { c with accWaits := c.accWaits ++ [(key, p.data, p)] }) s

/-- A write packet arrives (R144, R150, R152, R160, R383). -/
def writeArrives (p : Pkt) (badLine : Bool) (s : State) : State :=
  match placeLocal s p.arg.toNat with
  | .mem sp key =>
    if inBuddyArea s sp key then
      if p.src = ownModule s ∨ fromPartner s p then writeHome p sp key badLine s else refuseWrite p 0x45 (setErr 6 s)
    else if reaches s p sp key p.data.length then
      if sp = .acc ∧ tileRunning s (key / 0x20000) then holdAcc p key s else writeHome p sp key badLine s
    else refuseWrite p 0x42 s
  | _ =>
    match if fromKeeper s p then maintenanceKey s p.arg.toNat else none with
    | some key => writeHome p .palette key badLine s
    | none => refuseWrite p (if vacantWindow s p.arg.toNat then 0x80 else 0x11) s

/-- The bytes a read request asks for: four length bytes of data from a channel, ARG2 from a core (log entry 22). -/
def requestLength (p : Pkt) : Nat := if p.data.isEmpty then p.arg2.toNat % 2 ^ 40 else leNat p.data

/-- Answers a read request with its data, marked poisoned where they are (R316). -/
def readHome (p : Pkt) (sp : Space) (key : Nat) (s : State) : State :=
  let n := requestLength p
  sendPieces { replyTo s p .readData (if readsPoison s sp key n then 0x44 else 0) with data := mreadN key n (cellsOf sp s.mem), cls := 3 }
    (accessSpace p.part sp key n false .normal s)

/-- A read request arrives (R144, R150, R152, R316). -/
def readArrives (p : Pkt) (s : State) : State :=
  match placeLocal s p.arg.toNat with
  | .mem sp key =>
    if reaches s p sp key (requestLength p) then
      if sp = .acc ∧ tileRunning s (key / 0x20000) then holdAcc p key s else readHome p sp key s
    else send (replyTo s p .refusal 0x42) s
  | _ =>
    match if fromKeeper s p then maintenanceKey s p.arg.toNat else none with
    | some key => readHome p .palette key s
    | none => send (replyTo s p .refusal (if vacantWindow s p.arg.toNat then 0x80 else 0x11)) s

/-- Applies one access that waited for a tile boundary (R144). -/
def applyHeldAccess (w : Nat × List Byte × Pkt) (s : State) : State :=
  if w.2.2.type = .readReq then readHome w.2.2 .acc w.1 s
  else if isChannel w.2.2.srcUnit ∨ w.2.2.src ≠ ownModule s then writeHome w.2.2 .acc w.1 false s
  else homeStore w.2.2.srcUnit w.2.2.part w.2.2.arg.toNat .acc w.1 w.2.1 false s

/-- Answers the fence probes that waited for an access (R185). -/
def answerAfter (p : Pkt) (s : State) : State :=
  let u : UnitId := ⟨p.src, p.srcUnit, p.srcInc⟩
  (((s.probes.filter fun x => x.1 == u).map (·.2.1)).eraseDups).foldl (fun s d => answerProbes u p.part d s) s

/-- Applies the accesses that waited for a tile boundary, in order, and answers the fences that waited for them (R144, R185). -/
def drainAccWaits (core : Nat) (s : State) : State :=
  let ws := (coreOf s core).accWaits
  let s1 := ws.foldl (fun s w => applyHeldAccess w s) (modCore core (fun c => { c with accWaits := [] }) s)
  ws.foldl (fun s w => answerAfter w.2.2 s) s1

end Sys2Proof.Machine
end

