-- ==== Sys2Proof/Machine/Special.lean ====
section
/-! DEFINITION. The accuracy of the special functions (R108): the true value of each as a number of 160 fraction bits, and the test that
a result lies within so many units in the last place of it. Log entry 6. -/

namespace Sys2Proof.Machine

/-! Fixed point with 160 fraction bits. Every finite FP32 value up to 2^20 in magnitude is exact in it. -/

def fxOne : Int := 2 ^ 160
def fxMul (a b : Int) : Int := a * b / fxOne

/-- A rational in fixed point. -/
def fxOf (q : Q) : Int := q.num * fxOne / q.den

/-- A fixed-point number as a rational. -/
def fxQ (a : Int) : Q := ⟨a, 2 ^ 160⟩

/-- The sum of n + 1 terms: the first, and each next one made from the one before and its number from 1. -/
def series (step : Nat → Int → Int) (n : Nat) (first : Int) : Int :=
  ((List.range n).foldl (fun (a : Int × Int) k => let t := step (k + 1) a.1; (t, a.2 + t)) (first, first)).2

/-- e^z for |z| at most 1. -/
def fxExp (z : Int) : Int := series (fun k t => fxMul t z / k) 60 fxOne

/-- Σ of t·u^k / (2k + 1), u at most 1/4 in magnitude: the arc tangent and its hyperbolic kin. -/
def fxAtanLike (t u : Int) : Int :=
  ((List.range 90).foldl (fun (a : Int × Int) k => (fxMul a.1 u, a.2 + a.1 / (2 * k + 1))) (t, 0)).2

/-- ln 2 = 2 artanh 1/3, and π = 16 arctan 1/5 − 4 arctan 1/239. -/
def fxLn2 : Int := 2 * fxAtanLike (fxOne / 3) (fxOne / 9)
def fxPi : Int := 16 * fxAtanLike (fxOne / 5) (-(fxOne / 25)) - 4 * fxAtanLike (fxOne / 239) (-(fxOne / 57121))

/-- √π. -/
def fxSqrtPi : Int := isqrt (fxPi.toNat * 2 ^ 160)

/-- A rational times a power of two. -/
def Q.scale (q : Q) (n : Int) : Q := if 0 ≤ n then ⟨q.num * 2 ^ n.toNat, q.den⟩ else ⟨q.num, q.den * 2 ^ (-n).toNat⟩

/-- 2^x of a fixed-point exponent; below −240 it is smaller than any FP32 value's half. -/
def exp2Q (x : Int) : Q := if x < -240 * fxOne then ⟨1, 2 ^ 240⟩ else (fxQ (fxExp (fxMul (x % fxOne) fxLn2))).scale (x / fxOne)

/-- e^x of a fixed-point exponent. -/
def expQ (x : Int) : Q := exp2Q (x * fxOne / fxLn2)

/-- log2 of a positive m·2^e: the part beside the whole exponent is taken between 3/4 and 3/2. -/
def log2Q (m : Nat) (e : Int) : Q :=
  let l := Nat.log2 m
  let big := decide (3 * 2 ^ l ≤ 2 * m)
  let y : Int := (m : Int) * fxOne / 2 ^ (if big then l + 1 else l)
  let t := (y - fxOne) * fxOne / (y + fxOne)
  (Q.ofInt (e + l + (if big then 1 else 0))).add (fxQ (2 * fxAtanLike t (fxMul t t) * fxOne / fxLn2))

/-- 1 / √(m·2^e). -/
def rsqQ (m : Nat) (e : Int) : Q :=
  let m' := if e % 2 = 0 then m else m * 2
  let h : Int := (if e % 2 = 0 then e else e - 1) / 2
  (Q.mk (isqrt (2 ^ 240 / m')) (2 ^ 120)).scale (-h)

/-- tanh: x − x³/3 + 2x⁵/15 for small x, else by e^2x; from 64 on it is closer to ±1 than the bound sees. -/
def tanhQ (q : Q) : Q :=
  let neg := decide (q.num < 0)
  let a : Q := ⟨q.num.natAbs, q.den⟩
  let v :=
    if a.lt ⟨1, 2 ^ 20⟩ then (a.sub ((a.pow 3).div (Q.ofInt 3))).add (((a.pow 5).mul (Q.ofInt 2)).div (Q.ofInt 15))
    else if a.lt (Q.ofInt 64) then
      let e := expQ (2 * fxOf a)
      (e.sub (Q.ofInt 1)).div (e.add (Q.ofInt 1))
    else ⟨2 ^ 160 - 1, 2 ^ 160⟩
  if neg then v.neg else v

/-- 1 / (1 + e^−x); below −200 it is smaller than any FP32 value's half. -/
def sigmQ (q : Q) : Q :=
  if q.lt (Q.ofInt (-200)) then ⟨1, 2 ^ 280⟩
  else if (Q.ofInt 200).lt q then ⟨2 ^ 160 - 1, 2 ^ 160⟩
  else
    let e := expQ (fxOf q)
    e.div ((Q.ofInt 1).add e)

/-- erf by its power series with x taken out; from 6 on it is closer to ±1 than the bound sees. -/
def erfQ (q : Q) : Q :=
  let neg := decide (q.num < 0)
  let a : Q := ⟨q.num.natAbs, q.den⟩
  if a.lt (Q.ofInt 6) then
    let x := fxOf a
    let u := fxMul x x
    let g := ((List.range 200).foldl (fun (s : Int × Int) k => (-(fxMul s.1 u) / (k + 1 : Nat), s.2 + s.1 / (2 * k + 1 : Nat))) (fxOne, 0)).2
    q.mul ((fxQ (2 * g)).div (fxQ fxSqrtPi))
  else if neg then ⟨-(2 ^ 60 - 1), 2 ^ 60⟩ else ⟨2 ^ 60 - 1, 2 ^ 60⟩

/-- sin and cos of a reduced argument, at most π/4 in magnitude. -/
def sinFx (r : Int) : Q := (fxQ r).mul (fxQ (series (fun k t => -(fxMul t (fxMul r r)) / ((2 * k) * (2 * k + 1) : Nat)) 40 fxOne))
def cosFx (r : Int) : Q := fxQ (series (fun k t => -(fxMul t (fxMul r r)) / ((2 * k - 1) * (2 * k) : Nat)) 40 fxOne)

/-- sin and cos of a rational up to 2^20 in magnitude: the nearest multiple of π/2 taken off, and the quadrant it leaves. -/
def trigQ (q : Q) (quarter : Int) : Q :=
  let x := fxOf q
  let n := (2 * x + fxPi / 2) / fxPi
  let r := x - n * fxPi / 2
  match ((n + quarter) % 4).toNat with
  | 0 => sinFx r
  | 1 => cosFx r
  | 2 => (sinFx r).neg
  | _ => (cosFx r).neg

/-! Units in the last place -/

/-- Does an FP32 result lie within n ulp of a value? An ulp is that of the value's own binade, at least the least subnormal. -/
def nearUlp (n : Nat) (v : Q) (x : Lane) : Bool :=
  match Q.ofLane x with
  | none => false
  | some y =>
    let e : Int := if v.num = 0 then -149 else max (-149) (floorLog2 v.num.natAbs v.den - 23)
    let d := y.sub v
    !((Q.ofInt n).scale e).lt ⟨d.num.natAbs, d.den⟩

/-- The result of a special function whose fixed algorithm is not given (R108): a free one within the function's bound, else the rounded
value. -/
def special (n : Nat) (v : Q) (free : Lane) : Lane := if nearUlp n v free then free else v.round32

end Sys2Proof.Machine
end

