-- ==== Sys2Proof/Machine/BrushOps.lean ====
section
/-! DEFINITION. The brush unit's shared operations (R71 to R73, R105 to R112): lanes, predicates, palette and accumulator
access by lane, draws, and the element functions of each instruction group. -/

namespace Sys2Proof.Machine

/-- Lane i of a vector register. -/
def vlane (b : Brush) (r i : Nat) : Lane := ((tgetD r [] b.v)[i]?).getD 0

/-- Is lane i active under an optional predicate register (R106)? -/
def laneOn (b : Brush) (pred : Option Nat) (i : Nat) : Bool :=
  match pred with
  | some p => (tgetD p 0 b.p).getLsbD i
  | none => true

def sreg (b : Brush) (r : Nat) : Word := tgetD r 0 b.sr

def modBrush (core : Nat) (f : Brush → Brush) (s : State) : State := modCore core (fun c => { c with brush := f c.brush }) s

/-- A register with its active lanes replaced (R106). -/
def putLanes (b : Brush) (dst : Nat) (pred : Option Nat) (f : Nat → Lane) : Brush :=
  { b with v := tput dst ((List.range 256).map fun i => if laneOn b pred i then f i else vlane b dst i) b.v }

/-- An instruction that computes each active lane from the brush registers. -/
def laneOp (o : VOp) (s : State) (f : Brush → Nat → Lane) : Result :=
  onCore o.core s fun c => modBrush o.core (fun b => putLanes b o.dst o.pred (f c.brush)) s

/-- A free lane value (log entry 5); the instructions that may need one advance the counter past all 256. -/
def freeLane (s : State) (i : Nat) : Lane := (Config.freeWord (s.free + i)).truncate 32

def skipFree (s : State) : State := { s with free := s.free + 256 }

/-! BF16 lanes (R106): two per lane, computed in FP32 and rounded to BF16. -/

def bf16Lo (x : Lane) : FVal := decodeF bf16 (x.toNat % 2 ^ 16)
def bf16Hi (x : Lane) : FVal := decodeF bf16 (x.toNat / 2 ^ 16)
def packBf16 (lo hi : FVal) : Lane :=
  BitVec.ofNat 32 (roundBf16 (val32 (round32 lo)) + roundBf16 (val32 (round32 hi)) * 2 ^ 16)

/-- A one-operand arithmetic lane. -/
def arith1 (bf : Bool) (f : FVal → FVal) (a : Lane) : Lane :=
  if bf then packBf16 (f (bf16Lo a)) (f (bf16Hi a)) else round32 (f (val32 a))

/-- A two-operand arithmetic lane. -/
def arith2 (bf : Bool) (f : FVal → FVal → FVal) (a b : Lane) : Lane :=
  if bf then packBf16 (f (bf16Lo a) (bf16Lo b)) (f (bf16Hi a) (bf16Hi b)) else round32 (f (val32 a) (val32 b))

/-- A fused multiply-add lane. -/
def arith3 (bf : Bool) (a b c : Lane) : Lane :=
  let f := fun (x y z : FVal) => addV (mulV x y) z
  if bf then packBf16 (f (bf16Lo a) (bf16Lo b) (bf16Lo c)) (f (bf16Hi a) (bf16Hi b) (bf16Hi c))
  else round32 (f (val32 a) (val32 b) (val32 c))

def isNegV : FVal → Bool
  | .fin n _ _ => n
  | .inf n => n
  | .nan => false

/-- The larger of two values: a NaN operand gives NaN (R57), and +0 is above −0 (log entry 30). -/
def maxV (a b : FVal) : FVal :=
  if a = .nan ∨ b = .nan then .nan
  else if ltV a b then b else if ltV b a then a else if isNegV a then b else a

def minV (a b : FVal) : FVal :=
  if a = .nan ∨ b = .nan then .nan
  else if ltV a b then a else if ltV b a then b else if isNegV a then a else b

/-- A compare condition of values; unordered operands meet only NE. -/
def condV (k : CmpCond) (a b : FVal) : Bool :=
  match k with
  | .eq => eqV a b | .ne => !(eqV a b) | .lt => ltV a b | .le => ltV a b || eqV a b | .gt => ltV b a | .ge => ltV b a || eqV a b

/-- A compare condition of 32-bit two's complement lanes. -/
def condI (k : CmpCond) (a b : Lane) : Bool :=
  match k with
  | .eq => a == b | .ne => a != b | .lt => a.slt b | .le => a.slt b || a == b | .gt => b.slt a | .ge => b.slt a || a == b

/-- The class flags of a lane (R111): bit 0 zero, 1 subnormal, 2 Inf, 3 NaN (log entry 31). -/
def classOf (x : Lane) : Lane :=
  match val32 x with
  | .nan => 8
  | .inf _ => 4
  | .fin _ m _ => if m = 0 then 1 else if m < 2 ^ 23 then 2 else 0

/-! Special functions (R108): the listed cases, else the one fixed algorithm, which the spec does not give, within its maximum error of
the true value. -/

def posInf32 : Lane := BitVec.ofNat 32 (infCode fp32 false false)
def negInf32 : Lane := BitVec.ofNat 32 (infCode fp32 false true)
def nan32 : Lane := BitVec.ofNat 32 (nanCode fp32)
def one32 (neg : Bool) : Lane := if neg then 0xBF800000 else 0x3F800000

def exp2Lane (x : Lane) : Lane :=
  match val32 x with
  | .nan => nan32
  | .inf neg => if neg then 0 else posInf32
  | .fin neg m e => if !neg && !(ltV (.fin neg m e) (.fin false 128 0)) then posInf32 else special 1 (exp2Q (fxOf (.ofMant neg m e))) (Config.vexp2 x)

def log2Lane (x : Lane) : Lane :=
  match val32 x with
  | .nan => nan32
  | .inf neg => if neg then nan32 else posInf32
  | .fin neg m e => if m = 0 then negInf32 else if neg then nan32 else special 1 (log2Q m e) (Config.vlog2 x)

def rcpLane (x : Lane) : Lane :=
  match val32 x with
  | .nan => nan32
  | .inf neg => BitVec.ofNat 32 (signBit fp32 neg)
  | .fin neg m e =>
    if m = 0 then BitVec.ofNat 32 (infCode fp32 false neg) else special 1 ((Q.ofInt 1).div (.ofMant neg m e)) (Config.vrcp x)

def rsqLane (x : Lane) : Lane :=
  match val32 x with
  | .nan => nan32
  | .inf neg => if neg then nan32 else 0
  | .fin neg m e =>
    if m = 0 then BitVec.ofNat 32 (infCode fp32 false neg) else if neg then nan32 else special 2 (rsqQ m e) (Config.vrsq x)

def tanhLane (x : Lane) : Lane :=
  match val32 x with
  | .nan => nan32
  | .inf neg => one32 neg
  | .fin neg m e => special 2 (tanhQ (.ofMant neg m e)) (Config.vtanh x)

def sigmLane (x : Lane) : Lane :=
  match val32 x with
  | .nan => nan32
  | .inf neg => if neg then 0 else one32 false
  | .fin neg m e => special 2 (sigmQ (.ofMant neg m e)) (Config.vsigm x)

def erfLane (x : Lane) : Lane :=
  match val32 x with
  | .nan => nan32
  | .inf neg => one32 neg
  | .fin neg m e => special 2 (erfQ (.ofMant neg m e)) (Config.verf x)

/-- Is a magnitude at most 2^20, where the bound of sin and cos holds? -/
def trigBound (m : Nat) (e : Int) : Bool := !(ltV (.fin false 1 20) (.fin false m e))

def sinLane (x : Lane) : Lane :=
  match val32 x with
  | .fin neg m e => if trigBound m e then special 2 (trigQ (.ofMant neg m e) 0) (Config.vsin x) else Config.vsin x
  | _ => nan32

def cosLane (x : Lane) : Lane :=
  match val32 x with
  | .fin neg m e => if trigBound m e then special 2 (trigQ (.ofMant neg m e) 1) (Config.vcos x) else Config.vcos x
  | _ => nan32

/-! Reductions (R112): one fixed tree, lane 2i with 2i + 1, then upward. -/

/-- One level of the tree. -/
def treePass {α : Type} (f : α → α → α) : List α → List α
  | a :: b :: t => f a b :: treePass f t
  | l => l

/-- Eight levels reduce 256 lanes to one. -/
def treeReduce {α : Type} (f : α → α → α) (d : α) (l : List α) : α :=
  ((treePass f (treePass f (treePass f (treePass f (treePass f (treePass f (treePass f (treePass f l)))))))).head?).getD d

/-- The lanes a reduction takes, an inactive one entering as the neutral value. -/
def reduceLanes (b : Brush) (o : VOp) (neutral : Lane) : List Lane :=
  (List.range 256).map fun i => if laneOn b o.pred i then vlane b o.a i else neutral

/-- A reduction's result goes to scalar register DST (log entry 31). -/
def reduceOp (o : VOp) (s : State) (f : Brush → Nat) : Result :=
  onCore o.core s fun c => setScalar o.core o.dst (BitVec.ofNat 64 (f c.brush)) s

def sumTree (l : List Lane) : Lane := treeReduce (fun a b => round32 (addV (val32 a) (val32 b))) 0 l
def maxTree (l : List Lane) : Lane := treeReduce (fun a b => round32 (maxV (val32 a) (val32 b))) 0 l
def minTree (l : List Lane) : Lane := treeReduce (fun a b => round32 (minV (val32 a) (val32 b))) 0 l

/-- The largest top exponent of the active lanes, −32,768 when no lane is finite and nonzero (R59, R61). -/
def maxExp (b : Brush) (o : VOp) : Int :=
  (List.range 256).foldl (fun m i =>
    if laneOn b o.pred i then (match topExp 0 127 (val32 (vlane b o.a i)) with | some t => max m t | none => m) else m) (-32768)

/-! Palette and accumulator access by lane (R111, R144) -/

/-- Little-endian 32-bit word at a palette offset of a core; none where it is not wholly in the palette. -/
def palWord (s : State) (core off : Nat) : Option Lane :=
  if off + 4 ≤ paletteBytes then some (BitVec.ofNat 32 (leNat (mreadN (core * 0x200000 + off) 4 s.mem.palette))) else none

/-- Bytes written to a core's palette; those past its end are not. -/
def palWrite (core off : Nat) (bs : List Byte) (s : State) : State :=
  if off + bs.length ≤ paletteBytes then writeSpace .palette (core * 0x200000 + off) bs s else s

/-- The same for the accumulator memory. -/
def accWord (s : State) (core off : Nat) : Option Lane :=
  if off + 4 ≤ accBytes then some (BitVec.ofNat 32 (leNat (mreadN (core * 0x20000 + off) 4 s.mem.acc))) else none

def accWrite (core off : Nat) (bs : List Byte) (s : State) : State :=
  if off + bs.length ≤ accBytes then writeSpace .acc (core * 0x20000 + off) bs s else s

/-- A load of each active lane's word; a word outside the memory is a free value (log entry 32). A poisoned palette word
ends the program's command with ST_POISONED (R143, R367). -/
def loadLanes (o : VOp) (addr : Brush → Nat → Nat) (s : State) : Result :=
  onCore o.core s fun c =>
    let b := c.brush
    let bad := (List.range 256).any fun i =>
      laneOn b o.pred i && decide (addr b i + 4 ≤ paletteBytes) && readsPoison s .palette (o.core * 0x200000 + addr b i) 4
    if bad then endBrush o.core (ans .poisoned (regionOfCore o.core)) (notePoisoned o.core (regionOfCore o.core) (addr b 0) s)
    else skipFree (modBrush o.core (fun b => putLanes b o.dst o.pred fun i => (palWord s o.core (addr c.brush i)).getD (freeLane s i)) s)

/-- Is a palette unit of a core covered whole by the active lanes' words of one store? -/
def laneCovers (core : Nat) (on : Nat → Bool) (addr : Nat → Nat) (u : Nat) : Bool :=
  (List.range 64).all fun j => (List.range 256).any fun i =>
    on i && decide (addr i + 4 ≤ paletteBytes) && decide (core * 0x200000 + addr i ≤ u * 64 + j) &&
      decide (u * 64 + j < core * 0x200000 + addr i + 4)

/-- A store of each active lane's word, in ascending lane order. The instruction's store is one write: a poisoned unit its lanes
cover whole loses its poison (R430; log entry 57). -/
def storeLanes (o : VOp) (addr : Brush → Nat → Nat) (s : State) : Result :=
  onCore o.core s fun c =>
    let t := (List.range 256).foldl (fun s i =>
      if laneOn c.brush o.pred i then palWrite o.core (addr c.brush i) (toLe 4 (vlane c.brush o.a i).toNat) s else s) s
    modMem (fun m => { m with
      poisonPalette := m.poisonPalette.filter fun u =>
        isOffline s .palette (u * 64) || !(laneCovers o.core (laneOn c.brush o.pred) (addr c.brush) u) }) t

/-! Draws (R71 to R73) -/

/-- The generator state of a lane: seeded at boot until its first draw, a zero seed replaced. -/
def laneState (s : State) (core : Nat) (b : Brush) (i : Nat) : Word :=
  match tget i b.rng with
  | some x => x
  | none =>
    let x := Config.laneSeed s.flash.bootCount core i
    if x = 0 then 0x9E3779B97F4A7C15 else x

/-- The draw of a lane in FREE mode. -/
def freeDraw (s : State) (core : Nat) (b : Brush) (i : Nat) : BitVec 32 := (xorshift (laneState s core b i) >>> 32).truncate 32

/-- Advances the generators of the active lanes. -/
def advanceLanes (s : State) (core : Nat) (pred : Option Nat) (b : Brush) : Brush :=
  { b with rng := (List.range 256).foldl (fun t i => if laneOn b pred i then tput i (xorshift (laneState s core b i)) t else t) b.rng }

/-- The rounding mode of a lane's conversion: in COUNTER mode the program supplies c0 and c1 in registers B and C. -/
def laneMode (s : State) (o : VOp) (b : Brush) (sr : Bool) (counter : Option (BitVec 64 × BitVec 32)) (i : Nat) : RMode :=
  if !sr then .rne
  else
    match counter with
    | some k => .sr (counterDraw k.1 (vlane b o.b i) (vlane b o.c i) k.2 0)
    | none => .sr (freeDraw s o.core b i)

/-- The brush after a conversion's draws. -/
def afterDraws (s : State) (o : VOp) (sr : Bool) (counter : Option (BitVec 64 × BitVec 32)) (b : Brush) : Brush :=
  if sr && counter.isNone then advanceLanes s o.core o.pred b else b

/-! Conversion (R55, R56, R111) -/

/-- A source element of a format in a lane's low bits. -/
def sourceVal (code : Nat) (x : Lane) : FVal :=
  if code = 12 then (if x.toNat % 256 = 255 then .nan else .fin false 1 ((x.toNat % 256 : Nat) - 127))
  else decodeElem code x.toNat

/-- A value in a format, in a lane's low bits; MX elements saturate, and a NaN there is written 0 (R55, R56). -/
def destBits (code : Nat) (sat : Bool) (mode : RMode) (v : FVal) : Nat :=
  if isMx code then mxElem code 127 mode v else convert code sat mode v

def countLanes (f : Nat → Bool) : Nat := ((List.range 256).filter f).length

end Sys2Proof.Machine
end

