-- ==== Sys2Proof/Machine/TileOps.lean ====
section
/-! DEFINITION. Tiling (R76 to R89, R113 to R124): shapes, legality, the candidate grid and its placement, visit orders,
selection, and the tiles a position runs. -/

namespace Sys2Proof.Machine

def ceilDiv (a b : Nat) : Nat := (a + b - 1) / b

/-! Shapes (R77, R84, R87, R88) -/

/-- Rows covered per pass, columns covered per pass, and rows per canvas of a shape. -/
def shapeDims : Shape → Nat × Nat × Nat
  | .wide => (16, 64, 4)
  | .strip => (4, 256, 1)
  | _ => (64, 16, 16)

/-- Physical tiles F per canvas (R84). -/
def physTiles (sh : Shape) (mt nt : Nat) : Nat := ceilDiv mt (shapeDims sh).1 * ceilDiv nt (shapeDims sh).2.1

/-- The shape with the fewest physical tiles; ties go to SQUARE, then WIDE, then STRIP (R88). -/
def autoShape (mt nt : Nat) : Shape :=
  let q := physTiles .square mt nt
  let w := physTiles .wide mt nt
  let t := physTiles .strip mt nt
  if q ≤ w ∧ q ≤ t then .square else if w ≤ t then .wide else .strip

/-- A tile's shape (R88, R89): STRIP for a single row, the forced one, else the selected one. -/
def tileShape (forced : Shape) (mt nt : Nat) (oneRow : Bool) : Shape :=
  if oneRow || mt == 1 then .strip
  else match forced with
    | .auto => autoShape mt nt
    | sh => sh

/-- Depth of a pair of operands (R49, R76). -/
def pairDepth (fa fb : Nat) : Nat := min (depthOf fa) (depthOf fb)

/-- Issue cycles of a tile (R82, R87). -/
def issueCycles (sh : Shape) (fb d : Nat) (exact : Bool) (f p : Nat) : Nat :=
  if exact then f * p * 2
  else if sh = .strip ∧ d = 16 ∧ (fb = 7 ∨ fb = 8) then ceilDiv (f * p * 17) 16
  else f * p

/-- Bytes of n elements of a format (R114). -/
def elemBytes (code n : Nat) : Nat := ceilDiv (n * elemBits code) 8

/-! Tile descriptors (R85, R86, R113, R114) -/

/-- Extents and B format as the canvases run the tile: exchanged for a transposed product (R89). -/
def runM (d : TileDesc) : Nat := if d.swapped then d.nt else d.mt
def runN (d : TileDesc) : Nat := if d.swapped then d.mt else d.nt
def runFmtB (d : TileDesc) : Nat := if d.swapped then d.fmtA else d.fmtB
def runShape (d : TileDesc) : Shape := tileShape d.shape (runM d) (runN d) d.swapped

def tilePhys (d : TileDesc) : Nat := physTiles (runShape d) (runM d) (runN d)
def tilePasses (d : TileDesc) : Nat := ceilDiv d.kt (pairDepth d.fmtA d.fmtB)
def tileCycles (d : TileDesc) : Nat :=
  issueCycles (runShape d) (runFmtB d) (pairDepth d.fmtA d.fmtB) d.exact (tilePhys d) (tilePasses d)

/-- SA, SB and SS (R114). -/
def sizeA (d : TileDesc) : Nat := elemBytes d.fmtA (d.mt * d.kt) + (if isMx d.fmtA then d.mt * ceilDiv d.kt 32 else 0)
def sizeB (d : TileDesc) : Nat := elemBytes d.fmtB (d.kt * d.nt) + (if isMx d.fmtB then ceilDiv d.kt 32 * d.nt else 0)
def sizeS (d : TileDesc) : Nat :=
  elemBytes d.fmtOut (d.mt * d.nt) + (if d.betaNonzero then elemBytes d.fmtC (d.mt * d.nt) else 0) +
    (if d.biasPresent then elemBytes d.fmtBias d.nt else 0)

/-- The accumulator footprint's limit (R86, R113). -/
def footprintMax (exact cont : Bool) : Nat := if exact then (if cont then 4 else 8) else (if cont then 16 else 32)

/-- Does the tile hold the last K position of its output? -/
def endsK (d : TileDesc) : Bool := d.lastK && d.chunk + 1 == d.chunks

/-- Kt's step (R113). -/
def kStep (fa fb : Nat) : Nat := if isMx fa || isMx fb then 32 else pairDepth fa fb

/-- Bytes of each canvas's share of the accumulator memory a tile takes, as a range (R84, R86). -/
def accSpace (d : TileDesc) : Nat × Nat := (d.accBase, d.accBase + tilePhys d * 256 * (if d.exact then 16 else 4))

/-- The start of row i of an operand under nested loops (R81): each loop's digit of i times its byte stride. -/
def rowStart (base : Nat) (loops : List (Nat × Int)) (i : Nat) : Nat :=
  (loops.foldl (fun (a : Int × Nat) l => (a.1 + ((a.2 % max 1 l.1 : Nat) : Int) * l.2, a.2 / max 1 l.1)) ((base : Int), i)).1.toNat

/-- Elements of a group that share bytes (R81). -/
def groupOf (code : Nat) : Nat := if code = 7 ∨ code = 8 then 4 else if code = 9 ∨ code = 11 then 2 else 1

/-- Bytes of a group (R81). -/
def groupBytes (code : Nat) : Nat := if code = 7 ∨ code = 8 then 3 else 1

/-- Do the rows that nested loops walk start where R81 asks: on a group of the operand's buffer, and on 2 bytes for a 16-bit format? -/
def startsAligned (code base : Nat) (loops : List (Nat × Int)) (rows : Nat) : Bool :=
  (List.range rows).all fun i =>
    let a := rowStart base loops i
    if elemBits code = 16 then a % 2 == 0 else ((a : Int) - base) % groupBytes code == 0

/-- Are a descriptor's rows aligned, where nested loops give their starts? -/
def loopsAligned (d : TileDesc) : Bool :=
  (d.loopsA.isEmpty || startsAligned d.fmtA d.aAddr d.loopsA d.mt) && (d.loopsB.isEmpty || startsAligned d.fmtB d.bAddr d.loopsB d.nt)

/-- The conditions of R113. -/
def legalTile (d : TileDesc) : Bool :=
  decide (tilePhys d ≤ footprintMax d.exact d.accContinue) && decide (tileCycles d ≤ 7936) &&
    decide (2 * (sizeA d + sizeB d) ≤ 1280 * 1024) && decide (sizeS d ≤ 256 * 1024) &&
    (d.kt % kStep d.fmtA d.fmtB == 0 || endsK d)

/-! The grid (R119, R120) -/

/-- Places split-K groups of gk positions on active logical numbers, none spanning two regions: the groups placed, and how
many numbers are left. The fuel counts groups and regions passed. -/
def placeGrid (gk : Nat) : Nat → Nat → List Nat → List (List Nat) × Nat
  | 0, _, ls => ([], ls.length)
  | _ + 1, 0, ls => ([], ls.length)
  | f + 1, g + 1, ls =>
    match ls with
    | [] => ([], 0)
    | x :: _ =>
      let same := ls.takeWhile fun y => y / 100 == x / 100
      if same.length < gk then placeGrid gk f (g + 1) (ls.drop same.length)
      else
        let r := placeGrid gk f g (ls.drop gk)
        (ls.take gk :: r.1, r.2)

/-- The groups of a candidate on a list of active logical numbers. -/
def gridOf (c : Candidate) (ls : List Nat) : List (List Nat) := (placeGrid c.gk (c.gm * c.gn + 9) (c.gm * c.gn) ls).1

/-- Does the whole grid fit (R117, R118)? -/
def gridFits (c : Candidate) (ls : List Nat) : Bool := (gridOf c ls).length == c.gm * c.gn

/-- Positions with their cores: (im, in, ik, logical). -/
def positions (c : Candidate) (ls : List Nat) : List (Nat × Nat × Nat × Nat) :=
  (gridOf c ls).zipIdx.flatMap fun g => g.1.zipIdx.map fun p => (g.2 / c.gn, g.2 % c.gn, p.2, p.1)

/-- A part's size along M or N, and a chunk's along K (R120). -/
def partSize (n g : Nat) : Nat := ceilDiv (ceilDiv n g) 16 * 16
def chunkSize (k g : Nat) : Nat := ceilDiv (ceilDiv k g) 32 * 32

/-- A visit order as its candidate byte holds it: order in bits [7:6], G − 1 in [5:0] (R116). -/
def orderByte (o : Nat × Nat) : Nat := o.1 % 4 * 64 + (o.2 - 1) % 64

/-- One tile of a position: offsets, clamped extents, whether it ends its chunk and whether it continues one. -/
structure Cut where
  row : Nat
  col : Nat
  k : Nat
  mt : Nat
  nt : Nat
  kt : Nat
  lastK : Bool
  cont : Bool
  deriving DecidableEq, Repr

/-- The tiles of a position in the order its core runs them (R120, R122, R123): cut over the bucket sizes and clamped to the
actual ones (R115). -/
def cuts (c : Candidate) (bm bn bk m n k im in' ik : Nat) : List Cut :=
  let mp := partSize bm c.gm
  let np := partSize bn c.gn
  let kc := chunkSize bk c.gk
  let r0 := im * mp
  let c0 := in' * np
  let k0 := ik * kc
  let r1 := min (r0 + mp) (min bm m)
  let c1 := min (c0 + np) (min bn n)
  let k1 := min (k0 + kc) (min bk k)
  let rows := ceilDiv (min (r0 + mp) bm - r0) c.mt
  let cols := ceilDiv (min (c0 + np) bn - c0) c.nt
  let steps := ceilDiv (k1 - k0) c.kt
  (List.range (rows * cols)).flatMap fun i =>
    let p := walkAt (orderByte c.ordPal) rows cols i
    let row := r0 + p.1 * c.mt
    let col := c0 + p.2 * c.nt
    let mt := min (row + c.mt) r1 - row
    let nt := min (col + c.nt) c1 - col
    if mt = 0 ∨ nt = 0 then []
    else (List.range steps).map fun j =>
      { row := row, col := col, k := k0 + j * c.kt, mt := mt, nt := nt, kt := min (k0 + (j + 1) * c.kt) k1 - (k0 + j * c.kt)
        lastK := j + 1 == steps, cont := j != 0 }

/-! Selection (R117, R134, R136) -/

/-- The bucket an actual size takes: its index and size. -/
def bucketFor (bs : List Nat) (n : Nat) : Option (Nat × Nat) :=
  (bs.zipIdx.find? fun e => n ≤ e.1).map fun e => (e.2, e.1)

/-- A candidate out of its 32-byte record (R116); none where a field leaves its range or a reserved bit is set. -/
def candidateOf (r : List Byte) : Option Candidate :=
  let f := fieldAt r
  let order := fun (b : Nat) => (b / 64, b % 64 + 1)
  let shape := match f 6 1 with | 0 => some Shape.auto | 1 => some .square | 2 => some .wide | 3 => some .strip | _ => none
  match shape with
  | none => none
  | some sh =>
    if r.length = 32 ∧ 1 ≤ f 0 2 ∧ 1 ≤ f 2 2 ∧ 1 ≤ f 4 2 ∧ 1 ≤ f 7 1 ∧ f 7 1 ≤ 100 ∧ 1 ≤ f 8 2 ∧ f 8 2 ≤ 800 ∧ 1 ≤ f 10 2 ∧ f 10 2 ≤ 800 ∧
        f 15 1 < 2 ∧ f 24 8 = 0 then
      some { mt := f 0 2, nt := f 2 2, kt := f 4 2, shape := sh, gk := f 7 1, gm := f 8 2, gn := f 10 2, ordPal := order (f 12 1)
             ordRc := order (f 13 1), ordHbm := order (f 14 1), halo := f 15 1 == 1, mcastFirst := f 16 2, mcastCount := f 18 2
             fixedNs := f 20 4 }
    else none

/-- A template's candidates by bucket combination, in record order. -/
def candidates (t : Template) : List (List Candidate) := t.records.map (·.filterMap candidateOf)

/-- Are a combination's records 1 to 16 candidates (R116)? -/
def recordsOk (rs : List (List Byte)) : Bool := decide (1 ≤ rs.length ∧ rs.length ≤ 16) && rs.all fun r => (candidateOf r).isSome

/-- Cycles one core spends on a position at the bucket sizes. -/
def positionCycles (t : Template) (c : Candidate) (forced : Shape) (bm bn bk : Nat) (p : Nat × Nat × Nat × Nat) : Nat :=
  ((cuts c bm bn bk bm bn bk p.1 p.2.1 p.2.2.1).map fun u =>
    let sw := bn == 1 && bm != 1
    let mt := if sw then u.nt else u.mt
    let nt := if sw then u.mt else u.nt
    let d := pairDepth t.fmtA t.fmtB
    let sh := tileShape forced mt nt sw
    issueCycles sh (if sw then t.fmtA else t.fmtB) d t.exact (physTiles sh mt nt) (ceilDiv u.kt d)).sum

/-- Does a position have outputs at the bucket size of M: is its part of the rows not empty (R120)? -/
def hasRows (c : Candidate) (bm im : Nat) : Bool := decide (im * partSize bm c.gm < bm)

/-- Bytes of B the positions of one region read, each counted once; a position without rows reads none (R117, R120). -/
def regionBytes (t : Template) (c : Candidate) (bm bn bk : Nat) (ps : List (Nat × Nat × Nat × Nat)) : Nat :=
  let np := partSize bn c.gn
  let kc := chunkSize bk c.gk
  ((((ps.filter fun p => hasRows c bm p.1).map fun p => (p.2.1, p.2.2.1)).eraseDups).map fun q =>
    let cols := min ((q.1 + 1) * np) bn - q.1 * np
    let ks := min ((q.2 + 1) * kc) bk - q.2 * kc
    elemBytes t.fmtB (cols * ks) + (if isMx t.fmtB then ceilDiv ks 32 * cols else 0)).sum

/-- 1 KiB partials entering one region's combining unit: those of each output tile of each position that has a chunk (R120, R121). -/
def regionPartials (t : Template) (c : Candidate) (bm bn bk : Nat) (ps : List (Nat × Nat × Nat × Nat)) : Nat :=
  (ps.map fun p =>
    (((cuts c bm bn bk bm bn bk p.1 p.2.1 p.2.2.1).filter (·.lastK)).map fun u =>
      ceilDiv u.mt 16 * ceilDiv u.nt 16 * (if t.exact then 4 else 1)).sum).sum

def maxOf (l : List Nat) : Nat := l.foldl max 0

def maxQ (a b : Q) : Q := if a.lt b then b else a

/-- The cost of a candidate in nanoseconds (R117), in the mode the template declares. -/
def candidateCost (pl : Plan) (t : Template) (c : Candidate) (forced : Shape) (bm bn bk : Nat) (ls : List Nat) : Q :=
  let ps := positions c ls
  let byRegion := fun (f : List (Nat × Nat × Nat × Nat) → Nat) =>
    maxOf ((List.range 8).map fun r => f (ps.filter fun p => p.2.2.2 / 100 == r))
  let comp : Q := ⟨(maxOf (ps.map (positionCycles t c forced bm bn bk)) * 1000 : Nat), max 1 pl.cclkNom⟩
  let fetch : Q := ⟨(byRegion (regionBytes t c bm bn bk) : Nat), max 1 pl.hbmBwNom⟩
  let comb : Q := if c.gk = 1 then ⟨0, 1⟩ else ⟨(byRegion (regionPartials t c bm bn bk) * 160 : Nat), 18⟩
  (maxQ (maxQ comp fetch) comb).add (Q.ofInt c.fixedNs)

/-- The place of the lowest-cost candidate that fits, the first on a tie (R117). -/
def selectIndex (pl : Plan) (t : Template) (bm bn bk : Nat) (ls : List Nat) (cs : List Candidate) : Option Nat :=
  let force := fun (c : Candidate) => if t.shape = .auto then c.shape else t.shape
  (cs.zipIdx.foldl (fun (best : Option (Nat × Q)) e =>
    if !gridFits e.1 ls then best
    else
      let q := candidateCost pl t e.1 (force e.1) bm bn bk ls
      match best with
      | none => some (e.2, q)
      | some b => if q.lt b.2 then some (e.2, q) else best) none).map (·.1)

/-- The number of a bucket combination, in the order M, N, K (R116). -/
def comboOf (t : Template) (im in' ik : Nat) : Nat := (im * t.bucketsN.length + in') * t.bucketsK.length + ik

/-- The candidates of a bucket combination. -/
def candidatesAt (t : Template) (combo : Nat) : List Candidate := ((candidates t)[combo]?).getD []

/-- A selection of Birzu's cache: plan, template, bucket combination and candidate (R118). -/
def cachedAt (s : State) (part plan template combo : Nat) : Option Nat :=
  (((partOf s part).selection.find? fun e => e.1 == plan && e.2.1 == template && e.2.2.1 == combo)).map (·.2.2.2)

/-- The candidate of a command (R118): the cached one of its plan, template and bucket combination, else the one selection finds, by its
place in the combination's list. -/
def pickIndex (s : State) (part plan template combo : Nat) (pl : Plan) (t : Template) (bm bn bk : Nat) : Option Nat :=
  match cachedAt s part plan template combo with
  | some i => some i
  | none => selectIndex pl t bm bn bk (logicalsOf s part) (candidatesAt t combo)

/-- A selection enters the cache. -/
def cacheSelection (part plan template combo i : Nat) (s : State) : State :=
  if (cachedAt s part plan template combo).isSome then s
  else modPart part (fun p => { p with selection := p.selection ++ [(plan, template, combo, i)] }) s

end Sys2Proof.Machine
end

