-- ==== Sys2Proof/Machine/TileMath.lean ====
section
/-! DEFINITION. What the canvases and the epilogue compute (R47 to R65, R76, R83 to R86, R95 to R97, R128): operand elements,
the running value of a cell, where it lies in accumulator memory, and an output element. -/

namespace Sys2Proof.Machine

/-! Operand elements -/

/-- A padding value in its operand's encoding (R128, R129). -/
def padVal (code : Nat) (pad : BitVec 32) : FVal := decodeElem code pad.toNat

/-- Element idx of an operand, under the scale byte at sidx for an MX format (R46, R47). -/
def operandVal (s : State) (addr scale code idx sidx : Nat) : FVal :=
  let v := decodeElem code (readElem s addr code idx)
  if isMx code then scaleElem (readNum s (scale + sidx) 1) v else v

/-- The input position a CONV row and column read (R96, R97): the element's index, none outside the input. -/
def convIndex (p : ConvParams) (i k : Nat) : Option Nat :=
  let oh := (p.h + p.pt + p.pb - p.dh * (p.kh - 1) - 1) / p.sh + 1
  let ow := (p.w + p.pl + p.pr - p.dw * (p.kw - 1) - 1) / p.sw + 1
  let n := i / (oh * ow)
  let y := i / ow % oh
  let x := i % ow
  let kh := k / (p.kw * p.c)
  let kw := k / p.c % p.kw
  let h : Int := (y * p.sh + kh * p.dh : Nat) - (p.pt : Int)
  let w : Int := (x * p.sw + kw * p.dw : Nat) - (p.pl : Int)
  if h < 0 ∨ (p.h : Int) ≤ h ∨ w < 0 ∨ (p.w : Int) ≤ w then none
  else some (((n * p.h + h.toNat) * p.w + w.toNat) * p.c + k % p.c)

/-- Index of a row and column in a stored matrix with its AXIS bit and row pitch, and of its block scale (R47, R80). -/
def storedIndex (axis : Bool) (ld i k : Nat) : Nat := if axis then k * ld + i else i * ld + k
def scaleIndexA (axis : Bool) (ld i k : Nat) : Nat := if axis then k / 32 * ld + i else i * ceilDiv ld 32 + k / 32

/-- Element (i, k) of A as a product reads it. A CONV's patch matrix is no stored matrix, so its AXIS_A bit changes nothing (log
entry 106). -/
def elemA (s : State) (conv : Option ConvParams) (d : TileDesc) (i k : Nat) : FVal :=
  match conv with
  | some p =>
    match convIndex p i k with
    | some e => operandVal s d.aAddr d.aScale d.fmtA e (e / 32)
    | none => padVal d.fmtA d.padA
  | none =>
    if d.loopsA.isEmpty then operandVal s d.aAddr d.aScale d.fmtA (storedIndex d.axisA d.lda i k) (scaleIndexA d.axisA d.lda i k)
    else operandVal s (rowStart d.aAddr d.loopsA i) d.aScale d.fmtA k (scaleIndexA d.axisA d.lda i k)

/-- Element (k, j) of B. -/
def elemB (s : State) (d : TileDesc) (k j : Nat) : FVal :=
  if d.loopsB.isEmpty then operandVal s d.bAddr d.bScale d.fmtB (storedIndex (!d.axisB) d.ldb j k) (scaleIndexA (!d.axisB) d.ldb j k)
  else operandVal s (rowStart d.bAddr d.loopsB j) d.bScale d.fmtB k (scaleIndexA (!d.axisB) d.ldb j k)

/-- A tile's operands at its row r, column c and K position q: beyond Kt both are padding (R85). -/
def tileA (s : State) (conv : Option ConvParams) (d : TileDesc) (r q : Nat) : FVal :=
  if d.kt ≤ q then padVal d.fmtA d.padA else elemA s conv d (d.rowOff + r) (d.kOff + q)
def tileB (s : State) (d : TileDesc) (q c : Nat) : FVal :=
  if d.kt ≤ q then padVal d.fmtB d.padB else elemB s d (d.kOff + q) (d.colOff + c)

/-! Cells -/

/-- One pass of one cell in normal mode: d products and the running value as one exact sum, rounded once (R50, R51). -/
def passSum (acc : Lane) (products : List FVal) : Lane := round32 (sumV (val32 acc :: products))

/-- The running value of a cell after a tile (R50, R84): passes in increasing K order. -/
def cellNormal (s : State) (conv : Option ConvParams) (d : TileDesc) (start : Lane) (r c : Nat) : Lane :=
  let n := pairDepth d.fmtA d.fmtB
  (List.range (tilePasses d)).foldl (fun acc p =>
    passSum acc ((List.range n).map fun i => mulV (tileA s conv d r (p * n + i)) (tileB s d (p * n + i) c))) start

/-- One product entering a true-colour element (R62, R64): truncated into the window, or into the flags. Without a window
a finite product is dropped whole (R61). -/
def addProduct (l : Option Int) (x : XAcc) (a b : FVal) : XAcc :=
  match a, b with
  | .fin na ma ea, .fin nb mb eb =>
    match l with
    | some w => accumulate x (windowInt (mulV (.fin na ma ea) (.fin nb mb eb)) w)
    | none => x
  | _, _ => flagProduct x (mulV a b)

/-- A true-colour element after a tile (R62). -/
def cellExact (s : State) (conv : Option ConvParams) (d : TileDesc) (l : Option Int) (start : XAcc) (r c : Nat) : XAcc :=
  let n := pairDepth d.fmtA d.fmtB
  (List.range (tilePasses d * n)).foldl (fun x q => addProduct l x (tileA s conv d r q) (tileB s d q c)) start

/-- The window of output (i, j) of an item: L = ra + cb − 111, none where either entry reads TOP_EXP 0x8000 (R60, R61). -/
def windowOf (it : MatItem) (i j : Nat) : Option Int :=
  match entryTop ((it.rows[i]?).getD 0x8000), entryTop ((it.cols[j]?).getD 0x8000) with
  | some ra, some cb => some (windowL ra cb)
  | _, _ => none

/-- Is an element zero for the gate of R92? -/
def isZeroV : FVal → Bool
  | .fin _ m _ => m == 0
  | _ => false

/-! Residues (R74) -/

/-- The finite terms of one cell in one pass as (sign, significand product, exponent). -/
def passTerms (s : State) (conv : Option ConvParams) (d : TileDesc) (pass r c : Nat) : List (Bool × Nat × Nat × Int) :=
  let n := pairDepth d.fmtA d.fmtB
  (List.range n).filterMap fun i =>
    match tileA s conv d r (pass * n + i), tileB s d (pass * n + i) c with
    | .fin na ma ea, .fin nb mb eb => some (na != nb, ma, mb, ea + eb)
    | _, _ => none

/-- The terms of the cells of one of the 16 columns of a tile in one pass. -/
def columnTerms (s : State) (conv : Option ConvParams) (d : TileDesc) (pass column : Nat) : List (Bool × Nat × Nat × Int) :=
  ((List.range d.mt).flatMap fun r => ((List.range d.nt).filter fun c => c % 16 == column).map fun c => (r, c)).flatMap fun x =>
    passTerms s conv d pass x.1 x.2

/-- The exponent a column's terms are aligned to. -/
def alignTo (ts : List (Bool × Nat × Nat × Int)) : Int := (ts.map (·.2.2.2)).foldl min 0

/-- The residue predicted from the significands' residues and the alignment shifts. -/
def predictedResidue (ts : List (Bool × Nat × Nat × Int)) : Nat :=
  let e0 := alignTo ts
  mod15 ((ts.map fun t => (termResidue t.1 (t.2.1 % 15 * (t.2.2.1 % 15)) (t.2.2.2 - e0).toNat : Int)).sum)

/-- The sum of the aligned products. -/
def alignedSum (ts : List (Bool × Nat × Nat × Int)) : Int :=
  let e0 := alignTo ts
  (ts.map fun t => alignInt t.1 (t.2.1 * t.2.2.1) t.2.2.2 e0).sum

/-- Does the check of a column of a pass find an error of delta in its sum? -/
def residueMismatch (s : State) (conv : Option ConvParams) (d : TileDesc) (pass column : Nat) (delta : Int) : Bool :=
  let ts := columnTerms s conv d pass column
  predictedResidue ts != mod15 (alignedSum ts + delta)

/-- The cells of a column. -/
def columnCells (d : TileDesc) (column : Nat) : List (Nat × Nat) :=
  (List.range d.mt).flatMap fun r => ((List.range d.nt).filter fun c => c % 16 == column).map fun c => (r, c)

/-- Gated products of a tile (R92, R94): those with a zero input. The cells beyond Mt or Nt, gated whole, are not counted (log entry
107). -/
def gatedProducts (s : State) (conv : Option ConvParams) (d : TileDesc) : Nat :=
  ((List.range d.mt).map fun r => ((List.range d.nt).map fun c =>
    ((List.range (tilePasses d * pairDepth d.fmtA d.fmtB)).filter fun q => isZeroV (tileA s conv d r q) || isZeroV (tileB s d q c)).length).sum).sum

/-! Accumulator memory (R77, R78, R84, R86): a canvas's 32 KiB share holds its F physical tiles of 256 cells, each cell
row-major in its shape (log entry 35). -/

/-- Byte offset of output (r, c) of a tile in a core's accumulator memory, for cells of a width. -/
def accOffset (d : TileDesc) (width r c : Nat) : Nat :=
  let sh := shapeDims (runShape d)
  let rr := if d.swapped then c else r
  let cc := if d.swapped then r else c
  let f := rr / sh.1 * ceilDiv (runN d) sh.2.1 + cc / sh.2.1
  let canvas := rr % sh.1 / sh.2.2
  let cell := rr % sh.1 % sh.2.2 * sh.2.1 + cc % sh.2.1
  canvas * 0x8000 + d.accBase + f * 256 * width + cell * width

/-- The start value of a cell (R86): zero, or what the tile before left. -/
def startNormal (s : State) (core : Nat) (d : TileDesc) (r c : Nat) : Lane :=
  if d.accContinue then BitVec.ofNat 32 (leNat (mreadN (core * 0x20000 + accOffset d 4 r c) 4 s.mem.acc)) else 0
def startExact (s : State) (core : Nat) (d : TileDesc) (r c : Nat) : XAcc :=
  if d.accContinue then
    { tgetD (accOffset d 16 r c / 16) {} (coreOf s core).accFlags with
      w := BitVec.ofNat 128 (leNat (mreadN (core * 0x20000 + accOffset d 16 r c) 16 s.mem.acc)) }
  else {}

/-- A tile's results, row by row. -/
def tileNormal (s : State) (core : Nat) (conv : Option ConvParams) (d : TileDesc) : List (List Lane) :=
  (List.range d.mt).map fun r => (List.range d.nt).map fun c => cellNormal s conv d (startNormal s core d r c) r c
def tileExact (s : State) (core : Nat) (conv : Option ConvParams) (d : TileDesc) (it : MatItem) : List (List XAcc) :=
  (List.range d.mt).map fun r => (List.range d.nt).map fun c =>
    cellExact s conv d (windowOf it (d.rowOff + r) (d.colOff + c)) (startExact s core d r c) r c

/-- Applies an update at each cell of a list of rows. -/
def overCells {α : Type} (rows : List (List α)) (f : Nat → Nat → α → State → State) (s : State) : State :=
  rows.zipIdx.foldl (fun s e => e.1.zipIdx.foldl (fun s x => f e.2 x.2 x.1 s) s) s

/-- A cell that an undetected error changed holds a free value (R74; log entry 108). -/
def upsetNormal (s : State) (upset : List (Nat × Nat)) (rows : List (List Lane)) : List (List Lane) :=
  rows.zipIdx.map fun e => e.1.zipIdx.map fun x =>
    if upset.contains (e.2, x.2) then (Config.freeWord (s.free + 256 * e.2 + x.2)).truncate 32 else x.1
def upsetExact (s : State) (upset : List (Nat × Nat)) (rows : List (List XAcc)) : List (List XAcc) :=
  rows.zipIdx.map fun e => e.1.zipIdx.map fun x =>
    if upset.contains (e.2, x.2) then
      let w := (Config.freeWord (s.free + 256 * e.2 + x.2)) ++ (Config.freeWord (s.free + 0x10000 + 256 * e.2 + x.2))
      { x.1 with w := w, res := mod15 w.toInt }
    else x.1

/-- Does a true-colour tile that continues read an element that disagrees with the residue beside it (R74)? -/
def readOutBad (s : State) (core : Nat) (d : TileDesc) : Bool :=
  d.exact && d.accContinue &&
    (List.range d.mt).any fun r => (List.range d.nt).any fun c => !residueOk (startExact s core d r c)

/-- Writes a tile's results back to accumulator memory (R83). -/
def storeNormal (core : Nat) (d : TileDesc) (rows : List (List Lane)) (s : State) : State :=
  overCells rows (fun r c v s => writeSpace .acc (core * 0x20000 + accOffset d 4 r c) (toLe 4 v.toNat) s) s
def storeExact (core : Nat) (d : TileDesc) (rows : List (List XAcc)) (s : State) : State :=
  overCells rows (fun r c v s =>
    modCore core (fun k => { k with accFlags := tput (accOffset d 16 r c / 16) { v with w := 0 } k.accFlags })
      (writeSpace .acc (core * 0x20000 + accOffset d 16 r c) (toLe 16 v.w.toNat) s)) s

/-! The epilogue (R54, R55, R58, R65) -/

/-- Is an FP32 scalar zero? -/
def isZero32 (x : BitVec 32) : Bool := x.toNat % 2 ^ 31 == 0

/-- t3 of R54 for output (i, j) of an item. -/
def epilogue (s : State) (m : MatJob) (it : MatItem) (i j : Nat) (v : Lane) : Lane :=
  let t1 := if m.alpha = 0x3F800000 then v else round32 (mulV (val32 m.alpha) (val32 v))
  let t2 := if isZero32 m.beta then t1
    else
      let c := decodeElem m.template.fmtC (readElem s it.d m.template.fmtC (i * m.n + j))
      round32 (addV (mulV (val32 m.beta) c) (val32 t1))
  if m.bias = 0 then t2
  else round32 (addV (val32 t2) (decodeElem m.template.fmtBias (readElem s m.bias m.template.fmtBias j)))

/-- Are all three terms of the epilogue absent (R54)? -/
def noEpilogue (m : MatJob) : Bool := m.alpha == 0x3F800000 && isZero32 m.beta && m.bias == 0

/-- What a true-colour element converts from and the FP32 value R58 counts. -/
def exactResult (s : State) (m : MatJob) (it : MatItem) (i j : Nat) (x : XAcc) : FVal × Lane :=
  let v := exactVal x ((windowOf it i j).getD 0)
  if noEpilogue m then (v, round32 v)
  else
    let t := epilogue s m it i j (round32 v)
    (val32 t, t)

def normalResult (s : State) (m : MatJob) (it : MatItem) (i j : Nat) (v : Lane) : FVal × Lane :=
  let t := epilogue s m it i j v
  (val32 t, t)

/-- The rounding of output (i, j): COUNTER draws take c0 = j and c1 = the flattened outer index; a FREE draw is of lane
j mod 256 of the home core (R72, R73; log entry 36). -/
def outMode (s : State) (m : MatJob) (it : MatItem) (core i j : Nat) : RMode :=
  if !m.head.sr then .rne
  else if m.head.srCounter then .sr (counterDraw m.seed (BitVec.ofNat 32 j) (BitVec.ofNat 32 (it.outer + i)) m.stream 0)
  else .sr (freeDraw s core (coreOf s core).brush (j % 256))

/-- The generator behind a FREE draw advances. -/
def advanceOut (m : MatJob) (core j : Nat) (s : State) : State :=
  if m.head.sr && !m.head.srCounter then
    modBrush core (fun b => { b with rng := tput (j % 256) (xorshift (laneState s core b (j % 256))) b.rng }) s
  else s

/-- Writes one output element. scale is its MX block's scale byte. -/
def writeOut (m : MatJob) (it : MatItem) (core i col scale : Nat) (v : FVal) (s : State) : State :=
  let code := m.template.fmtOut
  let mode := outMode s m it core i col
  let bits := if isMx code then mxElem code scale mode v else convert code m.head.sat mode v
  writeElem it.d code (i * m.n + col) bits (advanceOut m core col s)

/-- Writes an MX block of 32 columns of an output row whose values are all there: its scale byte (R56), then its elements. -/
def writeBlock (m : MatJob) (it : MatItem) (core i blk : Nat) (vs : List HeldOut) (s : State) : State :=
  let sc := mxScale m.template.fmtOut (vs.map (·.v))
  vs.foldl (fun s h => writeOut m it core i h.col sc h.v s)
    (writeGlobal (it.d + m.template.scaleD + i * ceilDiv m.n 32 + blk) [BitVec.ofNat 8 sc] s)

/-- An output value of an MX format waits until its block of 32 columns is whole, whatever tiles its columns come from (R56, R70; log
entry 37). -/
def holdOut (j : Nat) (m : MatJob) (it : MatItem) (core i col : Nat) (v : FVal) (s : State) : State :=
  let held := (((tget j s.jobs).map (·.held)).getD []).filter fun h => !(h.d == it.d && h.row == i && h.col == col)
  let now := held ++ [{ d := it.d, row := i, col := col, v := v }]
  let mine := fun (h : HeldOut) => h.d == it.d && h.row == i && h.col / 32 == col / 32
  let block := now.filter mine
  if block.length = min 32 (m.n - col / 32 * 32) then
    writeBlock m it core i (col / 32) block (modMatJob j (fun x => { x with held := now.filter fun h => !mine h }) s)
  else modMatJob j (fun x => { x with held := now }) s

/-- Counts a result value (R58). -/
def countOut (j : Nat) (v : Lane) (s : State) : State :=
  modMatJob j (fun x => { x with nan := x.nan + (if isNan32 v then 1 else 0), inf := x.inf + (if isInf32 v then 1 else 0) }) s

/-- Writes a block of outputs whose first is (r0, c0). -/
def writeOutputs (j : Nat) (m : MatJob) (it : MatItem) (core r0 c0 : Nat) (rows : List (List (FVal × Lane))) (s : State) : State :=
  rows.zipIdx.foldl (fun s e => e.1.zipIdx.foldl (fun s x =>
    let s1 := if isMx m.template.fmtOut then holdOut j m it core (r0 + e.2) (c0 + x.2) x.1.1 s
      else writeOut m it core (r0 + e.2) (c0 + x.2) 127 x.1.1 s
    countOut j x.1.2 s1) s) s

/-- The outputs of a tile in normal mode and in true colour. -/
def resultsNormal (s : State) (m : MatJob) (it : MatItem) (r0 c0 : Nat) (rows : List (List Lane)) : List (List (FVal × Lane)) :=
  rows.zipIdx.map fun e => e.1.zipIdx.map fun x => normalResult s m it (r0 + e.2) (c0 + x.2) x.1
def resultsExact (s : State) (m : MatJob) (it : MatItem) (r0 c0 : Nat) (rows : List (List XAcc)) : List (List (FVal × Lane)) :=
  rows.zipIdx.map fun e => e.1.zipIdx.map fun x => exactResult s m it (r0 + e.2) (c0 + x.2) x.1

/-! Poisoned operands (R367) -/

/-- Is an operand element poisoned, and where does its first byte lie? -/
def elemPoison (s : State) (addr code idx : Nat) : Option Nat :=
  let off := idx * elemBits code
  let a := addr + off / 8
  if globalPoisoned s a ((off % 8 + elemBits code + 7) / 8) then some a else none

/-- The same for an element and, in an MX format, its block's scale byte. -/
def scaledPoison (s : State) (addr scale code idx sidx : Nat) : Option Nat :=
  match elemPoison s addr code idx with
  | some a => some a
  | none => if isMx code && globalPoisoned s (scale + sidx) 1 then some (scale + sidx) else none

/-- Is element (i, k) of A, or (k, j) of B, poisoned? -/
def poisonA (s : State) (conv : Option ConvParams) (d : TileDesc) (i k : Nat) : Option Nat :=
  match conv with
  | some p => (convIndex p i k).bind fun e => scaledPoison s d.aAddr d.aScale d.fmtA e (e / 32)
  | none =>
    if d.loopsA.isEmpty then scaledPoison s d.aAddr d.aScale d.fmtA (storedIndex d.axisA d.lda i k) (scaleIndexA d.axisA d.lda i k)
    else scaledPoison s (rowStart d.aAddr d.loopsA i) d.aScale d.fmtA k (scaleIndexA d.axisA d.lda i k)
def poisonB (s : State) (d : TileDesc) (k j : Nat) : Option Nat :=
  if d.loopsB.isEmpty then scaledPoison s d.bAddr d.bScale d.fmtB (storedIndex (!d.axisB) d.ldb j k) (scaleIndexA (!d.axisB) d.ldb j k)
  else scaledPoison s (rowStart d.bAddr d.loopsB j) d.bScale d.fmtB k (scaleIndexA (!d.axisB) d.ldb j k)

/-- Is an element of C or of the bias poisoned that the epilogue of a tile's outputs reads (R54)? -/
def poisonEpilogue (s : State) (d : TileDesc) : Option Nat :=
  match tget d.job s.jobs with
  | none => none
  | some m =>
    if m.isBrush || !d.lastK then none
    else
      let it := (m.items[d.item]?).getD { a := 0, b := 0, d := 0, m := 0 }
      let inC := if isZero32 m.beta then none
        else (List.range d.mt).findSome? fun r => (List.range d.nt).findSome? fun c =>
          elemPoison s it.d m.template.fmtC ((d.rowOff + r) * m.n + d.colOff + c)
      match inC with
      | some a => some a
      | none => if m.bias = 0 then none
        else (List.range d.nt).findSome? fun c => elemPoison s m.bias m.template.fmtBias (d.colOff + c)

/-- The first poisoned operand byte a tile reads: of A, of B, of C or of the bias. -/
def tilePoison (s : State) (conv : Option ConvParams) (d : TileDesc) : Option Nat :=
  let qs := List.range d.kt
  match (List.range d.mt).findSome? fun r => qs.findSome? fun q => poisonA s conv d (d.rowOff + r) (d.kOff + q) with
  | some a => some a
  | none =>
    match (List.range d.nt).findSome? fun c => qs.findSome? fun q => poisonB s d (d.kOff + q) (d.colOff + c) with
    | some a => some a
    | none => poisonEpilogue s d

end Sys2Proof.Machine
end

