-- ==== Sys2Proof/Machine/Tiles.lean ====
section
/-! DEFINITION. Tiles and combining units (R41 to R44, R83 to R87, R100 to R104, R109, R115, R121, R358, R367): issue,
completion, faults and reissue, and partial tiles on their way to the home core. -/

namespace Sys2Proof.Machine

/-! Issue -/

/-- Does a descriptor belong to a matrix command, whose tiles Birzu cuts? -/
def isMatrixTile (s : State) (d : TileDesc) : Bool :=
  match tget d.job s.jobs with
  | some m => !m.isBrush
  | none => false

/-- Does a pre-emption stop a core at its tile boundary (R100, R102, R353): its partition's holder has a HARD one, and its lock record is
empty? A SOFT one stops a job at a cheap point, and a HARD one with locks held does not take effect yet (log entry 112). -/
def stopDue (s : State) (core : Nat) : Bool :=
  match partOfCore s core with
  | none => false
  | some p =>
    match (partOf s p).holder with
    | none => false
    | some h => let j := jobOf (partOf s p) h; j.hard.isSome && j.locks.isEmpty

/-- May a core take a descriptor now: it serves, nothing stops it, no change of CCLK waits for its tiles (R99), it holds fewer than two
and no partial waits for a credit (R42, R100, R109)? -/
def mayIssue (s : State) (core : Nat) : Bool :=
  let c := coreOf s core
  (logicalOf s core).isSome && !c.stopped && !stopDue s core && s.power.cclk == s.power.cclkRun && decide (c.tiles.length < 2) &&
    c.partials.isEmpty

/-! Multicast groups and halos (R124 to R127) -/

/-- The logical numbers a partition holds in a region, vacant ones included, in ascending order (R124, R368). -/
def heldNumbers (s : State) (part region : Nat) : List Nat :=
  (s.units.home.filter fun e => e.1 / 100 == region && partOfBlock s e.2 == some part).map (·.1)

/-- The physical cores a group's mask translates to (R124): bit b names the b-th number held; a vacant one has no port (R126). -/
def groupPorts (s : State) (part region : Nat) (mask : BitVec 128) : List Nat :=
  (heldNumbers s part region).zipIdx.filterMap fun e => if mask.getLsbD e.2 then physOf s e.1 else none

/-- The local flag a halo's receiver waits on (R127; log entry 111). -/
def haloFlag : Nat := 31

/-- The multicast groups of a region that send a job's panels to a core (R116, R124). -/
def groupsOf (s : State) (core j : Nat) : Tbl McastGroup :=
  match tget j s.jobs with
  | none => []
  | some m => (regionOf s (regionOfCore core)).groups.filter fun g =>
      decide (m.mcast.1 ≤ g.1 ∧ g.1 < m.mcast.1 + m.mcast.2) && g.2.plan == m.plan && g.2.part == m.cmd.part && g.2.ports.contains core

/-- Is a group's transfer granted: has every member a free operand-buffer credit (R125)? A core's two operand buffers serve the two
descriptors it holds (log entry 110). -/
def creditsFree (s : State) (g : McastGroup) : Bool := g.ports.all fun p => decide ((coreOf s p).tiles.length < 2)

/-- A panel goes to every member of a core's groups (R124, R125). -/
def sendPanels (core j : Nat) (s : State) : State :=
  (groupsOf s core j).foldl (fun s g =>
    let x := { g.2 with sent := g.2.sent + 1 }
    modRegion (regionOfCore core) (fun r => { r with groups := tput g.1 x r.groups }) s) s

/-- At a tile boundary the ports of a region's groups follow their partition's placement epoch: a reserve's port takes the place of the one
it replaces, and that of a vacant number goes (R126). -/
def refreshGroups (region : Nat) (s : State) : State :=
  modRegion region (fun r => { r with groups := r.groups.map fun g =>
    let e := (partOf s g.2.part).epoch
    if g.2.epoch = e then g else (g.1, { g.2 with ports := groupPorts s g.2.part region g.2.mask, epoch := e }) }) s

/-- Does a core still wait for its halo: is its local flag empty (R127)? -/
def haloDue (s : State) (core : Nat) : Bool := (coreOf s core).haloWait && !(flagOf s core haloFlag).full

/-- A core that waited for its halo takes the signal off its flag. -/
def takeHalo (core : Nat) (s : State) : State :=
  match (coreOf s core).haloWait, logicalOf s core, partOfCore s core with
  | true, some n, some p =>
    let who := Issuer.unit p (unitId s core)
    modCore core (fun c => { c with haloWait := false })
      (onFlag who (BitVec.ofNat 32 (2 ^ 30 + n * 32 + haloFlag)) n haloFlag (applyWait (issuerId s) s.time.now who false 0 0) s)
  | _, _, _ => s

/-- May a brush program's descriptor go to a core's canvases? -/
def mayAccept (s : State) (core : Nat) : Bool :=
  (logicalOf s core).isSome && !(coreOf s core).stopped && !stopDue s core && s.power.cclk == s.power.cclkRun

/-- TILE (R109, R113, R115): the next tile of the core's work, which waits while its region's keeper is taken over (R375), for its halo
(R127) and for the credits of its multicast groups (R125); or a brush program's own, which waits, and blocks the scalar pipe, while the
canvases hold two. An illegal one ends its command with ST_TILE_ILLEGAL, one with rows off their boundaries with ST_BAD_ALIGN (R81). -/
def execTile (core : Nat) (d : TileDesc) (s : State) : Result :=
  onCore core s fun c =>
    if c.work.head? = some d then
      if !mayIssue s core || s.keepers.takingOver.contains (regionOfCore core) || haloDue s core ||
          !(groupsOf s core d.job).all (fun g => creditsFree s g.2) then s
      else if !legalTile d then endJob d.job (ans .tileIllegal) s
      else modCore core (fun c => { c with tiles := c.tiles ++ [{ desc := d }], work := c.work.drop 1 }) (sendPanels core d.job (takeHalo core s))
    else if isMatrixTile s d || !mayAccept s core || c.tileWait.isSome then s
    else if !legalTile d then endJob d.job (ans .tileIllegal) s
    else if !loopsAligned d then endJob d.job (ans .badAlign) s
    else if c.tiles.length < 2 then modCore core (fun c => { c with tiles := c.tiles ++ [{ desc := d }] }) s
    else modCore core (fun c => { c with tileWait := some d }) s

/-! Completion -/

/-- Removes an output's tiles from its job; with none left the command completes with its counts (R58, R307). -/
def outputDone (j item row col : Nat) (s : State) : State :=
  match tget j s.jobs with
  | none => s
  | some m =>
    let todo := m.todo.filter fun e => !(e.2.item == item && e.2.rowOff == row && e.2.colOff == col)
    if todo.isEmpty then endJob j { status := .ok, words := countWords m.nan m.inf } s
    else modMatJob j (fun x => { x with todo := todo }) s

/-- A block of at most 16 × 16 of a list of rows, padded to 256. -/
def blockAt {α : Type} (z : α) (rows : List (List α)) (r c : Nat) : List α :=
  (List.range 16).flatMap fun i => (List.range 16).map fun j => (((rows[r + i]?).getD [])[c + j]?).getD z

/-- The partial tiles of a chunk's output (R41, R121), each with its place in the command's output. -/
def partialsOf (d : TileDesc) (part : Nat) (epoch : BitVec 16) (core : Nat) (nrm : List (List Lane)) (ex : List (List XAcc)) : List Partial :=
  (List.range (ceilDiv d.mt 16)).flatMap fun i => (List.range (ceilDiv d.nt 16)).map fun j =>
    { job := d.job, part := part, epoch := epoch, core := core, item := d.item, row := d.rowOff + 16 * i, col := d.colOff + 16 * j
      chunk := d.chunk, chunks := d.chunks, pieces := if d.exact then 4 else 1, space := accSpace d
      data := if d.exact then [] else blockAt 0 nrm (16 * i) (16 * j), exact := if d.exact then blockAt {} ex (16 * i) (16 * j) else [] }

/-- The results of a finished tile leave the canvases: to memory through the epilogue, to the combining unit as partials, or
nowhere while its K walk goes on (R120, R121). -/
def leaveTile (core : Nat) (d : TileDesc) (m : MatJob) (it : MatItem) (nrm : List (List Lane)) (ex : List (List XAcc)) (s : State) : State :=
  if !d.lastK then s
  else if d.chunks ≤ 1 then
    let rows := if d.exact then resultsExact s m it d.rowOff d.colOff ex else resultsNormal s m it d.rowOff d.colOff nrm
    outputDone d.job d.item d.rowOff d.colOff (writeOutputs d.job m it core d.rowOff d.colOff rows s)
  else
    modCore core (fun c => { c with partials := c.partials ++ partialsOf d m.cmd.part (partOf s m.cmd.part).epoch core nrm ex }) s

/-- Counts gated products of a region (R94). -/
def countGated (core n : Nat) (s : State) : State :=
  modPower (fun p => { p with zgate := lmod (regionOfCore core) (fun x => (x + n) % 2 ^ 64) p.zgate }) s

/-- Ends the command of a tile that read a poisoned operand (R367). -/
def endPoisoned (core : Nat) (d : TileDesc) (region addr : Nat) (s : State) : State :=
  endJob d.job (ans .poisoned region) (notePoisoned core region addr (modCore core (fun c => { c with tiles := c.tiles.drop 1 }) s))

/-- Runs a tile to its end: its running values, their write-back, and where the results go. -/
def completeTile (core : Nat) (d : TileDesc) (upset : List (Nat × Nat)) (s : State) : State :=
  let job := tget d.job s.jobs
  let conv := job.bind (·.conv)
  let it := (job.bind fun m => m.items[d.item]?).getD { a := 0, b := 0, d := 0, m := 0 }
  let nrm := if d.exact then [] else upsetNormal s upset (tileNormal s core conv d)
  let ex := if d.exact then upsetExact s upset (tileExact s core conv d it) else []
  let s1 := countGated core (gatedProducts s conv d) (if upset.isEmpty then s else { s with free := s.free + 0x20000 })
  let s2 := if d.exact then storeExact core d ex s1 else storeNormal core d nrm s1
  let s3 := modCore core (fun c => { c with tiles := c.tiles.drop 1 }) s2
  match job with
  | some m => if m.isBrush then s3 else leaveTile core d m it nrm ex s3
  | none => s3

/-! Faults (R75, R101 to R103, R366, R367) -/

/-- Counts a compute fault of a core (R75) and of its region: four within 60 s raise a fog warning (R378). -/
def countFault (core : Nat) (s : State) : State :=
  let r := regionOfCore core
  let recent := ((tgetD r [] s.units.compute).filter fun t => s.time.now.toNat < t.toNat + 60000000000) ++ [s.time.now]
  let s1 := modCore core (fun c => { c with computeFaults := c.computeFaults + 1 }) (modUnits (fun u => { u with compute := tput r recent u.compute }) s)
  if 4 ≤ recent.length then fogWarning 0 (0x400 + 2 * r) s1 else s1

/-- A core's tiles go back to its work as not started. -/
def unstart (core : Nat) (s : State) : State :=
  modCore core (fun c => { c with tiles := [], work := (c.tiles.map (·.desc)) ++ c.work }) s

/-- A compute fault of a core's oldest tile (R75, R101 to R103): the tile is restored for reissue, is left not started where a
pre-emption waits, or after two reissues the core stops and reports the fault to its block's error handler. -/
def tileFault (core : Nat) (t : RunTile) (s : State) : State :=
  let s1 := countFault core s
  if 2 ≤ t.reissues then
    modCore core (fun c => { c with stopped := true })
      (raiseReport 1 (blockOfCore core) (.persistentCore core) s1)
  else if stopDue s core then unstart core s1
  else
    note 0x0102 (fun e => { e with
      part := (partOfCore s core).getD 0xFF, source := core, inc := incOf s core
      arg := BitVec.ofNat 64 ((logicalOf s core).getD 0) })
      (modCore core (fun c => { c with tiles := { t with restoring := true, upset := [] } :: c.tiles.drop 1 }) s1)

/-- COMPUTE_FAULT: what a core's checks find. An error in a column's sum is a fault where the residues disagree (R74); one they miss stays
in the column's cells, whose values are then free. Two different copies of the FP32 stage of a normal-mode tile are a fault. A poisoned
operand ends the command; a palette's own poison also takes its row for repair (R367, R377). -/
def execComputeFault (core : Nat) (source : FaultSource) (s : State) : Result :=
  onCore core s fun c =>
    match c.tiles with
    | [] => s
    | t :: rest =>
      match source with
      | .memory region addr => endPoisoned core t.desc region addr s
      | .palette off =>
        endPoisoned core t.desc (regionOfCore core) off (takeOffline .palette (core * 0x200000 + off) 1 s)
      | .residue pass column delta =>
        if residueMismatch s ((tget t.desc.job s.jobs).bind (·.conv)) t.desc pass column delta then tileFault core t s
        else if delta = 0 then s
        else modCore core (fun c => { c with tiles := { t with upset := t.upset ++ columnCells t.desc column } :: rest }) s
      | .duplicate stage copy => if t.desc.exact || stage == copy then s else tileFault core t s

/-! Completion -/

/-- May a core's oldest tile not run its passes: does a partial that waits for a credit hold the accumulator space they need (R42)? -/
def spaceHeld (c : Core) (d : TileDesc) : Bool :=
  c.partials.any fun p => decide (p.space.1 < (accSpace d).2 ∧ (accSpace d).1 < p.space.2)

/-- A descriptor a brush program waits with goes to the canvases when they hold fewer than two (R109). -/
def takeWaiting (core : Nat) (s : State) : State :=
  modCore core (fun c =>
    match c.tileWait with
    | some d => if c.tiles.length < 2 then { c with tiles := c.tiles ++ [{ desc := d }], tileWait := none } else c
    | none => c) s

/-- What follows at a core's tile boundary: a stop (R100), the accesses to its accumulator memory that waited (R144), its region's group
ports (R126), and a program's waiting descriptor (R109). -/
def tileBoundary (core : Nat) (stop : Bool) (s : State) : State :=
  takeWaiting core (refreshGroups (regionOfCore core) (drainAccWaits core (if stop then unstart core s else s)))

/-- TILE_COMPLETION (R42, R74, R83, R100, R144): the oldest tile of a core completes. A true-colour tile that continues an element whose
residue disagrees has a compute fault instead. -/
def execTileCompletion (core : Nat) (s : State) : Result :=
  onCore core s fun c =>
    match c.tiles with
    | [] => s
    | t :: _ =>
      if t.restoring || spaceHeld c t.desc then s
      else if readOutBad s core t.desc then tileFault core t s
      else
        match tilePoison s ((tget t.desc.job s.jobs).bind (·.conv)) t.desc with
        | some a => tileBoundary core false (endPoisoned core t.desc (destRegion (a % 2 ^ 47)) a s)
        | none => tileBoundary core (stopDue s core) (completeTile core t.desc t.upset s)

/-- TILE_REISSUE (R101, R102): the start state is restored and the tile reissued, or left not started where a pre-emption
arrived meanwhile. -/
def execTileReissue (core : Nat) (s : State) : Result :=
  onCore core s fun c =>
    match c.tiles with
    | t :: rest =>
      if !t.restoring then s
      else if stopDue s core then unstart core s
      else modCore core (fun c => { c with tiles := { t with restoring := false, reissues := t.reissues + 1 } :: rest }) s
    | [] => s

/-! Partial tiles (R41 to R43, R121, R358) -/

/-- Pieces of one core in its region's input buffer. -/
def bufferedOf (s : State) (core : Nat) : Nat :=
  ((tgetD (regionOfCore core) ([], []) s.combine).1.filter fun p => p.core == core).length

/-- PARTIAL_TILE_DELIVERY: one 1 KiB piece, against a credit. A piece's PIECES counts those that follow it. -/
def execPartialTileDelivery (core : Nat) (s : State) : Result :=
  onCore core s fun c =>
    match c.partials with
    | [] => s
    | p :: rest =>
      if c.credits = 0 then s
      else
        let s1 := modCore core (fun c => { c with
          credits := c.credits - 1, partials := if p.pieces ≤ 1 then rest else { p with pieces := p.pieces - 1 } :: rest }) s
        { s1 with combine := tmod (regionOfCore core) ([], []) (fun b => (b.1 ++ [{ p with pieces := p.pieces - 1 }], b.2)) s1.combine }

/-- COMBINE_CREDIT_RETURN: a credit no buffered piece holds. -/
def execCombineCreditReturn (core : Nat) (s : State) : Result :=
  onCore core s fun c =>
    if c.credits + bufferedOf s core < 2 then modCore core (fun c => { c with credits := c.credits + 1 }) s else s

def sameOut (p : Partial) (x : Combining) : Bool := x.job == p.job && x.item == p.item && x.row == p.row && x.col == p.col

/-- The next chunk of a partial's output. -/
def nextChunk (sums : List Combining) (p : Partial) : Nat :=
  match sums.find? (sameOut p) with
  | some x => x.next
  | none => 0

/-- Is a partial stale: its epoch is not its partition's, or its command or output is done (R121, R358)? -/
def isStale (s : State) (p : Partial) : Bool :=
  p.epoch != (partOf s p.part).epoch ||
    (match tget p.job s.jobs with
     | some m => m.donePieces.contains (p.item, p.row, p.col)
     | none => true)

/-- Adds a partial to a running sum (R121): FP32 rounded once each, true colour as integers with their flags. -/
def addPartial (p : Partial) (x : Combining) : Combining :=
  { x with
    next := x.next + 1
    data := if p.chunk = 0 then p.data else (x.data.zip p.data).map fun e => round32 (addV (val32 e.1) (val32 e.2))
    exact := if p.chunk = 0 then p.exact else (x.exact.zip p.exact).map fun e => mergeExact e.1 e.2 }

/-- The tile of a job's unfinished outputs that holds a partial. -/
def tileOfPiece (m : MatJob) (p : Partial) : Option (Nat × TileDesc) :=
  m.todo.find? fun e => e.2.item == p.item && e.2.chunk == 0 && decide (e.2.rowOff ≤ p.row) && decide (p.row < e.2.rowOff + e.2.mt) &&
    decide (e.2.colOff ≤ p.col) && decide (p.col < e.2.colOff + e.2.nt)

/-- The rows of a 16 × 16 partial that lie in its tile. -/
def pieceRows {α : Type} (z : α) (d : TileDesc) (row col : Nat) (l : List α) : List (List α) :=
  (List.range (min 16 (d.rowOff + d.mt - row))).map fun i => (List.range (min 16 (d.colOff + d.nt - col))).map fun j => (l[16 * i + j]?).getD z

/-- A combined sum reaches its home core (R121): the epilogue runs once, and the output tile is done with its last piece. -/
def homeSum (p : Partial) (x : Combining) (s : State) : State :=
  match tget p.job s.jobs with
  | none => s
  | some m =>
    match tileOfPiece m p with
    | none => s
    | some e =>
      let d := e.2
      let it := (m.items[p.item]?).getD { a := 0, b := 0, d := 0, m := 0 }
      let home := (physOf s e.1).getD p.core
      let rows := if m.exact then resultsExact s m it p.row p.col (pieceRows {} d p.row p.col x.exact)
        else resultsNormal s m it p.row p.col (pieceRows 0 d p.row p.col x.data)
      let s1 := modMatJob p.job (fun y => { y with donePieces := (p.item, p.row, p.col) :: y.donePieces }) (writeOutputs p.job m it home p.row p.col rows s)
      let left := (List.range (ceilDiv d.mt 16)).any fun i => (List.range (ceilDiv d.nt 16)).any fun k =>
        let q := (p.item, d.rowOff + 16 * i, d.colOff + 16 * k)
        q != (p.item, p.row, p.col) && !m.donePieces.contains q
      if left then s1 else outputDone p.job p.item d.rowOff d.colOff s1

/-- COMBINE_ACCEPT (R41, R43): a stale piece is dropped and counted; else the first piece whose chunk is its output's next is
accepted, and the last piece of a partial adds it. -/
def execCombineAccept (region : Nat) (s : State) : Result :=
  let b := tgetD region ([], []) s.combine
  onRegion region
    (match b.1.find? (isStale s) with
     | some p =>
       modPart p.part (fun q => { q with staleDrops := q.staleDrops + 1 })
         { s with combine := tput region (dropFirst (· == p) b.1, b.2) s.combine }
     | none =>
       match b.1.find? (fun p => nextChunk b.2 p == p.chunk) with
       | none => s
       | some p =>
         let buf := dropFirst (· == p) b.1
         if p.pieces ≠ 0 then { s with combine := tput region (buf, b.2) s.combine }
         else
           let x := addPartial p ((b.2.find? (sameOut p)).getD { job := p.job, item := p.item, row := p.row, col := p.col, next := 0, data := [], exact := [] })
           let others := b.2.filter fun y => !sameOut p y
           if x.next < p.chunks then { s with combine := tput region (buf, others ++ [x]) s.combine }
           else homeSum p x { s with combine := tput region (buf, others) s.combine })

/-! Reissue after an epoch advance (R358, R359) -/

/-- The logical number that runs a vacant number's work: the partition's next active one of the same region, ascending and
wrapping. -/
def standIn (s : State) (part n : Nat) : Option Nat :=
  let same := (logicalsOf s part).filter fun k => k / 100 == n / 100
  match same.find? (fun k => n < k) with
  | some k => some k
  | none => same.head?

/-- A job's unfinished tiles with those of a vacant number moved to its stand-in, after the stand-in's own. -/
def moveTodo (vacant : Nat) (dest : Option Nat) (todo : List (Nat × TileDesc)) : List (Nat × TileDesc) :=
  match dest with
  | some t => (todo.filter fun e => e.1 != vacant) ++ ((todo.filter fun e => e.1 == vacant).map fun e => (t, e.2))
  | none => todo

/-- Reissues what a job has unfinished, under the new epoch: every tile of a split-K output, and the tiles of the numbers that
moved. -/
def reissueJob (j : Nat) (moved : List Nat) (m : MatJob) (s : State) : State :=
  let again := m.todo.filter fun e => 1 < e.2.chunks || moved.contains e.1
  let mine := fun (d : TileDesc) => again.any fun e => e.2 == d
  let strip := fun (c : Core) =>
    { c with tiles := c.tiles.filter (fun t => !mine t.desc), work := c.work.filter (fun d => !mine d), partials := c.partials.filter fun p => p.job != j }
  let s1 := { s with
    cores := s.cores.map fun e => (e.1, strip e.2)
    combine := s.combine.map fun e => (e.1, (e.2.1, e.2.2.filter fun x => x.job != j)) }
  again.foldl (fun s e =>
    match physOf s e.1 with
    | some p => modCore p (fun c => { c with work := c.work ++ [e.2] }) s
    | none => s) s1

end Sys2Proof.Machine
end

