-- ==== Sys2Proof/Machine/ComputeOps.lean ====
section
/-! DEFINITION. How a matrix command issues (R61, R63, R72, R81, R90, R91, R115 to R120, R130 to R136, R310): its checks in
order, the exponent pre-pass, and the tiles given to the cores. -/

namespace Sys2Proof.Machine

/-- A command's plan and template (R310): the plan must be loaded in its partition. -/
def planOf (s : State) (part : Nat) (plan template : Nat) : Option (Plan × Template) :=
  match tget plan s.plans with
  | some p => if p.part = part then (p.body.templates[template]?).map fun t => (p, t) else none
  | none => none

/-- Bytes an operand of m rows by k columns of a format spans. -/
def operandBytes (code m k : Nat) : Nat := elemBytes code (m * k)

/-- Does an operand lie in the partition and its target region (R150, R152)? -/
def operandOk (s : State) (part addr bytes : Nat) : Bool := bytes == 0 || (localRange s part addr bytes).isSome

/-- Do an operand's stored rows start where R81 asks: on a group for a sub-byte format, on 2 bytes for a 16-bit one? -/
def rowsAligned (code addr pitch rows : Nat) : Bool :=
  (rows ≤ 1 || pitch % groupOf code == 0) && (elemBits code != 16 || addr % 2 == 0)

/-! The exponent pre-pass (R59 to R63) -/

/-- Top exponent of an operand element, its block scale added. -/
def opTop (s : State) (addr scale code idx sidx : Nat) : Option Int :=
  let sc := if isMx code then readNum s (scale + sidx) 1 else 127
  if sc = 255 then none else topExp code sc (decodeElem code (readElem s addr code idx))

def padTop (code : Nat) (pad : BitVec 32) : Option Int := topExp code 127 (padVal code pad)

/-- Top exponents of row i of A over the padded K extent. -/
def rowTops (s : State) (conv : Option ConvParams) (d : TileDesc) (k kPad i : Nat) : List (Option Int) :=
  (List.range kPad).map fun q =>
    if k ≤ q then padTop d.fmtA d.padA
    else match conv with
      | some p =>
        match convIndex p i q with
        | some e => opTop s d.aAddr d.aScale d.fmtA e (e / 32)
        | none => padTop d.fmtA d.padA
      | none => opTop s d.aAddr d.aScale d.fmtA (storedIndex d.axisA d.lda i q) (scaleIndexA d.axisA d.lda i q)

/-- Top exponents of column j of B. -/
def colTops (s : State) (d : TileDesc) (k kPad j : Nat) : List (Option Int) :=
  (List.range kPad).map fun q =>
    if k ≤ q then padTop d.fmtB d.padB
    else opTop s d.bAddr d.bScale d.fmtB (storedIndex (!d.axisB) d.ldb j q) (scaleIndexA (!d.axisB) d.ldb j q)

/-- The guard sum of a row or column in units of 2^-40 (R63). -/
def guardSum (l : List (Option Int)) : Nat :=
  match topOf l with
  | none => 0
  | some r => (l.map fun x => match x with | some t => if t - r < -40 then 1 else 2 ^ (40 + (t - r)).toNat | none => 0).sum

/-- Some output element needs more than 16 guard bits (R63), by the guard sums of the rows and the columns. -/
def exceedsGuard (rows cols : List Nat) : Bool := rows.any (fun x => decide (2 ^ 56 < x)) && cols.any (fun x => decide (2 ^ 56 < x))

/-- The exponent vector entry and the guard sum of row i of A and of column j of B (R61, R63). -/
def rowInfo (s : State) (conv : Option ConvParams) (d : TileDesc) (k kPad i : Nat) : BitVec 32 × Nat :=
  let tops := rowTops s conv d k kPad i
  (expEntry tops ((List.range kPad).map fun q => if k ≤ q then padVal d.fmtA d.padA else elemA s conv d i q), guardSum tops)
def colInfo (s : State) (d : TileDesc) (k kPad j : Nat) : BitVec 32 × Nat :=
  let tops := colTops s d k kPad j
  (expEntry tops ((List.range kPad).map fun q => if k ≤ q then padVal d.fmtB d.padB else elemB s d q j), guardSum tops)

/-- Does an address lie in a weight slot of a partition (R279)? -/
def inSlot (s : State) (w : WeightSlot) (addr : Nat) : Bool :=
  w.state != .empty && addr / 2 ^ 47 == ownModule s && decide (w.addr ≤ addr % 2 ^ 47 ∧ addr % 2 ^ 47 < w.addr + w.bytes)
def inWeights (s : State) (part addr : Nat) : Bool :=
  (partOf s part).gens.layers.any fun e => inSlot s e.2.active addr || inSlot s e.2.standby addr

/-- Is a cached vector that of a descriptor's B operand? -/
def vectorOf (d : TileDesc) (n k kPad : Nat) (v : WeightVec) : Bool :=
  v.b == d.bAddr && v.scale == d.bScale && v.ld == d.ldb && v.n == n && v.k == k && v.kPad == kPad && v.axis == d.axisB && v.fmt == d.fmtB && v.pad == d.padB

/-- The column vectors of a product (R61): the cached ones of a weight operand, else those of the pre-pass. -/
def colsOf (s : State) (part : Nat) (weights : Bool) (d : TileDesc) (n k kPad : Nat) : List (BitVec 32 × Nat) :=
  match if weights then (partOf s part).gens.vectors.find? (vectorOf d n k kPad) else none with
  | some v => v.cols
  | none => (List.range n).map fun j => colInfo s d k kPad j

/-- A weight operand's column vectors are cached with its generation (R61). -/
def cacheVector (part : Nat) (weights : Bool) (d : TileDesc) (n k kPad : Nat) (cols : List (BitVec 32 × Nat)) (s : State) : State :=
  if weights && inWeights s part d.bAddr && !(partOf s part).gens.vectors.any (vectorOf d n k kPad) then
    let v : WeightVec := { b := d.bAddr, scale := d.bScale, ld := d.ldb, n := n, k := k, kPad := kPad, axis := d.axisB, fmt := d.fmtB, pad := d.padB, cols := cols }
    modPart part (fun p => { p with gens := { p.gens with vectors := p.gens.vectors ++ [v] } }) s
  else s

/-- A weight operand's column vectors as the pre-pass forms them from what memory holds at an address. -/
def vectorAt (s : State) (v : WeightVec) (b : Nat) : WeightVec :=
  let kPad := v.kPad
  let d : TileDesc :=
    { job := 0, item := 0, mt := 0, nt := 0, kt := 0, shape := .auto, fmtA := 0, fmtB := v.fmt, aAddr := 0, bAddr := b, aScale := 0
      bScale := v.scale, lda := 0, ldb := v.ld, axisA := false, axisB := v.axis, padA := 0, padB := v.pad, rowOff := 0, colOff := 0
      kOff := 0, chunk := 0, chunks := 1, lastK := true, accContinue := false, exact := true, betaNonzero := false, biasPresent := false
      fmtOut := 0, fmtC := 0, fmtBias := 0, accBase := 0, swapped := false }
  { v with b := b, cols := (List.range v.n).map fun j => colInfo s d v.k kPad j }

/-- The pre-pass of a layer's marked weights (R61, R283): vectors its active slot's operands have are formed for the same operands of the
image that stands beside it. -/
def prePassLayer (part : Nat) (l : Layer) (s : State) : State :=
  let vs := (partOf s part).gens.vectors
  let fresh := (vs.filter fun v => inSlot s l.active v.b).map fun v => vectorAt s v (v.b - l.active.addr + l.standby.addr)
  modPart part (fun p => { p with gens := { p.gens with vectors := (vs.filter fun v => !inSlot s l.standby v.b) ++ fresh } }) s

/-- Weights that are rewritten lose their cached vectors (R61). -/
def dropVectors (part : Nat) (w : WeightSlot) (s : State) : State :=
  modPart part (fun p => { p with gens := { p.gens with vectors := p.gens.vectors.filter fun v => !inSlot s w v.b } }) s

/-! Tiles of an item -/

/-- A product to issue: its item, and a descriptor that carries its operands with every extent still open. -/
structure Prod where
  item : MatItem
  base : TileDesc
  deriving DecidableEq, Repr

/-- A descriptor with a template's formats and one product's operands. -/
def baseDesc (j : Nat) (t : Template) (h : ComputeHead) (shape : Shape) (a b aScale bScale lda ldb : Nat) (exact swapped beta bias : Bool) : TileDesc :=
  { job := j, item := 0, mt := 0, nt := 0, kt := 0, shape := shape, fmtA := t.fmtA, fmtB := t.fmtB, aAddr := a, bAddr := b
    aScale := aScale, bScale := bScale, lda := lda, ldb := ldb, axisA := h.axisA, axisB := h.axisB, padA := t.padA, padB := t.padB
    rowOff := 0, colOff := 0, kOff := 0, chunk := 0, chunks := 1, lastK := true, accContinue := false, exact := exact
    betaNonzero := beta, biasPresent := bias, fmtOut := t.fmtOut, fmtC := t.fmtC, fmtBias := t.fmtBias, accBase := 0, swapped := swapped }

/-- The tiles of one product on a placed grid (R119, R120), by logical number. -/
def tilesOf (cand : Candidate) (ps : List (Nat × Nat × Nat × Nat)) (bm bn bk n k : Nat) (item : Nat) (p : Prod) : List (Nat × TileDesc) :=
  let chunks := if cand.gk = 1 then 1 else ceilDiv k (chunkSize bk cand.gk)
  ps.flatMap fun q => (cuts cand bm bn bk p.item.m n k q.1 q.2.1 q.2.2.1).map fun u =>
    (q.2.2.2, { p.base with
      item := item, mt := u.mt, nt := u.nt, kt := u.kt, rowOff := u.row, colOff := u.col, kOff := u.k, chunk := q.2.2.1, chunks := chunks
      lastK := u.lastK, accContinue := u.cont })

/-- Gives each core its tiles, after those it already has. -/
def giveWork (todo : List (Nat × TileDesc)) (s : State) : State :=
  todo.foldl (fun s e =>
    match physOf s e.1 with
    | some p => modCore p (fun c => { c with work := c.work ++ [e.2] }) s
    | none => s) s

/-- Arms a template's prefetch hint (R154). -/
def armHint (job part : Nat) (h : Hint) (s : State) : State :=
  if 8 ≤ h.region then s else modRegion h.region (addHint h job part) s

/-! The commands' shared path -/

/-- What a matrix command hands to issue; startsOk says that its batches start on group boundaries (R81). -/
structure MatCmd where
  c : Cmd
  plan : Plan
  t : Template
  h : ComputeHead
  n : Nat
  k : Nat
  sizeM : Nat
  epi : EpiParams
  conv : Option ConvParams
  prods : List (MatItem × Nat × Nat)
  lda : Nat
  ldb : Nat
  startsOk : Bool := true
  deriving DecidableEq, Repr

/-- The row pitch of a product's A: under AXIS_A the rows of the product itself (R80; log entry 109), of a CONV its channels. -/
def pitchA (m : MatCmd) (rows : Nat) : Nat := if m.h.axisA && m.conv.isNone then rows else m.lda

/-- Is beta nonzero, is there a bias? -/
def hasBeta (e : EpiParams) : Bool := !isZero32 e.beta

/-- Does R89 run the command as the transposed product? -/
def isSwapped (m : MatCmd) : Bool := m.n == 1 && m.sizeM != 1

/-- The job of a command (R310). -/
def jobOfMat (m : MatCmd) (items : List MatItem) (todo : List (Nat × TileDesc)) (id : Nat) : MatJob :=
  { cmd := m.c, plan := id, template := m.t, head := m.h, n := m.n, k := m.k, bias := m.epi.bias, alpha := m.epi.alpha, beta := m.epi.beta
    seed := m.epi.seed, stream := m.epi.stream, exact := m.c.trueColour, conv := m.conv, items := items, todo := todo }

/-- K = 0 (R91): every output is the epilogue of +0, and the reply sets K_ZERO. -/
def issueKZero (m : MatCmd) (id : Nat) (s : State) : State :=
  let j := s.nextJob
  let items := m.prods.map (·.1)
  let job := jobOfMat m items [] id
  let core := (physOf s ((logicalsOf s m.c.part).headD 0)).getD 0
  let s1 := { s with nextJob := j + 1, jobs := tput j job s.jobs }
  let s2 := items.foldl (fun s it =>
    writeOutputs j job it core 0 0 ((List.range it.m).map fun i => (List.range m.n).map fun c => normalResult s job it i c 0) s) s1
  let counts := (tget j s2.jobs).getD job
  endJob j { status := .ok, detail := 1, words := countWords counts.nan counts.inf } s2

/-! Multicast groups and halos at issue (R116, R124, R127) -/

/-- The regions a candidate's positions lie in. -/
def regionsOfGrid (ps : List (Nat × Nat × Nat × Nat)) : List Nat := (List.range 8).filter fun r => ps.any fun p => p.2.2.2 / 100 == r

/-- Sets the groups a candidate uses in the switches of its regions, as its plan's masks name them (R116, R124; log entry 110). -/
def setGroups (part id : Nat) (masks : List (Nat × Nat × BitVec 128)) (cand : Candidate) (regions : List Nat) (s : State) : State :=
  (masks.filter fun g => regions.contains g.1 && decide (cand.mcastFirst ≤ g.2.1 ∧ g.2.1 < cand.mcastFirst + cand.mcastCount)).foldl
    (fun s g =>
      let x : McastGroup := { part := part, plan := id, mask := g.2.2, ports := groupPorts s part g.1 g.2.2, epoch := (partOf s part).epoch }
      modRegion g.1 (fun r => { r with groups := tput g.2.1 x r.groups }) s) s

/-- The input rows a core needs beyond its part's last output row: DH × (KH − 1) rows from its neighbour's first (R127), as the address of
their first byte and their bytes. -/
def haloRows (p : ConvParams) (fmt row : Nat) : Nat × Nat :=
  let oh := (p.h + p.pt + p.pb - p.dh * (p.kh - 1) - 1) / p.sh + 1
  let ow := (p.w + p.pl + p.pr - p.dw * (p.kw - 1) - 1) / p.sw + 1
  let first := row / ow % oh * p.sh - p.pt
  let rows := min (p.dh * (p.kh - 1)) (p.h - first)
  let img := row / (ow * oh)
  (p.input + elemBytes fmt ((img * p.h + first) * p.w * p.c), elemBytes fmt (rows * p.w * p.c))

/-- A core's halo leaves its neighbour's DMA port as P3 writes to the receiver's operand area, and the signal to the receiver's flag follows
them (R127; log entry 111). -/
def sendHalo (part fmt : Nat) (p : ConvParams) (row recv sender : Nat) (s : State) : State :=
  match physOf s recv, physOf s sender with
  | some r, some q =>
    let h := haloRows p fmt row
    let bytes := readGlobal s h.1 h.2
    let head : Pkt := { type := .write, src := ownModule s, dst := ownModule s, cls := 3, subch := 0, hops := 0, plane := 0, srcUnit := q
                        srcInc := incOf s q, part := part, arg := 0, arg2 := 0, data := [], dstUnit := r }
    let s1 := (List.range (ceilDiv h.2 512)).foldl (fun s i =>
      send { head with arg := BitVec.ofNat 64 (0x10000000000 + recv * 0x200000 + 512 * i), data := (bytes.drop (512 * i)).take 512 } s) s
    modCore r (fun c => { c with haloWait := true })
      (send { head with type := .signal, cls := 1, arg := BitVec.ofNat 64 (2 ^ 30 + recv * 32 + haloFlag), arg2 := 1 } s1)
  | _, _ => s

/-- The halos of a command under a HALO candidate: each position with a part of rows after it receives from the one that runs that part (R127). -/
def sendHalos (part fmt : Nat) (p : ConvParams) (cand : Candidate) (bm : Nat) (ps : List (Nat × Nat × Nat × Nat)) (s : State) : State :=
  if !cand.halo then s
  else ps.foldl (fun s x =>
    match ps.find? fun y => y.1 == x.1 + 1 && y.2.1 == x.2.1 && y.2.2.1 == x.2.2.1 && hasRows cand bm y.1 with
    | some y => sendHalo part fmt p (y.1 * partSize bm cand.gm) x.2.2.2 y.2.2.2 s
    | none => s) s

/-- The descriptor a product's tiles are cut from, and its padded K extent. -/
def descOf (m : MatCmd) (j : Nat) (cand : Candidate) (p : MatItem × Nat × Nat) : TileDesc :=
  baseDesc j m.t m.h (if m.t.shape = .auto then cand.shape else m.t.shape) p.1.a p.1.b p.2.1 p.2.2 (pitchA m p.1.m) m.ldb m.c.trueColour (isSwapped m)
    (hasBeta m.epi) (m.epi.bias != 0)
def kPadOf (m : MatCmd) : Nat := ceilDiv m.k (pairDepth m.t.fmtA m.t.fmtB) * pairDepth m.t.fmtA m.t.fmtB

/-- The row and column vectors of a product's pre-pass (R61). -/
def rowVecs (s : State) (m : MatCmd) (j : Nat) (cand : Candidate) (p : MatItem × Nat × Nat) : List (BitVec 32 × Nat) :=
  (List.range p.1.m).map fun i => rowInfo s m.conv (descOf m j cand p) m.k (kPadOf m) i
def colVecs (s : State) (m : MatCmd) (j : Nat) (cand : Candidate) (p : MatItem × Nat × Nat) : List (BitVec 32 × Nat) :=
  colsOf s m.c.part m.t.weightsB (descOf m j cand p) m.n m.k (kPadOf m)

/-- The products of a command with their windows (R60, R61). -/
def prodsOf (s : State) (m : MatCmd) (j : Nat) (cand : Candidate) : List Prod :=
  m.prods.map fun p =>
    { item := if m.c.trueColour then { p.1 with rows := (rowVecs s m j cand p).map (·.1), cols := (colVecs s m j cand p).map (·.1) } else p.1
      base := descOf m j cand p }

/-- All tiles of a command by logical number. -/
def todoOf (s : State) (m : MatCmd) (j : Nat) (cand : Candidate) (bm bn bk : Nat) : List (Nat × TileDesc) :=
  (prodsOf s m j cand).zipIdx.flatMap fun e => tilesOf cand (positions cand (logicalsOf s m.c.part)) bm bn bk m.n m.k e.2 e.1

/-- Does true colour refuse the command before it runs (R63)? -/
def rangeExceeded (s : State) (m : MatCmd) (j : Nat) (cand : Candidate) : Bool :=
  m.c.trueColour && m.prods.any fun p => exceedsGuard ((rowVecs s m j cand p).map (·.2)) ((colVecs s m j cand p).map (·.2))

/-- Issues the tiles of a command under a candidate (R119, R120), with its windows where it runs in true colour. With an illegal tile among
them nothing of the command is executed (R87, R115). -/
def issueTiles (m : MatCmd) (id : Nat) (cand : Candidate) (bm bn bk : Nat) (s : State) : State :=
  let j := s.nextJob
  let todo := todoOf s m j cand bm bn bk
  if rangeExceeded s m j cand then finish m.c (ans .exactRange) s
  else if todo.any fun e => !legalTile e.2 then finish m.c (ans .tileIllegal) s
  else
    let ps := positions cand (logicalsOf s m.c.part)
    let job := { jobOfMat m ((prodsOf s m j cand).map (·.item)) todo id with mcast := (cand.mcastFirst, cand.mcastCount) }
    let s1 := { s with nextJob := j + 1, jobs := tput j job s.jobs }
    if todo.isEmpty then endJob j { status := .ok, words := countWords 0 0 } s1
    else
      let s2 := if m.c.trueColour then
          m.prods.foldl (fun x p => cacheVector m.c.part m.t.weightsB (descOf m j cand p) m.n m.k (kPadOf m) (colVecs s m j cand p) x) s1
        else s1
      let s3 := setGroups m.c.part id m.plan.body.multicast cand (regionsOfGrid ps) (giveWork todo s2)
      let s4 := match m.conv with | some v => sendHalos m.c.part m.t.fmtA v cand bm ps s3 | none => s3
      m.t.hints.foldl (fun s h => armHint j m.c.part h s) s4

/-- Issues a command whose sizes are nonzero and whose operands are in place: buckets, candidate, tiles (R117, R118, R134,
R136). bound is the C of a CONV. -/
def issueMat (m : MatCmd) (id : Nat) (bound : Option Nat) (s : State) : State :=
  match bucketFor m.t.bucketsM m.sizeM, bucketFor m.t.bucketsN m.n, bucketFor m.t.bucketsK m.k with
  | none, _, _ => finish m.c (ans .shapeExceedsPlan 0) s
  | _, none, _ => finish m.c (ans .shapeExceedsPlan 1) s
  | _, _, none => finish m.c (ans .shapeExceedsPlan 2) s
  | some bm, some bn, some bk =>
    if (match bound with | some n => (bucketFor m.t.bucketsC n).isNone | none => false) then finish m.c (ans .shapeExceedsPlan 3) s
    else if m.k = 0 then issueKZero m id s
    else
      let combo := comboOf m.t bm.1 bn.1 bk.1
      match pickIndex s m.c.part id m.h.template combo m.plan m.t bm.2 bn.2 bk.2 with
      | none => finish m.c (ans .tileIllegal 0x0100) s
      | some i =>
        match (candidatesAt m.t combo)[i]? with
        | none => finish m.c (ans .tileIllegal 0x0100) s
        | some cand => issueTiles m id cand bm.2 bn.2 bk.2 (cacheSelection m.c.part id m.h.template combo i s)

/-- The checks every compute command makes of its plan (R310, R368): the plan must be loaded with a template of the command's kind (log
entry 119), and its partition must have the cores it requires. -/
def withPlan (c : Cmd) (plan template : Nat) (kind : Template → Bool) (s : State) (f : Plan → Template → State) : Result :=
  match planOf s c.part plan template with
  | none => done c (ans .planRejected 0x0F00) s
  | some p => if !kind p.2 then done c (ans .planRejected 0x0F00) s
    else if activeCores s c.part < p.1.coresRequired then done c (ans .hwFault) s else .next (f p.1 p.2)

/-- The outer indexes a command's COUNTER draws would need (R72). -/
def drawsExceed (h : ComputeHead) (outer : Nat) : Bool := h.sr && h.srCounter && decide (2 ^ 32 < outer)

/-- A pointer list's own checks (R132). -/
def listCheck (addr count : Nat) : Option (Status × Nat) :=
  if addr % 64 ≠ 0 then some (.badAlign, 0) else if 4096 < count then some (.badLength, 0) else if count = 0 then some (.emptyShape, 0) else none

/-- The operands of the products of a command: alignment, then range (R81, R150, R152; log entry 38). -/
def prodsCheck (s : State) (m : MatCmd) (rowsA rowsB : Nat) : Option (Status × Nat) :=
  if !m.startsOk || m.prods.any fun p => !rowsAligned m.t.fmtA p.1.a (pitchA m p.1.m) rowsA || !rowsAligned m.t.fmtB p.1.b m.ldb rowsB then
    some (.badAlign, 0)
  else if m.prods.any fun p =>
      (m.conv.isNone && !operandOk s m.c.part p.1.a (operandBytes m.t.fmtA p.1.m m.k)) ||
        !operandOk s m.c.part p.1.b (operandBytes m.t.fmtB m.k m.n) || !operandOk s m.c.part p.1.d (operandBytes m.t.fmtOut p.1.m m.n) ||
        (hasBeta m.epi && !operandOk s m.c.part p.1.d (operandBytes m.t.fmtC p.1.m m.n)) ||
        (isMx m.t.fmtA && !operandOk s m.c.part p.2.1 (match m.conv with
          | some v => ceilDiv (v.nb * v.h * v.w * v.c) 32
          | none => p.1.m * ceilDiv m.k 32)) ||
        (isMx m.t.fmtB && !operandOk s m.c.part p.2.2 (ceilDiv m.k 32 * m.n)) ||
        (isMx m.t.fmtOut && !operandOk s m.c.part (p.1.d + m.t.scaleD) (p.1.m * ceilDiv m.n 32)) then some (.badLength, 1)
  else if m.epi.bias ≠ 0 ∧ !operandOk s m.c.part m.epi.bias (elemBytes m.t.fmtBias m.n) then some (.badLength, 1)
  else none

/-- Checks, then issue. -/
def runMat (m : MatCmd) (id rowsA rowsB outer : Nat) (bound : Option Nat) (s : State) : State :=
  if drawsExceed m.h outer then finish m.c (ans .badLength 0xD) s
  else
    match prodsCheck s m rowsA rowsB with
    | some e => finish m.c (ans e.1 e.2) s
    | none => issueMat m id bound s

end Sys2Proof.Machine
end

