-- ==== Sys2Proof/Machine/Compute.lean ====
section
/-! DEFINITION. GEMM, GEMM_BATCHED_PTR, CONV and BRUSH_RUN (R84, R89 to R91, R95 to R98, R127, R130 to R136, R310). -/

namespace Sys2Proof.Machine

/-! GEMM (R84, R130, R131) -/

/-- The products of a GEMM: a batch with B stride zero and contiguous A and C is folded into M, else each batch is its own. -/
def gemmProds (t : Template) (p : GemmParams) : List (MatItem × Nat × Nat) :=
  let folds := t.strideB == 0 && t.strideA == p.m * p.k && t.strideC == p.m * p.n && !p.head.axisA
  if folds ∨ p.batch = 1 then
    [({ a := p.a, b := p.b, d := p.d, m := p.batch * p.m }, p.a + t.scaleA, p.b + t.scaleB)]
  else (List.range p.batch).map fun i =>
    ({ a := p.a + elemBytes t.fmtA (i * t.strideA), b := p.b + elemBytes t.fmtB (i * t.strideB), d := p.d + elemBytes t.fmtOut (i * t.strideC)
       m := p.m, outer := i * p.m },
     p.a + t.scaleA + i * t.strideA / 32, p.b + t.scaleB + i * t.strideB / 32)

/-- GEMM. -/
def execGemm (c : Cmd) (p : GemmParams) (s : State) : Result :=
  withPlan c p.head.plan p.head.template (·.isMatrix) s fun pl t =>
    if 65535 < p.batch then finish c (ans .badLength 0xE) s
    else if p.m = 0 ∨ p.n = 0 ∨ p.batch = 0 then finish c (ans .emptyShape) s
    else
      let prods := gemmProds t p
      let m := (prods.map fun e => e.1.m).headD p.m
      runMat { c := c, plan := pl, t := t, h := p.head, n := p.n, k := p.k, sizeM := m, epi := p.epi, conv := none, prods := prods
               lda := if p.head.axisA then m else p.k, ldb := if p.head.axisB then p.k else p.n
               startsOk := prods.length ≤ 1 || (t.strideA % groupOf t.fmtA == 0 && t.strideB % groupOf t.fmtB == 0) }
        p.head.plan (if p.head.axisA then p.k else m) (if p.head.axisB then p.n else p.k) (p.batch * p.m) none s

/-- GEMM_BATCHED_PTR (R90, R132 to R136): the actual M is the largest ME in the list, NULL entries included; entries with NULL set or no
rows are left out. -/
def execGemmBatchedPtr (c : Cmd) (p : GemmParams) (list count : Nat) (s : State) : Result :=
  withPlan c p.head.plan p.head.template (·.isMatrix) s fun pl t =>
    match listCheck list count with
    | some e => finish c (ans e.1 e.2) s
    | none =>
      if p.n = 0 then finish c (ans .emptyShape) s
      else
        match localRange s c.part list (32 * count) with
        | none => finish c (ans .badLength 1) s
        | some r =>
          if readsPoison s r.1 r.2 (32 * count) then finish c (ans .poisoned) s
          else
            let entries := (List.range count).map fun i => readGlobal s (list + 32 * i) 32
            let live := entries.filter fun e => !(BitVec.ofNat 8 (fieldAt e 26 1)).getLsbD 0 && fieldAt e 24 2 != 0
            let items := live.foldl (fun (acc : List MatItem × Nat) e =>
              (acc.1 ++ [{ a := fieldAt e 0 8, b := fieldAt e 8 8, d := fieldAt e 16 8, m := fieldAt e 24 2, outer := acc.2 }], acc.2 + fieldAt e 24 2)) ([], 0)
            let m := maxOf (entries.map fun e => fieldAt e 24 2)
            let ld := fun (i : MatItem) => (i, i.a + t.scaleA, i.b + t.scaleB)
            if m = 0 then finish c (ans .emptyShape) s else
            runMat { c := c, plan := pl, t := t, h := p.head, n := p.n, k := p.k, sizeM := m, epi := p.epi, conv := none, prods := items.1.map ld
                     lda := if p.head.axisA then m else p.k, ldb := if p.head.axisB then p.k else p.n }
              p.head.plan (if p.head.axisA then p.k else m) (if p.head.axisB then p.n else p.k) items.2 none s

/-! CONV (R95 to R98, R127) -/

/-- Output height or width of R96; none where it is not positive. -/
def convOut (size padLo padHi dil ker stride : Nat) : Nat :=
  let x : Int := (size + padLo + padHi : Nat) - (dil * (ker - 1) + 1 : Nat)
  if x < 0 then 0 else x.toNat / stride + 1

/-- Are a CONV's parameters in range (R95, R98, R127)? -/
def convRange (t : Template) (p : ConvParams) : Bool :=
  let within := fun (lo hi n : Nat) => decide (lo ≤ n) && decide (n ≤ hi)
  within 1 7 p.kh && within 1 7 p.kw && within 1 8 p.sh && within 1 8 p.sw && within 1 8 p.dh && within 1 8 p.dw &&
    within 0 6 p.pt && within 0 6 p.pb && within 0 6 p.pl && within 0 6 p.pr && within 1 65535 p.c && within 1 65535 p.oc &&
    (!isMx t.fmtA || p.c % 32 == 0) &&
    (match t.staticKH with | some k => k == p.kh | none => true) && (match t.staticDH with | some k => k == p.dh | none => true)

/-- CONV: the product of its implicit patch matrix and its weights. -/
def execConv (c : Cmd) (p : ConvParams) (s : State) : Result :=
  withPlan c p.head.plan p.head.template (·.isConv) s fun pl t =>
    if !convRange t p then finish c (ans .badLength 0xE) s
    else
      let m := p.nb * convOut p.h p.pt p.pb p.dh p.kh p.sh * convOut p.w p.pl p.pr p.dw p.kw p.sw
      let k := p.kh * p.kw * p.c
      if m = 0 then finish c (ans .emptyShape) s
      else if !operandOk s c.part p.input (operandBytes t.fmtA (p.nb * p.h) (p.w * p.c)) then finish c (ans .badLength 1) s
      else
        runMat { c := c, plan := pl, t := t, h := p.head, n := p.oc, k := k, sizeM := m, epi := p.epi, conv := some p
                 prods := [({ a := p.input, b := p.weight, d := p.output, m := m }, p.input + t.scaleA, p.weight + t.scaleB)]
                 lda := p.c, ldb := if p.head.axisB then k else p.oc }
          p.head.plan 2 (if p.head.axisB then p.oc else k) m (some p.c) s

/-! BRUSH_RUN (R105, R110, R111) -/

/-- A template for a command that has none. -/
def noTemplate : Template :=
  { fmtA := 0, fmtB := 0, fmtOut := 0, fmtC := 0, fmtBias := 0, bucketsM := [], bucketsN := [], bucketsK := [], bucketsC := [], padA := 0, padB := 0
    shape := .auto, blocksAlongK := true, scaleA := 0, scaleB := 0, scaleD := 0, strideA := 0, strideB := 0, strideC := 0, weightsB := false, layer := 0
    staticKH := none, staticDH := none, isConv := false, records := [], hints := [] }

/-- BRUSH_RUN: the program starts on every active core of the partition, its counts and position at zero; it replies when every
core's program has ended (log entry 34). -/
def execBrushRun (c : Cmd) (plan program args argBytes : Nat) (stream : BitVec 32) (seed : BitVec 64) (s : State) : Result :=
  match tget plan s.plans with
  | none => done c (ans .planRejected 0x0F00) s
  | some p =>
    if p.part ≠ c.part ∨ p.body.programs.length ≤ program then done c (ans .planRejected 0x0F00) s
    else if activeCores s c.part < p.coresRequired then done c (ans .hwFault) s
    else if !operandOk s c.part args argBytes then done c (ans .badLength 1) s
    else
      let cores := (logicalsOf s c.part).filterMap (physOf s)
      let job : MatJob :=
        { cmd := c, plan := plan, isBrush := true, template := noTemplate
          head := { plan := plan, template := 0, sat := false, sr := false, srCounter := false, axisA := false, axisB := false }
          n := 0, k := 0, bias := 0, alpha := 0x3F800000, beta := 0, seed := seed, stream := stream, exact := c.trueColour, cores := cores }
      let s1 := cores.foldl (fun s p => modBrush p (fun b => { b with nanCount := 0, infCount := 0, position := 0, exactRange := false }) s) s
      .next { s1 with nextJob := s.nextJob + 1, jobs := tput s.nextJob job s1.jobs }

end Sys2Proof.Machine
end

