-- ==== Sys2Proof/Machine/Attention.lean ====
section
/-! DEFINITION. ATTN_FWD, ATTN_BWD and REDUCE (R58, R60, R67, R68, R72, R73, R90, R128, R132, R134 to R136, R238, R240, R250 to
R253, R310). Each completes in the step it starts in. True colour forms the windows of R67 and the chunks of R68; the steps that neither R68 nor
R252 gives are free functions of exactly the operands R68 names (log entry 28). -/

namespace Sys2Proof.Machine

/-! The pointer list (R132, R250) -/

/-- An entry of an attention pointer list. -/
structure AttnEntry where
  qRow : Nat
  qCount : Nat
  causal : Bool
  bitmap : Bool
  isNull : Bool
  saveStats : Bool
  kvLen : Nat
  pageList : Nat
  newKv : Nat
  mask : Nat
  stats : Nat
  stride : Nat
  deriving DecidableEq, Repr

/-- An entry out of its 64 bytes. -/
def attnEntry (bs : List Byte) : AttnEntry :=
  let f := BitVec.ofNat 16 (fieldAt bs 10 2)
  { qRow := fieldAt bs 4 4, qCount := fieldAt bs 8 2, causal := f.getLsbD 0, bitmap := f.getLsbD 1, isNull := f.getLsbD 2
    saveStats := f.getLsbD 3, kvLen := fieldAt bs 12 4, pageList := fieldAt bs 16 8, newKv := fieldAt bs 24 8
    mask := fieldAt bs 32 8, stats := fieldAt bs 40 8, stride := fieldAt bs 48 4 }

/-- The entries a command runs: those without NULL. -/
def attnEntries (s : State) (list count : Nat) : List AttnEntry :=
  ((List.range count).map fun i => attnEntry (readGlobal s (list + 64 * i) 64)).filter fun e => !e.isNull

/-- Keys an entry's queries can stand before. -/
def AttnEntry.keys (e : AttnEntry) : Nat := e.kvLen + e.qCount

/-- What every computation of the command shares. -/
structure AttnRun where
  part : Nat
  t : Template
  p : AttnParams
  bptl : Nat
  layers : Nat
  exact : Bool
  chunk : Nat
  deriving DecidableEq, Repr

/-- BLOCK_BYTES of R238. -/
def blockBytes (bptl layers : Nat) : Nat := ceilDiv (64 * bptl * layers) 0x4000 * 0x4000

/-- The window offset of a position's bytes in a layer (R238). -/
def kvOffset (bptl layers layer p : Nat) : Nat := p / 64 * blockBytes bptl layers + layer * 64 * bptl + p % 64 * bptl

/-- The end of the window bytes an entry's committed positions lie in. -/
def windowEnd (r : AttnRun) (e : AttnEntry) : Nat :=
  if e.kvLen = 0 then 0 else kvOffset r.bptl r.layers r.t.layer (e.kvLen - 1) + r.bptl

/-- The page list a walk to the window's end reads: as many entries as cover it. -/
def takeCover : Nat → Nat → List PageRef → List PageRef
  | _, _, [] => []
  | top, start, p :: ps => if top ≤ start then [] else p :: takeCover top (start + pageBytes p) ps

/-- An entry's page list as the command reads it. -/
def attnPages (s : State) (r : AttnRun) (e : AttnEntry) : List PageRef :=
  takeCover (windowEnd r e) 0 (readPageList s e.pageList (ceilDiv (windowEnd r e) 0x4000))

/-- The local address of byte b of a position's keys and values (R251): in the pages below KV_LEN, in the staging buffer at
and above it. -/
def kvAddr (s : State) (r : AttnRun) (e : AttnEntry) (pages : List PageRef) (j b : Nat) : Option Nat :=
  if e.kvLen ≤ j then some (e.newKv + (j - e.kvLen) * r.bptl + b)
  else
    match walkPages s r.part pages 0 (kvOffset r.bptl r.layers r.t.layer j + b) with
    | .at a _ => some a
    | _ => none

/-- Element idx of a position's keys and values. -/
def kvElem (s : State) (r : AttnRun) (e : AttnEntry) (pages : List PageRef) (j idx : Nat) : Nat :=
  let w := elemBits r.t.fmtB
  let off := idx * w
  let bs := (List.range ((off % 8 + w + 7) / 8)).map fun i =>
    match kvAddr s r e pages j (off / 8 + i) with
    | some a => (readGlobal s a 1).headD 0
    | none => 0
  leNat bs / 2 ^ (off % 8) % 2 ^ w

/-- The key/value head of a query head. -/
def kvHead (p : AttnParams) (h : Nat) : Nat := h * p.kvHeads / p.qHeads

/-- The key and the value of a position for a key/value head: the keys of all heads come first, then the values. -/
def keyVec (s : State) (r : AttnRun) (e : AttnEntry) (pages : List PageRef) (j g : Nat) : List Nat :=
  (List.range r.p.headDim).map fun x => kvElem s r e pages j (g * r.p.headDim + x)
def valVec (s : State) (r : AttnRun) (e : AttnEntry) (pages : List PageRef) (j g : Nat) : List Nat :=
  (List.range r.p.headDim).map fun x => kvElem s r e pages j ((r.p.kvHeads + g) * r.p.headDim + x)

/-- A vector of a row and head of a matrix shaped like the queries: by element its bits, and its block scale above them (R47). -/
def rowVec (s : State) (r : AttnRun) (addr scale code row h : Nat) : List Nat :=
  (List.range r.p.headDim).map fun x =>
    let sc := if isMx code then readNum s (addr + scale + (row * r.p.qHeads + h) * ceilDiv r.p.headDim 32 + x / 32) 1 else 127
    readElem s addr code ((row * r.p.qHeads + h) * r.p.headDim + x) + sc * 2 ^ 32

/-- The query of a row and head. -/
def queryVec (s : State) (r : AttnRun) (row h : Nat) : List Nat := rowVec s r r.p.q r.t.scaleA r.t.fmtA row h

/-- Can query i see key j (R251)? -/
def sees (s : State) (e : AttnEntry) (i j : Nat) : Bool :=
  (!e.causal || decide (j ≤ e.kvLen + i)) &&
    (!e.bitmap || (((readGlobal s (e.mask + i * e.stride + j / 8) 1).headD 0).getLsbD (j % 8)))

/-- The keys query i sees, ascending. -/
def visible (s : State) (e : AttnEntry) (i : Nat) : List Nat := (List.range e.keys).filter (sees s e i)

/-- Dropout keeps a key's value when its draw is at least D (R73): c0 is the key, c1 the flattened row and head. -/
def keeps (r : AttnRun) (row h j : Nat) : Bool :=
  r.p.drop == 0 ||
    decide (r.p.drop.toNat ≤ (counterDraw r.p.seed (BitVec.ofNat 32 j) (BitVec.ofNat 32 (row * r.p.qHeads + h)) r.p.stream 0).toNat)

/-! Checks -/

/-- The scale bytes of an entry's queries in an MX format (R47). -/
def queryScales (r : AttnRun) (e : AttnEntry) : List (Nat × Nat) :=
  let n := r.p.qHeads * ceilDiv r.p.headDim 32
  if isMx r.t.fmtA then [(r.p.q + r.t.scaleA + e.qRow * n, e.qCount * n)] else []

/-- A check that fails: its status and detail, and for a poisoned operand the address it lies at. -/
abbrev Failed := Status × Nat × Nat

/-- The first poisoned byte of a list of operand ranges (R367): ST_POISONED, with the region of the source. -/
def poisonedOperand (s : State) (ranges : List (Nat × Nat)) : Option Failed :=
  (ranges.findSome? fun x => firstPoison s x.1 x.2).map fun a => (.poisoned, destRegion (a % 2 ^ 47), a)

/-- Ends a command whose checks fail; one ended by a poisoned operand is logged (R367, R435), in the name of its partition's first core (log
entry 144). -/
def refuseRead (c : Cmd) (e : Failed) (s : State) : State :=
  finish c (ans e.1 e.2.1)
    (if e.1 = .poisoned ∧ e.2.2 ≠ 0 then notePoisoned ((physOf s ((logicalsOf s c.part).headD 0)).getD 0) e.2.1 e.2.2 s else s)

/-- The ranges of an entry's key/value data: the new positions whole, and of each earlier one the pieces of at most 64 bytes its pages give. -/
def kvRanges (s : State) (r : AttnRun) (e : AttnEntry) (pages : List PageRef) : List (Nat × Nat) :=
  (e.newKv, e.qCount * r.bptl) ::
    (List.range e.kvLen).flatMap fun j => (List.range (ceilDiv r.bptl 64)).flatMap fun b =>
      [64 * b, min (64 * b + 63) (r.bptl - 1)].filterMap fun o => (kvAddr s r e pages j o).map fun a => (a, 1)

/-- One entry's checks: its count and bitmap stride (R250, R251), its length (R134, R136), its ranges, its page list and
poison (R157, R240). The first failing one decides. -/
def entryCheck (s : State) (r : AttnRun) (largest : Nat) (e : AttnEntry) : Option Failed :=
  let pages := attnPages s r e
  let rowBytes := elemBytes r.t.fmtA (r.p.qHeads * r.p.headDim)
  let walkFails := if windowEnd r e = 0 then none
    else match walkPages s r.part pages 0 (windowEnd r e - 1) with
      | .at _ _ => none
      | .misaligned => some (Status.badAlign, 0, 0)
      | .beyond => some (Status.badLength, 3, 0)
  if e.qCount = 0 ∨ 8192 < e.qCount then some (.badLength, 0xE, 0)
  else if e.bitmap ∧ (e.stride % 8 ≠ 0 ∨ e.stride < ceilDiv e.keys 8) then some (.badLength, 0, 0)
  else if largest < e.keys then some (.shapeExceedsPlan, 2, 0)
  else if !operandOk s r.part (r.p.q + e.qRow * rowBytes) (e.qCount * rowBytes) || !operandOk s r.part e.newKv (e.qCount * r.bptl) ||
      (e.bitmap && !operandOk s r.part e.mask (e.qCount * e.stride)) ||
      (e.saveStats && !operandOk s r.part e.stats (e.qCount * r.p.qHeads * 8)) then some (.badLength, 1, 0)
  else if !operandOk s r.part e.pageList (8 * pages.length) && !ownPageList s r.part e.pageList (8 * pages.length) then some (.badLength, 3, 0)
  else if globalPoisoned s e.pageList (8 * pages.length) then some (.poisoned, 0, 0)
  else walkFails.or (poisonedOperand s ((r.p.q + e.qRow * rowBytes, e.qCount * rowBytes) :: (queryScales r e ++ kvRanges s r e pages ++
    (if e.bitmap then [(e.mask, e.qCount * e.stride)] else []))))

/-- The largest outer index a command's draws would need exceeds 2^32 − 1 (R72): of its dropout draws one a row and query head, of its output
conversions so many a row. -/
def attnDraws (p : AttnParams) (outs : Nat) (es : List AttnEntry) : Bool :=
  let rows := maxOf (es.map fun e => e.qRow + e.qCount)
  (p.drop != 0 && decide (2 ^ 32 < rows * p.qHeads)) || (p.head.sr && p.head.srCounter && decide (2 ^ 32 < rows * outs))

/-- A job that only writes outputs of rows of n elements at once, so that they round, count and pack as a matrix command's
do. -/
def outJob (c : Cmd) (t : Template) (h : ComputeHead) (n : Nat) (seed : Word) (stream : BitVec 32) : MatJob :=
  { cmd := c, plan := h.plan, template := t, head := h, n := n, k := 0, bias := 0, alpha := 0x3F800000, beta := 0, seed := seed
    stream := stream, exact := c.trueColour }

/-- Writes rows of output values, each (row, elements), and answers the NaN and Inf counts. -/
def writeRows (m : MatJob) (d : Nat) (rows : List (Nat × List (FVal × Lane))) (s : State) : State × Nat × Nat :=
  let j := s.nextJob
  let core := (physOf s ((logicalsOf s m.cmd.part).headD 0)).getD 0
  let it : MatItem := { a := 0, b := 0, d := d, m := 0 }
  let s1 := rows.foldl (fun s r => writeOutputs j m it core r.1 0 [r.2] s) { s with nextJob := j + 1, jobs := tput j m s.jobs }
  let x := (tget j s1.jobs).getD m
  ({ s1 with jobs := tdel j s1.jobs }, x.nan, x.inf)

/-- An FP32 result as an output value. -/
def outVal (x : Lane) : FVal × Lane := (val32 x, x)

/-- The rows of an entry in an operand of n elements a row: where they start, and their bytes. -/
def entryRows (addr code n : Nat) (e : AttnEntry) : Nat × Nat := (addr + elemBytes code (e.qRow * n), elemBytes code (e.qCount * n))

/-- The checks of an entry's further operands (R150, R152, R367; log entry 38): every one in the partition, none that is read
poisoned. -/
def furtherCheck (s : State) (part : Nat) (reads writes : List (Nat × Nat)) : Option Failed :=
  if (reads ++ writes).any fun x => !operandOk s part x.1 x.2 then some (.badLength, 1, 0) else poisonedOperand s reads

/-- Shared path of both directions: the list, the sizes, the bucket, the candidate, every entry's checks; reads and writes are the
direction's further operands of an entry, outs the outer indexes of its outputs a row. -/
def withEntries (c : Cmd) (p : AttnParams) (outs : Nat) (reads writes : Template → AttnEntry → List (Nat × Nat)) (s : State)
    (f : AttnRun → List AttnEntry → State → State) : Result :=
  withPlan c p.head.plan p.head.template (·.isAttn) s fun pl t =>
    match listCheck p.list p.count with
    | some e => finish c (ans e.1 e.2) s
    | none =>
      if p.qHeads = 0 ∨ p.kvHeads = 0 ∨ p.headDim = 0 then finish c (ans .emptyShape) s
      else if !operandOk s c.part p.list (64 * p.count) then finish c (ans .badLength 1) s
      else if globalPoisoned s p.list (64 * p.count) then finish c (ans .poisoned) s
      else
        let es := attnEntries s p.list p.count
        let r : AttnRun := { part := c.part, t := t, p := p, bptl := pl.body.bptl, layers := pl.body.layers, exact := c.trueColour, chunk := 256 }
        if attnDraws p outs es then finish c (ans .badLength 0xD) s
        else
          match es.findSome? (fun e => (entryCheck s r (maxOf pl.body.kvBuckets) e).or (furtherCheck s c.part (reads t e) (writes t e))) with
          | some e => refuseRead c e s
          | none =>
            match bucketFor pl.body.kvBuckets (maxOf (es.map AttnEntry.keys)) with
            | none => finish c (ans .shapeExceedsPlan 2) s
            | some b =>
              match pickIndex s c.part p.head.plan p.head.template b.1 pl t (max 1 (maxOf t.bucketsM)) (max 1 (maxOf t.bucketsN)) b.2 with
              | none => finish c (ans .tileIllegal 0x0100) s
              | some i =>
                match (candidatesAt t b.1)[i]? with
                | none => finish c (ans .tileIllegal 0x0100) s
                | some cand =>
                  f { r with chunk := if c.trueColour then 256 else cand.kt } es (cacheSelection c.part p.head.plan p.head.template b.1 i s)

/-- The reply of both directions: the counts of the first output, then of the second (R307). -/
def attnReply (c : Cmd) (a b : Nat × Nat) (s : State) : State :=
  finish c { status := .ok, words := countWords a.1 a.2 ++ countWords b.1 b.2 } s

/-- Every (entry, query, head) of a command. -/
def attnCells (r : AttnRun) (es : List AttnEntry) : List (AttnEntry × Nat × Nat) :=
  es.flatMap fun e => (List.range e.qCount).flatMap fun i => (List.range r.p.qHeads).map fun h => (e, i, h)

/-! ATTN_FWD (R250 to R253) -/

/-- An element of a vector as rowVec gives it: its value under its block scale, and its top exponent (R47, R59). -/
def elemVal (code x : Nat) : FVal :=
  let v := decodeElem code (x % 2 ^ 32)
  if isMx code then scaleElem (x / 2 ^ 32) v else v
def elemTop (code x : Nat) : Option Int :=
  if isMx code && x / 2 ^ 32 == 255 then none else topExp code (if isMx code then x / 2 ^ 32 else 127) (decodeElem code (x % 2 ^ 32))

/-- An exact sum of products in the window of the top exponents of both sides (R60 to R64), rounded once to FP32 (R65). -/
def exactDot (tops : Option Int × Option Int) (xs : List (FVal × FVal)) : Lane :=
  let l := match tops with | (some a, some b) => some (windowL a b) | _ => none
  round32 (exactVal (xs.foldl (fun x e => addProduct l x e.1 e.2) {}) (l.getD 0))

/-- The score of a query and a key in true colour: its window is of the two vectors alone (R67), and SCALE multiplies its FP32 rounding
(R252). -/
def scoreExact (r : AttnRun) (q k : List Nat) : Lane :=
  let tops := (topOf (q.map (elemTop r.t.fmtA)), topOf (k.map (elemTop r.t.fmtB)))
  let dot := exactDot tops ((q.zip k).map fun e => (elemVal r.t.fmtA e.1, elemVal r.t.fmtB e.2))
  round32 (mulV (val32 r.p.scale) (val32 dot))

def maxLane (xs : List Lane) : Lane := round32 ((xs.map val32).foldl maxV (.inf true))

/-- One chunk of a row in true colour: the FP32 maximum and sum of its visible keys' scores, and by element its P·V (R68). A key a dropout
draw drops adds no product. -/
structure Chunk where
  top : Lane
  sum : Lane
  out : List Lane
  deriving DecidableEq, Repr

def chunkOf (s : State) (r : AttnRun) (e : AttnEntry) (i h : Nat) (js : List Nat) : Chunk :=
  let pages := attnPages s r e
  let g := kvHead r.p h
  let scores := js.map fun j => scoreExact r (queryVec s r (e.qRow + i) h) (keyVec s r e pages j g)
  let top := maxLane scores
  let ps := scores.map fun x => Config.expFn (round32 (addV (val32 x) (negV (val32 top))))
  let kept := (js.zip ps).filter fun x => keeps r (e.qRow + i) h x.1
  { top := top, sum := round32 (sumV (ps.map val32))
    out := (List.range r.p.headDim).map fun x =>
      let vs := kept.map fun k => (valVec s r e pages k.1 g).getD x 0
      exactDot (topOf (kept.map fun k => topExp 0 127 (val32 k.2)), topOf (vs.map (elemTop r.t.fmtB)))
        ((kept.zip vs).map fun z => (val32 z.1.2, elemVal r.t.fmtB z.2)) }

/-- Adds a chunk to those before it, by the one fixed formula (R68). -/
def addChunk (a b : Chunk) : Chunk :=
  { top := maxLane [a.top, b.top], sum := Config.chunkSum a.top a.sum b.top b.sum
    out := (a.out.zip b.out).map fun x => Config.chunkOut a.top a.sum x.1 b.top b.sum x.2 }

/-- A row's chunks of 256 keys at absolute positions, combined in increasing order; a chunk without a visible key takes no part (R68). -/
def rowExact (s : State) (r : AttnRun) (e : AttnEntry) (i h : Nat) : Option Chunk :=
  let js := visible s e i
  let parts := (List.range (ceilDiv e.keys 256)).map fun c => js.filter fun j => j / 256 == c
  match (parts.filter fun p => !p.isEmpty).map (chunkOf s r e i h) with
  | [] => none
  | c :: cs => some (cs.foldl addChunk c)

/-- The visible keys of a row and head with their positions, and its query. -/
def rowKeys (s : State) (r : AttnRun) (e : AttnEntry) (i h : Nat) : List (Nat × List Nat) :=
  (visible s e i).map fun j => (j, keyVec s r e (attnPages s r e) j (kvHead r.p h))

/-- m and l of a row and head. -/
def attnStats (s : State) (r : AttnRun) (e : AttnEntry) (i h : Nat) : Lane × Lane :=
  if (visible s e i).isEmpty then (negInf32, 0)
  else if r.exact then
    match rowExact s r e i h with
    | some c => (c.top, c.sum)
    | none => (negInf32, 0)
  else
    let q := queryVec s r (e.qRow + i) h
    let ks := rowKeys s r e i h
    (Config.attnMax r.chunk r.p.scale q ks, Config.attnSum r.chunk r.p.scale q ks)

/-- The output row of a query and head. -/
def attnRow (s : State) (r : AttnRun) (e : AttnEntry) (i h : Nat) : List (FVal × Lane) :=
  let js := visible s e i
  if js.isEmpty then List.replicate r.p.headDim (outVal 0)
  else if r.exact then
    match rowExact s r e i h with
    | some c => c.out.map fun x => outVal (Config.chunkEnd c.sum x)
    | none => List.replicate r.p.headDim (outVal 0)
  else
    (List.range r.p.headDim).map fun x =>
      outVal (Config.attnOut r.chunk r.p.scale (queryVec s r (e.qRow + i) h) (rowKeys s r e i h)
        (js.map fun j => ((valVec s r e (attnPages s r e) j (kvHead r.p h)).getD x 0, keeps r (e.qRow + i) h j)))

/-- Is a statistic counted as NaN or Inf? A row with no visible key counts neither (R252). -/
def countStats (s : State) (r : AttnRun) (f : Lane → Bool) (es : List AttnEntry) : Nat :=
  (((attnCells r es).filter fun x => x.1.saveStats && !(visible s x.1 x.2.1).isEmpty).map fun x =>
    let v := attnStats s r x.1 x.2.1 x.2.2
    (if f v.1 then 1 else 0) + (if f v.2 then 1 else 0)).sum

/-- Writes the row statistics of the entries with SAVE_STATS. -/
def writeStats (s0 : State) (r : AttnRun) (es : List AttnEntry) (s : State) : State :=
  ((attnCells r es).filter fun x => x.1.saveStats).foldl (fun s x =>
    let v := attnStats s0 r x.1 x.2.1 x.2.2
    writeGlobal (x.1.stats + (x.2.1 * r.p.qHeads + x.2.2) * 8) (toLe 4 v.1.toNat ++ toLe 4 v.2.toNat) s) s

def execAttnFwd (c : Cmd) (p : AttnParams) (s : State) : Result :=
  withEntries c p p.qHeads (fun _ _ => []) (fun t e => [entryRows p.o t.fmtOut (p.qHeads * p.headDim) e]) s fun r es s =>
    let rows := (attnCells r es).map fun x => ((x.1.qRow + x.2.1) * p.qHeads + x.2.2, attnRow s r x.1 x.2.1 x.2.2)
    let o := writeRows (outJob c r.t p.head p.headDim p.seed p.stream) p.o rows s
    attnReply c o.2 (countStats s r isNan32 es, countStats s r isInf32 es) (writeStats s r es o.1)

/-! ATTN_BWD (R252): the probabilities come from the saved statistics. -/

/-- The probability of a visible key, recomputed from the saved m and l (R252): in true colour from the exact score. In normal mode the
score is a part of the free gradient. -/
def probOf (s : State) (r : AttnRun) (e : AttnEntry) (i h j : Nat) : Lane :=
  let m := BitVec.ofNat 32 (readNum s (e.stats + (i * r.p.qHeads + h) * 8) 4)
  let l := BitVec.ofNat 32 (readNum s (e.stats + (i * r.p.qHeads + h) * 8 + 4) 4)
  let x := scoreExact r (queryVec s r (e.qRow + i) h) (keyVec s r e (attnPages s r e) j (kvHead r.p h))
  div32 (val32 (Config.expFn (round32 (addV (val32 x) (negV (val32 m)))))) (val32 l)

/-- What the gradients of one query and head depend on: its query, output gradient and output, its statistics or in true colour its
probabilities, its keys, values and kept keys. -/
def gradOperands (s : State) (r : AttnRun) (dO : Nat) (e : AttnEntry) (i h : Nat) : List (List Nat) :=
  let pages := attnPages s r e
  let js := visible s e i
  let g := kvHead r.p h
  [queryVec s r (e.qRow + i) h, rowVec s r dO r.t.scaleD r.t.fmtOut (e.qRow + i) h, rowVec s r r.p.o r.t.scaleD r.t.fmtOut (e.qRow + i) h,
    (if r.exact then js.map fun j => (probOf s r e i h j).toNat
     else [readNum s (e.stats + (i * r.p.qHeads + h) * 8) 4, readNum s (e.stats + (i * r.p.qHeads + h) * 8 + 4) 4])] ++
    js.map (fun j => keyVec s r e pages j g) ++ js.map (fun j => valVec s r e pages j g) ++
    [js.map fun j => if keeps r (e.qRow + i) h j then 1 else 0]

/-- A row of DQ; +0 where no key is visible. -/
def dqRow (s : State) (r : AttnRun) (dO : Nat) (e : AttnEntry) (i h : Nat) : List (FVal × Lane) :=
  (List.range r.p.headDim).map fun x =>
    if (visible s e i).isEmpty then outVal 0
    else outVal (Config.attnGrad 0 r.exact r.p.scale ([x] :: gradOperands s r dO e i h))

/-- A row of DKV: the gradient of a new position's key (kind 1) or value (kind 2) of a key/value head, over the queries that
see it. -/
def dkvRow (s : State) (r : AttnRun) (dO kind : Nat) (e : AttnEntry) (n g : Nat) : List (FVal × Lane) :=
  let qs := ((List.range e.qCount).flatMap fun i => (List.range r.p.qHeads).map fun h => (i, h)).filter fun q =>
    sees s e q.1 (e.kvLen + n) && kvHead r.p q.2 == g
  (List.range r.p.headDim).map fun x =>
    if qs.isEmpty then outVal 0
    else outVal (Config.attnGrad kind r.exact r.p.scale ([x, n] :: qs.flatMap fun q => gradOperands s r dO e q.1 q.2))

def execAttnBwd (c : Cmd) (p : AttnParams) (dO dQ dKV : Nat) (s : State) : Result :=
  let row := fun (t : Template) (e : AttnEntry) (addr n : Nat) => entryRows addr t.fmtOut (n * p.headDim) e
  withEntries c p (max p.qHeads (2 * p.kvHeads)) (fun t e => [row t e p.o p.qHeads, row t e dO p.qHeads, (e.stats, e.qCount * p.qHeads * 8)])
      (fun t e => [row t e dQ p.qHeads, row t e dKV (2 * p.kvHeads)]) s fun r es s =>
    let m := outJob c r.t p.head p.headDim p.seed p.stream
    let q := (attnCells r es).map fun x => ((x.1.qRow + x.2.1) * p.qHeads + x.2.2, dqRow s r dO x.1 x.2.1 x.2.2)
    let kv := es.flatMap fun e => (List.range e.qCount).flatMap fun n => (List.range 2).flatMap fun w => (List.range p.kvHeads).map fun g =>
      (((e.qRow + n) * 2 + w) * p.kvHeads + g, dkvRow s r dO (w + 1) e n g)
    let a := writeRows m dQ q s
    let b := writeRows m dKV kv a.1
    attnReply c a.2 b.2 b.1

/-! REDUCE (R67, R128, R310) -/

/-- Positions along the extent: one for the whole extent, else one for each stride (log entry 29). -/
def reducePositions (p : ReduceParams) : Nat := if p.window = 0 then 1 else ceilDiv p.extent p.stride

/-- The extent indexes of a position's window; none lies outside the input and reads as padding. -/
def reduceWindow (p : ReduceParams) (pos : Nat) : List (Option Nat) :=
  if p.window = 0 then (List.range p.extent).map some
  else (List.range p.window).map fun w => if pos * p.stride + w < p.extent then some (pos * p.stride + w) else none

/-- One input of a window, with the scale byte of its block of 32 along the extent (R47). -/
def reduceInput (s : State) (t : Template) (p : ReduceParams) (o n : Nat) (x : Option Nat) : FVal × Nat :=
  match x with
  | some i =>
    let idx := (o * p.extent + i) * p.inner + n
    let sc := if isMx t.fmtA then readNum s (p.src + t.scaleA + (o * ceilDiv p.extent 32 + i / 32) * p.inner + n) 1 else 127
    (decodeElem t.fmtA (readElem s p.src t.fmtA idx), sc)
  | none => (padVal t.fmtA t.padA, 127)

/-- The scale bytes of a REDUCE's inputs in an MX format. -/
def reduceScales (p : ReduceParams) : Nat := p.outer * ceilDiv p.extent 32 * p.inner

/-- The exact sum of a window in true colour (R60, R62, R67). No rule makes the guard check of R63 here: a sum of more than 65,536 inputs that
leaves its 128 bits becomes an infinity by its flags, the model's choice (log entry 117). -/
def reduceExact (t : Template) (xs : List (FVal × Nat)) : FVal :=
  match topOf (xs.map fun x => if x.2 = 255 then none else topExp t.fmtA x.2 x.1) with
  | none => exactVal (xs.foldl (fun a x => flagProduct a (scaleElem x.2 x.1)) {}) 0
  | some top =>
    exactVal (xs.foldl (fun a x =>
      let v := scaleElem x.2 x.1
      flagProduct (addExact a (windowInt v (top - 111))) v) {}) (top - 111)

/-- The result of one output. A normal-mode sum of up to two inputs is their rounded sum; the order of a longer one is not
given (log entry 29). -/
def reduceValue (exact : Bool) (t : Template) (op : Nat) (xs : List (FVal × Nat)) : FVal × Lane :=
  let vs := xs.map fun x => scaleElem x.2 x.1
  if op = 0 then
    if exact then
      let v := reduceExact t xs
      (v, round32 v)
    else outVal (if vs.length ≤ 2 then round32 (sumV vs) else Config.reduceSum (vs.map round32))
  else
    let f := if op = 1 then maxV else minV
    match vs with
    | [] => outVal 0
    | v :: r =>
      let x := r.foldl f v
      (x, round32 x)

/-- REDUCE's checks in order. -/
def reduceCheck (s : State) (c : Cmd) (t : Template) (p : ReduceParams) : Option Failed :=
  let n := p.outer * p.extent * p.inner
  if p.outer = 0 ∨ p.extent = 0 ∨ p.inner = 0 then some (.emptyShape, 0, 0)
  else if p.window ≠ 0 ∧ p.stride = 0 then some (.badLength, 0xE, 0)
  else if drawsExceed p.head (p.outer * reducePositions p) then some (.badLength, 0xD, 0)
  else if elemBits t.fmtA = 16 ∧ p.src % 2 ≠ 0 then some (.badAlign, 0, 0)
  else if !operandOk s c.part p.src (elemBytes t.fmtA n) || !operandOk s c.part p.dst (elemBytes t.fmtOut (p.outer * reducePositions p * p.inner)) then
    some (.badLength, 1, 0)
  else poisonedOperand s ((p.src, elemBytes t.fmtA n) :: (if isMx t.fmtA then [(p.src + t.scaleA, reduceScales p)] else []))

/-- REDUCE. Its parameter block has neither SEED nor STREAM (R308): its COUNTER draws are under seed 0 and stream 0, the model's choice (log
entry 118). -/
def execReduce (c : Cmd) (p : ReduceParams) (s : State) : Result :=
  withPlan c p.head.plan p.head.template (fun _ => true) s fun _ t =>
    match reduceCheck s c t p with
    | some e => refuseRead c e s
    | none =>
      let rows := (List.range p.outer).flatMap fun o => (List.range (reducePositions p)).map fun pos =>
        (o * reducePositions p + pos, (List.range p.inner).map fun n =>
          reduceValue c.trueColour t p.op ((reduceWindow p pos).map (reduceInput s t p o n)))
      let w := writeRows (outJob c t p.head p.inner 0 0) p.dst rows s
      finish c { status := .ok, words := countWords w.2.1 w.2.2 } w.1

end Sys2Proof.Machine
end

