-- ==== Sys2Proof/Machine/QueueOps.lean ====
section
/-! DEFINITION. The queue engine (R202 to R223): slots and their two free lists, packets, credits, proxies, flushes,
resets and watermarks. -/

namespace Sys2Proof.Machine

/-! Queues and slots -/

def queueOf (s : State) (r q : Nat) : Option Queue := tget q (engineOf s r).queues

/-- Updates a queue that exists. -/
def modQueue (r q : Nat) (f : Queue → Queue) (s : State) : State :=
  modEngine r (fun e => { e with queues := tupd q f e.queues }) s

/-- Updates an endpoint of a queue. -/
def modEp (r q ep : Nat) (f : Endpoint → Endpoint) (s : State) : State :=
  modQueue r q (fun x => { x with eps := lmod ep f x.eps }) s

/-- The handle of a queue (R204). -/
def queueHandle (r q : Nat) : Nat := r * 2 ^ 13 + q

/-- Slots a partition's endpoints have been granted, over all regions (R344). -/
def grantsOfPart (s : State) (part : Nat) : Nat :=
  (s.engines.map fun e => ((e.2.queues.filter fun q => q.2.part == part).map fun q => (q.2.eps.map (·.grant)).sum).sum).sum

/-- Slots of a region not granted to any endpoint (R211). -/
def freeSlots (e : QueueEngine) : Nat := 6144 - (e.queues.map fun q => (q.2.eps.map (·.grant)).sum).sum

/-- Takes a slot for a queue: off both free lists, or a slot never taken. -/
def takeSlot (q : Nat) (e : QueueEngine) : Option (Nat × QueueEngine) :=
  match e.freeA with
  | k :: t => some (k, { e with freeA := t, freeB := e.freeB.drop 1, owner := tput k q e.owner })
  | [] => if e.fresh < 6144 then some (e.fresh, { e with fresh := e.fresh + 1, owner := tput e.fresh q e.owner }) else none

/-- Frees slots: onto both free lists, out of the ownership array. -/
def freeSlotsOf (ks : List Nat) (e : QueueEngine) : QueueEngine :=
  { e with
    freeA := e.freeA ++ ks
    freeB := e.freeB ++ ks
    owner := e.owner.filter fun o => !ks.contains o.1
    slots := e.slots.filter fun o => !ks.contains o.1 }

/-- The slots of a chain from a header, at most n. -/
def chainOf (slots : Tbl Slot) : Nat → Option Nat → List Nat
  | 0, _ => []
  | _, none => []
  | n + 1, some k => k :: chainOf slots n ((tget k slots).bind (·.next))

/-- The endpoint a slot belongs to. -/
def slotProducer (e : QueueEngine) (k : Nat) : Nat := ((tget k e.slots).map (·.producer)).getD 0

/-! Occupancy and watermarks (R222) -/

/-- A new occupancy: the extremes latch, and a crossing sets its sticky bit. -/
def setOcc (n : Nat) (q : Queue) : Queue :=
  { q with
    occ := n
    occMax := max q.occMax n
    occMin := min q.occMin n
    highEvent := q.highEvent || (decide (q.occ < n) && decide (q.high ≤ n))
    lowEvent := q.lowEvent || (decide (n < q.occ) && decide (n ≤ q.low)) }

/-- Gives a queue a new occupancy; an event that sets a clear bit signals the watermark object with v = 1. -/
def changeOcc (r k : Nat) (f : Nat → Nat) (s : State) : State :=
  match queueOf s r k with
  | none => s
  | some q =>
    let q1 := setOcc (f q.occ) q
    let s1 := modQueue r k (fun _ => q1) s
    if (q1.highEvent && !q.highEvent) || (q1.lowEvent && !q.lowEvent) then raiseSignal q.part (0x0800 + r) q.watermark 1 s1
    else s1

/-- QUEUE_ CLEAR (R222, R427). -/
def clearQueue (q : Queue) : Queue :=
  { q with stats := {}, highEvent := false, lowEvent := false, occMax := q.occ, occMin := q.occ }

def bump (n : Nat) : Nat := satAdd 0xFFFFFFFF n 1

def modStats (r k : Nat) (f : QueueStats → QueueStats) (s : State) : State :=
  modQueue r k (fun q => { q with stats := f q.stats }) s

/-! Credits (R211, R212, R214) -/

/-- Returns credits of freed slots to an endpoint: at once where its producer is local, into transit where it is remote. -/
def giveBack (own : Nat) (n : Nat) (e : Endpoint) : Endpoint :=
  if e.module = own then { e with held := e.held + n }
  else { e with transit := e.transit + n, freed := e.freed + BitVec.ofNat 32 n }

/-- Frees slots of a queue with their credits and occupancy. -/
def releaseSlots (r k : Nat) (ks : List Nat) (s : State) : State :=
  let e := engineOf s r
  let s1 := ks.foldl (fun s x => modEp r k (slotProducer e x) (giveBack (ownModule s) 1) s) s
  changeOcc r k (fun o => o - ks.length) (modEngine r (freeSlotsOf ks) s1)

/-! Pointers -/

def modPtrs (r k : Nat) (f : Pointers → Pointers) (s : State) : State :=
  modQueue r k (fun q => { q with ptrA := f q.ptrA, ptrB := f q.ptrB }) s

/-- Clears an endpoint's open packet. -/
def closeEp (r k ep : Nat) (s : State) : State :=
  modEp r k ep (fun e => { e with openItems := 0, openJob := none, discardOpen := false })
    (modPtrs r k (fun p => { p with opens := tdel ep p.opens }) s)

/-- Discards an endpoint's open packet with its slots. -/
def discardOpenPacket (r k ep : Nat) (s : State) : State :=
  match (queueOf s r k).bind fun q => tget ep q.ptrA.opens with
  | none => s
  | some h => closeEp r k ep (releaseSlots r k (chainOf (engineOf s r).slots 6144 (some h.1)) s)

/-- Discards every published packet not yet popped and marks the open ones (R217). -/
def flushNow (r k : Nat) (s : State) : State :=
  match queueOf s r k with
  | none => s
  | some q =>
    let ks := chainOf (engineOf s r).slots 6144 q.ptrA.head
    let s1 := modPtrs r k (fun p => { p with head := none, tail := none }) (releaseSlots r k ks s)
    modQueue r k (fun q => { q with
      midItems := 0
      eps := (q.eps.zipIdx).map fun e => if (tget e.2 q.ptrA.opens).isSome then { e.1 with discardOpen := true } else e.1 }) s1

/-- A credit return, QGEN update (status 1) or reconnection (status 2) to a remote proxy, on P2 (R214, R216, R220). -/
def creditPacket (s : State) (r k ep m part count status : Nat) (data : List Byte) : Pkt :=
  { type := .queueCreditReturn, src := ownModule s, dst := m, cls := 2, subch := 0, hops := 0
    plane := Config.planeHash (BitVec.ofNat 4 (queueHandle r k)) % 8, srcUnit := 0x0800 + r, srcInc := incOf s (0x0800 + r), part := part, arg := BitVec.ofNat 64 count
    arg2 := BitVec.ofNat 64 (queueHandle r k + ep * 2 ^ 16), data := data, status := status }

/-! Resets (R220, R221) -/

/-- The pointers of a copy in one order: head, tail, and header and last item of each open packet; 0xFFFF where there is none. -/
def ptrWords (p : Pointers) : List Nat :=
  p.head.getD 0xFFFF :: p.tail.getD 0xFFFF ::
    (List.range 8).flatMap fun ep => match tget ep p.opens with | some h => [h.1, h.2] | none => [0xFFFF, 0xFFFF]

/-- Both values of the first pointer in which the copies differ. -/
def mismatch (a b : Pointers) : Nat × Nat := (((ptrWords a).zip (ptrWords b)).find? fun x => x.1 != x.2).getD (0xFFFF, 0xFFFF)

/-- Puts a queue into RESETTING, with its cause. -/
def startReset (r k cause : Nat) (s : State) : State :=
  modQueue r k (fun q => { q with resetting := true, cause := (cause, mismatch q.ptrA q.ptrB) }) s

/-- Puts every queue of a region into RESETTING, as one free-list mismatch does; the region's error handler receives it (R221, R366). -/
def startRegionReset (r : Nat) (s : State) : State :=
  note 0x0307 (fun e => { e with source := 0x0800 + r, arg := BitVec.ofNat 64 r })
    (modEngine r (fun e => { e with queues := e.queues.map fun q => (q.1, { q.2 with resetting := true, cause := (2, mismatch q.2.ptrA q.2.ptrB) }) }) s)

/-- The slots the ownership array leaves free. -/
def unowned (e : QueueEngine) : List Nat := (List.range e.fresh).filter fun k => (tget k e.owner).isNone

/-- The end of a reset (R220 steps 2 to 6): every slot of the queue freed to its endpoint's reservation, both copies of
every pointer empty, QGEN advanced, counts restored. The entry carries the handle, both values of the mismatched pointer and the cause. -/
def endReset (r k : Nat) (s : State) : State :=
  match queueOf s r k with
  | none => s
  | some q =>
    let arg := queueHandle r k + q.cause.2.1 * 2 ^ 16 + q.cause.2.2 * 2 ^ 32 + q.cause.1 * 2 ^ 48
    let s1 := modEngine r (fun e =>
      let mine := (e.owner.filter fun o => o.2 == k).map (·.1)
      let e1 := { e with owner := e.owner.filter fun o => o.2 != k, slots := e.slots.filter fun o => !mine.contains o.1 }
      { e1 with freeA := unowned e1, freeB := unowned e1 }) s
    let s2 := changeOcc r k (fun _ => 0) s1
    let s3 := modQueue r k (fun q => { q with
      ptrA := {}, ptrB := {}, qgen := q.qgen + 1, resetting := false, midItems := 0, blankNext := false, consumerRefuse := true
      stats := { q.stats with resets := bump q.stats.resets }
      eps := q.eps.map fun e => { e with held := e.grant, transit := 0, freed := 0, openItems := 0, openJob := none,
                                         discardOpen := false, refuseOnce := true } }) s2
    let s4 := (q.eps.zipIdx).foldl (fun s e =>
      if e.1.module = ownModule s then s
      else send (creditPacket s r k e.2 e.1.module q.part (q.qgen + 1).toNat 1 []) s) s3
    let s5 := note 0x0306 (fun e => { e with status := 0x31, part := q.part, source := 0x0800 + r, arg := BitVec.ofNat 64 arg }) s4
    raiseSignal q.part (0x0800 + r) q.reset 1 s5

/-! Operations -/

/-- Which operation a request is, for the checks all share. -/
inductive QAccess where
  | producer (ep : Nat)
  | consumer
  deriving DecidableEq, Repr

/-- A refusal: status and detail. -/
abbrev QRefusal := Option (Status × Nat)

/-- Is the unit the one bound to the endpoint (R205)? -/
def boundTo (q : Queue) (own : Nat) (u : UnitId) : QAccess → Bool
  | .producer ep => match q.eps[ep]? with | some e => e.module == u.module && e.unit == u.unit | none => false
  | .consumer => u.module == own && q.consumer == u.unit

/-- Is a refusal owed to the endpoint's first operation after a reset (R220 step 6)? -/
def owesRefusal (q : Queue) : QAccess → Bool
  | .producer ep => match q.eps[ep]? with | some e => e.refuseOnce | none => false
  | .consumer => q.consumerRefuse

/-- Gives the refusal owed. -/
def clearRefusal (r k : Nat) (a : QAccess) (s : State) : State :=
  match a with
  | .producer ep => modEp r k ep (fun e => { e with refuseOnce := false }) s
  | .consumer => modQueue r k (fun q => { q with consumerRefuse := false }) s

/-- Logs a tenant violation on a queue (R204, R179). -/
def logQueueTenant (part : Nat) (u : UnitId) (other handle : Nat) (s : State) : State :=
  note 0x0602 (fun e => { e with
    status := 0x42, part := part, otherPart := other, source := u.unit, inc := u.inc, arg := BitVec.ofNat 64 handle }) s

/-- The checks every queue operation makes before its own (R204, R205, R220, R221): tenant, endpoint, RESETTING, the two
copies of every pointer and of the free list, and the refusal owed after a reset. A producer that is not its endpoint's
unit is refused as a pop is (log entry 23). -/
def checkQueue (r k part : Nat) (u : UnitId) (a : QAccess) (s : State) : ((Status × Nat) ⊕ Queue) × State :=
  match queueOf s r k with
  | none => (.inl (.tenantViolation, 0), logQueueTenant part u 0xFF (queueHandle r k) s)
  | some q =>
    if q.part ≠ part then (.inl (.tenantViolation, 0), logQueueTenant part u q.part (queueHandle r k) s)
    else if !boundTo q (ownModule s) u a then (.inl (.locked, 4), s)
    else if q.resetting || q.destroy.isSome then (.inl (.queueReset, 0), s)
    else if (engineOf s r).freeA ≠ (engineOf s r).freeB then (.inl (.queueReset, 0), raiseReport 2 r (.freeListMismatch r) (startRegionReset r s))
    else if q.ptrA ≠ q.ptrB then (.inl (.queueReset, 0), startReset r k 0 s)
    else if owesRefusal q a then (.inl (.queueReset, 0), clearRefusal r k a s)
    else (.inr q, s)

/-- A credit violation (R212). -/
def violate (r k ep : Nat) (part : Nat) (u : UnitId) (s : State) : State :=
  note 0x0605 (fun e => { e with
    status := 0x20, part := part, source := u.unit, inc := u.inc, arg := BitVec.ofNat 64 (queueHandle r k + ep * 2 ^ 16) })
    (modStats r k (fun t => { t with violations := bump t.violations }) s)

/-- What an operation answers its producer. -/
abbrev QResult := (Status × Nat) × State

/-- Does a request without a credit at its engine violate (R212)? A remote producer's credits are its proxy's. -/
def noCredit (own : Nat) (u : UnitId) (e : Endpoint) : Bool := u.module == own && e.held == 0

/-- QOPEN (R208, R212): the header slot, with the partition's placement epoch. -/
def qOpen (r k part ep : Nat) (u : UnitId) (tag : BitVec 32) (s : State) : QResult :=
  match checkQueue r k part u (.producer ep) s with
  | (.inl e, t) => (e, t)
  | (.inr q, t) =>
    if (tget ep q.ptrA.opens).isSome then ((.locked, 3), t)
    else
      match q.eps[ep]? with
      | none => ((.locked, 4), t)
      | some e =>
        if noCredit (ownModule t) u e then ((.quota, 0), violate r k ep part u t)
        else
          match takeSlot k (engineOf t r) with
          | none => ((.quota, 0), t)
          | some (x, eng) =>
            let ep0 := (partOf t part).epoch
            let slot : Slot := { kind := 1, qgen := q.qgen, epoch := ep0, producer := ep, length := 0xFFFFFFFF, tag := tag }
            let t1 := modEngine r (fun _ => { eng with slots := tput x slot eng.slots }) t
            let t2 := modPtrs r k (fun p => { p with opens := tput ep (x, x) p.opens }) t1
            let t3 := modEp r k ep (fun e => { e with
              held := e.held - 1, openItems := 0, openEpoch := ep0, openJob := (partOf t part).holder }) t2
            ((.ok, 0), changeOcc r k (· + 1) t3)

/-- QPUSH (R205, R208, R212): one item linked under the open header; a packet has at most 6,142 (log entry 127). -/
def qPush (r k part ep : Nat) (u : UnitId) (payload : List Byte) (s : State) : QResult :=
  match checkQueue r k part u (.producer ep) s with
  | (.inl e, t) => (e, t)
  | (.inr q, t) =>
    match tget ep q.ptrA.opens, q.eps[ep]? with
    | some o, some e =>
      if payload.length ≠ q.width * 16 ∨ 6142 ≤ e.openItems then ((.badLength, 0), t)
      else if noCredit (ownModule t) u e then ((.quota, 0), violate r k ep part u t)
      else
        match takeSlot k (engineOf t r) with
        | none => ((.quota, 0), t)
        | some (x, eng) =>
          let slot : Slot :=
            { kind := 2, qgen := q.qgen, epoch := e.openEpoch, producer := ep, length := BitVec.ofNat 32 e.openItems, payload := payload }
          let slots1 := tput x slot (tupd o.2 (fun y => { y with next := some x }) eng.slots)
          let t1 := modEngine r (fun _ => { eng with slots := slots1 }) t
          let t2 := modPtrs r k (fun p => { p with opens := tput ep (o.1, x) p.opens }) t1
          let t3 := modEp r k ep (fun e => { e with held := e.held - 1, openItems := e.openItems + 1 }) t2
          ((.ok, 0), changeOcc r k (· + 1) (modStats r k (fun st => { st with pushes := bump st.pushes }) t3))
    | _, _ => ((.badOpcode, 0), t)

/-- Publishes an endpoint's open packet (R208): the final length into its header, the chain onto the tail in one
operation, and the publish object raised by the packet's slots (R212). -/
def publish (r k ep : Nat) (h : Nat × Nat) (items : Nat) (s : State) : State :=
  match queueOf s r k with
  | none => s
  | some q =>
    let s1 := modEngine r (fun e =>
      let slots1 := tupd h.1 (fun y => { y with length := BitVec.ofNat 32 items }) e.slots
      { e with slots := match q.ptrA.tail with | some t => tupd t (fun y => { y with next := some h.1 }) slots1 | none => slots1 }) s
    let s2 := modPtrs r k (fun p => { p with head := some (p.head.getD h.1), tail := some h.2 }) s1
    raiseSignal q.part (0x0800 + r) q.publish (BitVec.ofNat 64 (items + 1)) (closeEp r k ep s2)

/-- QCLOSE (R208, R210, R212, R217, R219). -/
def qClose (r k part ep : Nat) (u : UnitId) (length : BitVec 32) (bad : Bool) (s : State) : QResult :=
  match checkQueue r k part u (.producer ep) s with
  | (.inl e, t) => (e, t)
  | (.inr q, t) =>
    match tget ep q.ptrA.opens, q.eps[ep]? with
    | some h, some e =>
      if length = 0xFFFFFFFF then ((.badLength, 0), t)
      else if e.discardOpen then ((.ok, 1), discardOpenPacket r k ep t)
      else if length.toNat ≠ e.openItems ∨ bad then
        ((.poisoned, 0x10),
          note 0x0604 (fun x => { x with
            status := 0x44, part := part, source := u.unit, inc := u.inc, arg := BitVec.ofNat 64 (queueHandle r k) })
            (modStats r k (fun st => { st with poisoned := bump st.poisoned }) (discardOpenPacket r k ep t)))
      else if e.openEpoch ≠ (partOf t part).epoch then
        ((.ok, 0), modStats r k (fun st => { st with stale := bump st.stale }) (discardOpenPacket r k ep t))
      else ((.ok, 0), publish r k ep h e.openItems t)
    | _, _ => ((.badOpcode, 0), t)

/-- A slot's 256-byte image as a pop returns it: NEXT reads 0 (R206). -/
def slotImage (x : Slot) : List Byte :=
  toLe 2 0 ++ toLe 1 x.kind ++ toLe 1 x.qgen.toNat ++ toLe 2 x.epoch.toNat ++ toLe 1 (x.producer % 8) ++ toLe 1 0 ++
    toLe 4 x.length.toNat ++ toLe 4 x.tag.toNat ++ bytesAt x.payload 0 240

/-- The blank item (R207). -/
def blankImage (qgen : BitVec 8) : List Byte := toLe 3 0 ++ toLe 1 qgen.toNat ++ List.replicate 252 0

/-- QUEUE_POP (R205, R207, R209, R210): the slot image, or a blank item, also once after a flush's timeout (R217); an uncorrectable NEXT
resets the queue. -/
def qPop (r k part : Nat) (u : UnitId) (badNext : Bool) (s : State) : QResult × List Byte :=
  match checkQueue r k part u .consumer s with
  | (.inl e, t) => ((e, t), [])
  | (.inr q, t) =>
    match if q.blankNext then none else q.ptrA.head with
    | none => (((.ok, 0), modQueue r k (fun q => { q with blankNext := false }) <| modStats r k (fun st => { st with blanks := bump st.blanks }) t), blankImage q.qgen)
    | some x =>
      if badNext then (((.queueReset, 0), startReset r k 1 t), [])
      else
        let slot := (tget x (engineOf t r).slots).getD {}
        let last := q.ptrA.tail == some x
        let t1 := modPtrs r k (fun p =>
          if last then { p with head := none, tail := none } else { p with head := slot.next }) t
        let t2 := modQueue r k (fun q => { q with
          midItems := if slot.kind = 1 then slot.length.toNat else q.midItems - 1
          stats := { q.stats with pops := bump q.stats.pops } }) t1
        (((.ok, 0), releaseSlots r k [x] t2), slotImage slot)

/-! Proxies (R213, R214, R216) -/

def isProxy (m q ep : Nat) (p : Proxy) : Bool := p.module == m && p.queue == q && p.endpoint == ep

def proxyOf (s : State) (m q ep : Nat) : Option Proxy := s.proxies.find? (isProxy m q ep)

def modProxy (m q ep : Nat) (f : Proxy → Proxy) (s : State) : State :=
  { s with proxies := s.proxies.map fun p => if isProxy m q ep p then f p else p }

/-- A QUEUE_OP request to the queue's module, as P3 on a plane the handle alone picks (R213, R316). op 0 is an open, 1 a
push, 2 a close, 3 a revocation, 4 its acknowledgement, 5 a credit and 6 its answer (log entry 22). -/
def queuePacket (s : State) (m q ep op unit part : Nat) (data : List Byte) : Pkt :=
  { type := .queueOp, src := ownModule s, dst := m, cls := 3, subch := 0, hops := 0
    plane := Config.planeHash (BitVec.ofNat 4 q) % 8, srcUnit := unit, srcInc := incOf s unit, part := part
    arg := BitVec.ofNat 64 ep, arg2 := BitVec.ofNat 64 (q % 2 ^ 16 + op * 2 ^ 16), data := data }

/-- A producer's request at its proxy (R213, R216): refused while disconnected, and for an open or a push without a
credit, which is counted (R212); else forwarded. A close is answered by the queue's engine. -/
def viaProxy (m q ep op part : Nat) (u : UnitId) (takes : Bool) (data : List Byte) (s : State) : QResult :=
  match proxyOf s m q ep with
  | none => ((.tenantViolation, 0), logQueueTenant part u 0xFF q s)
  | some p =>
    if p.part ≠ part then ((.tenantViolation, 0), logQueueTenant part u p.part q s)
    else if p.disconnected then ((.remoteWriteFailed, 0), s)
    else if takes ∧ p.held = 0 then
      ((.quota, 0), note 0x0605 (fun e => { e with
        status := 0x20, part := part, source := u.unit, inc := u.inc, arg := BitVec.ofNat 64 (q + ep * 2 ^ 16) })
        (modProxy m q ep (fun p => { p with violations := bump p.violations }) s))
    else
      let job := if op = 0 then (partOf s part).holder else if op = 2 then none else p.openJob
      ((.ok, 0), send (queuePacket s m q ep op u.unit part (toLe 1 p.qgen.toNat ++ data))
        (modProxy m q ep (fun p => { p with
          held := if takes then p.held - 1 else p.held
          pushed := if takes then p.pushed + 1 else p.pushed
          closing := if op = 2 then some u else p.closing
          openJob := job }) s))

/-- A refused open or push at the queue's engine changes nothing: its proxy takes the credit back (R208), unless the queue was reset
since. -/
def restoreCredit (m q ep op : Nat) (qgen : BitVec 8) (s : State) : State :=
  modProxy m q ep (fun p =>
    if p.qgen = qgen ∧ op < 2 then
      { p with held := min p.grant (p.held + 1), pushed := p.pushed - 1, openJob := if op = 0 then none else p.openJob }
    else p) s

/-- A close is answered: the proxy's unit is released. -/
def closeAnswered (m q ep : Nat) (s : State) : State := modProxy m q ep (fun p => { p with closing := none }) s

/-! Commands' parts -/

/-- Frees every slot and grant of a queue and advances its QGEN (R218, R222). -/
def revokeQueue (r k : Nat) (s : State) : State :=
  modQueue r k (fun q => { q with
    ptrA := {}, ptrB := {}, qgen := q.qgen + 1, midItems := 0
    eps := q.eps.map fun e => { e with grant := 0, held := 0, transit := 0 } })
    (changeOcc r k (fun _ => 0) (modEngine r (fun e => freeSlotsOf ((e.owner.filter fun o => o.2 == k).map (·.1)) e) s))

/-- Frees a queue's number, whose QGEN stays (R218). -/
def removeQueue (r k : Nat) (s : State) : State :=
  modEngine r (fun e => { e with
    gens := (match tget k e.queues with | some q => tput k q.qgen e.gens | none => e.gens)
    queues := tdel k e.queues }) s

/-- A flush takes effect, with the replies its commands are owed (R217). -/
def finishFlushes (r k : Nat) (st : Cmd × Nat → Status) (s : State) : State :=
  match queueOf s r k with
  | none => s
  | some q =>
    let s1 := modQueue r k (fun q => { q with flushes := [] })
      (modStats r k (fun t => { t with flushes := satAdd 0xFFFFFFFF t.flushes q.flushes.length }) (flushNow r k s))
    q.flushes.foldl (fun s f => finish f.1 (ans (st f)) s) s1

/-- A command's queue (R204): a bad handle is ST_BAD_LENGTH, detail 0x0004, another partition's queue or none is
ST_TENANT_VIOLATION, and one that is being reset or destroyed is ST_QUEUE_RESET, as is one whose copies differ, which resets it (R220,
R221). -/
def commandQueue (c : Cmd) (h : Nat) (s : State) (f : Nat → Nat → Queue → State) : State :=
  match queueRef h with
  | none => finish c (ans .badLength 4) s
  | some (r, k) =>
    match queueOf s r k with
    | none => finish c (ans .tenantViolation) (logQueueTenant c.part (unitId s (fnUnit c.fn)) 0xFF h s)
    | some q =>
      if q.part ≠ c.part then finish c (ans .tenantViolation) (logQueueTenant c.part (unitId s (fnUnit c.fn)) q.part h s)
      else if q.resetting || q.destroy.isSome then finish c (ans .queueReset) s
      else if (engineOf s r).freeA ≠ (engineOf s r).freeB then
        finish c (ans .queueReset) (raiseReport 2 r (.freeListMismatch r) (startRegionReset r s))
      else if q.ptrA ≠ q.ptrB then finish c (ans .queueReset) (startReset r k 0 s)
      else f r k q

/-- A producer endpoint's unit goes dark (R219): its open packet is discarded as a stale one, and with a replacing unit Birzu rebinds the
endpoint, and the consumer's, to it (log entry 128). -/
def rebindQueue (old : Nat) (new : Option Nat) (r k : Nat) (s : State) : State :=
  match queueOf s r k with
  | none => s
  | some q =>
    let mine := fun (e : Endpoint) => e.module == ownModule s && e.unit == old
    let s1 := (q.eps.zipIdx).foldl (fun s e =>
      if mine e.1 && (tget e.2 q.ptrA.opens).isSome then
        modStats r k (fun st => { st with stale := bump st.stale }) (discardOpenPacket r k e.2 s)
      else s) s
    match new with
    | none => s1
    | some u =>
      modQueue r k (fun q => { q with
        consumer := if q.consumer = old then u else q.consumer
        eps := q.eps.map fun e => if mine e then { e with unit := u } else e }) s1

/-- The same for every queue of the module and every proxy. -/
def rebindUnit (old : Nat) (new : Option Nat) (s : State) : State :=
  let keys := s.engines.flatMap fun e => e.2.queues.map fun q => (e.1, q.1)
  let s1 := keys.foldl (fun s k => rebindQueue old new k.1 k.2 s) s
  match new with
  | none => s1
  | some u => { s1 with proxies := s1.proxies.map fun p => if p.unit = old then { p with unit := u } else p }

/-- The partition a unit's queue operation belongs to (R179): a core's, a virtual function's, or, for a service of Birzu,
the queue's own. -/
def unitPart (s : State) (u : UnitId) (queue : Nat) : Nat :=
  if u.unit < 864 then (partOfCore s u.unit).getD 0xFF
  else if 0x0600 ≤ u.unit ∧ u.unit < 0x0610 then u.unit - 0x0600
  else if 2 ^ 16 ≤ queue then
    ((s.proxies.find? fun p => p.module == queue / 2 ^ 16 - 1 && p.queue == queue % 2 ^ 16).map (·.part)).getD 0xFF
  else ((queueRef queue).bind fun x => (queueOf s x.1 x.2).map (·.part)).getD 0xFF

/-- A local queue operation of a producer, or its proxy's (R213). -/
def producerOp (u : UnitId) (queue ep op : Nat) (takes : Bool) (data : List Byte)
    (f : Nat → Nat → Nat → State → QResult) (s : State) : QResult :=
  if 2 ^ 16 ≤ queue then viaProxy (queue / 2 ^ 16 - 1) (queue % 2 ^ 16) ep op (unitPart s u queue) u takes data s
  else
    match queueRef queue with
    | none => ((.badLength, 4), s)
    | some (r, k) => f r k (unitPart s u queue) s

/-- QOPEN wherever the queue lives. -/
def openAny (u : UnitId) (queue ep : Nat) (tag : BitVec 32) (s : State) : QResult :=
  producerOp u queue ep 0 true (toLe 4 tag.toNat) (fun r k part s => qOpen r k part ep u tag s) s

/-- QPUSH wherever the queue lives. -/
def pushAny (u : UnitId) (queue ep : Nat) (payload : List Byte) (s : State) : QResult :=
  producerOp u queue ep 1 true payload (fun r k part s => qPush r k part ep u payload s) s

/-- QCLOSE wherever the queue lives. -/
def closeAny (u : UnitId) (queue ep : Nat) (length : BitVec 32) (bad : Bool) (s : State) : QResult :=
  producerOp u queue ep 2 false (toLe 4 length.toNat) (fun r k part s => qClose r k part ep u length bad s) s

/-- The status an operation answers its unit. -/
def releaseTo (u : UnitId) (r : QResult) : State :=
  modOut (fun o => { o with releases := o.releases ++ [{ unit := u, status := r.1.1, detail := r.1.2 }] }) r.2

end Sys2Proof.Machine
end

