-- ==== Sys2Proof/Machine/Queue.lean ====
section
/-! DEFINITION. The meanings of the queue commands and events (R202 to R223). -/

namespace Sys2Proof.Machine

/-- Queues a partition has (R204, R344). -/
def queuesOfPart (s : State) (part : Nat) : Nat :=
  (s.engines.map fun e => e.2.queues.countP fun q => q.2.part == part).sum

/-- QUEUE_CREATE (R204, R205): the lowest free number of the region. -/
def execQueueCreate (c : Cmd) (region width consumer high low : Nat) (publish watermark reset : BitVec 32)
    (producers : List (Nat × Nat)) (s : State) : Result :=
  if 8 ≤ region ∨ width = 0 ∨ 15 < width ∨ producers.isEmpty ∨ 8 < producers.length then done c (ans .badLength 0xE) s
  else if handleRef publish = .bad ∨ handleRef watermark = .bad ∨ handleRef reset = .bad then done c (ans .badLength 4) s
  else if (partOf s c.part).quota.queues ≤ queuesOfPart s c.part then done c (ans .quota) s
  else
    let e := engineOf s region
    match freeIndex (e.queues.map (·.1)) 0 1024 with
    | none => done c (ans .quota) s
    | some k =>
      let q : Queue :=
        { part := c.part, width := width, consumer := consumer, high := high, low := low, publish := publish
          watermark := watermark, reset := reset, qgen := tgetD k 0 e.gens
          eps := producers.map fun p => { unit := p.1, module := p.2 } }
      done c { status := .ok, words := [BitVec.ofNat 32 (queueHandle region k)] }
        (modEngine region (fun e => { e with queues := tput k q e.queues }) s)

/-- A signed change of a count. -/
def addInt (n : Nat) (d : Int) : Nat := ((n : Int) + d).toNat

/-- Is a positive delta refused (R211): beyond the region's free slots, G of at most 6,144 or the partition's slot quota? -/
def grantRefused (s : State) (part r : Nat) (delta : Int) (e : Endpoint) : Bool :=
  decide ((freeSlots (engineOf s r) : Int) < delta) || decide (6144 < (e.grant : Int) + delta) ||
    decide (((partOf s part).quota.queueSlots : Int) < (grantsOfPart s part : Int) + delta)

/-- Changes an endpoint's grant and held count; a grant reconnects it (R211, R212, R216). -/
def applyGrant (r k ep : Nat) (delta : Int) (s : State) : State :=
  modEp r k ep (fun e => { e with grant := addInt e.grant delta, held := addInt e.held delta, disconnected := false }) s

/-- Tells a remote proxy its endpoint's grant (R211, R213, R216), with the consumer side's counts, QGEN and the endpoint's unit. status 2
is a grant of the queue's own module, 3 the answer to a REMOTE QUEUE_CREDIT. -/
def grantPacket (s : State) (r k ep status : Nat) (q : Queue) (e : Endpoint) : Pkt :=
  creditPacket s r k ep e.module q.part e.freed.toNat status
    (toLe 4 (e.freed.toNat + e.grant - e.held - e.transit) ++ toLe 4 e.grant ++ toLe 1 q.qgen.toNat ++ toLe 2 e.unit)

/-- Sends it as an endpoint stands. -/
def sendGrant (r k ep status : Nat) (s : State) : State :=
  match queueOf s r k with
  | none => s
  | some q => match q.eps[ep]? with | some e => send (grantPacket s r k ep status q e) s | none => s

/-- QUEUE_CREDIT at the queue's own module (R211, R212, R216). H of a remote producer is kept by its proxy, which is told of a grant and asked
for credits that a negative delta takes back; the command is answered when it has answered. -/
def creditLocal (c : Cmd) (r k ep : Nat) (delta : Int) (e : Endpoint) (s : State) : State :=
  if 0 ≤ delta then
    if grantRefused s c.part r delta e then finish c (ans .quota) s
    else
      let s1 := applyGrant r k ep delta s
      finish c (ans .ok) (if e.module = ownModule s then s1 else sendGrant r k ep 2 s1)
  else if e.module = ownModule s then
    if (e.held : Int) < -delta then finish c (ans .quota) s else finish c (ans .ok) (applyGrant r k ep delta s)
  else
    { send (creditPacket s r k ep e.module c.part 0 5 (toLe 4 delta.natAbs)) s with
      creditOps := s.creditOps ++ [{ cmd := c, module := e.module, queue := queueHandle r k, endpoint := ep, delta := delta }] }

/-- A signed count of four bytes. -/
def toLeInt (d : Int) : List Byte := toLe 4 (d % 2 ^ 32).toNat

/-- QUEUE_CREDIT REMOTE, for an endpoint of another module's queue (R211, R212; log entry 24): a negative delta is checked and taken where H
is kept, at the proxy; the queue's engine applies the rest and answers. -/
def creditRemote (c : Cmd) (queue ep : Nat) (delta : Int) (module : Nat) (s : State) : State :=
  let p := proxyOf s module queue ep
  if p.any fun p => p.part != c.part then
    finish c (ans .tenantViolation) (logQueueTenant c.part (unitId s (fnUnit c.fn)) ((p.map (·.part)).getD 0xFF) queue s)
  else if delta < 0 ∧ ((p.map (·.held)).getD 0 : Int) < -delta then finish c (ans .quota) s
  else
    let s1 := if delta < 0 then
        modProxy module queue ep (fun p => { p with grant := addInt p.grant delta, held := addInt p.held delta }) s
      else s
    { send (queuePacket s1 module queue ep 5 (0x0800 + queue / 2 ^ 13 % 8) c.part (toLeInt delta)) s1 with
      creditOps := s1.creditOps ++ [{ cmd := c, module := module, queue := queue, endpoint := ep, delta := delta }] }

/-- QUEUE_CREDIT (R211, R216). -/
def execQueueCredit (c : Cmd) (queue endpoint : Nat) (remote : Bool) (delta : Int) (module : Nat) (s : State) : Result :=
  if remote ∧ module ≠ ownModule s then
    if (queueRef queue).isNone then done c (ans .badLength 4) s
    else if 8 ≤ endpoint then done c (ans .badLength 0xE) s
    else .next (creditRemote c queue endpoint delta module s)
  else
    .next (commandQueue c queue s fun r k q =>
      match q.eps[endpoint]? with
      | none => finish c (ans .badLength 0xE) s
      | some e => creditLocal c r k endpoint delta e s)

/-- The QUEUE_CREDIT command that awaits another module's engine for an endpoint. -/
def creditOpOf (s : State) (module queue ep : Nat) : Option CreditOp :=
  s.creditOps.find? fun o => o.module == module && o.queue == queue && o.endpoint == ep

/-- Answers it. -/
def answerCredit (module queue ep : Nat) (st : Status) (s : State) : State :=
  match creditOpOf s module queue ep with
  | some o => finish o.cmd (ans st) { s with creditOps := s.creditOps.erase o }
  | none => s

/-- QUEUE_FLUSH (R217): at once where the consumer is not within a packet, else at its next boundary or its timeout. -/
def execQueueFlush (c : Cmd) (queue timeout : Nat) (s : State) : Result :=
  .next (commandQueue c queue s fun r k q =>
    let s1 := modQueue r k (fun q => { q with flushes := q.flushes ++ [(c, timeout)] }) s
    if q.midItems = 0 then finishFlushes r k (fun _ => .ok) s1 else s1)

/-- QUEUE_DESTROY (R218): a flush at once, QGEN advanced, every grant released, every remote proxy revoked. -/
def execQueueDestroy (c : Cmd) (queue : Nat) (s : State) : Result :=
  .next (commandQueue c queue s fun r k q =>
    let remote := (q.eps.zipIdx).filter fun e => e.1.module != ownModule s
    let s1 := revokeQueue r k (finishFlushes r k (fun _ => .ok) s)
    let s2 := remote.foldl (fun s e => send { queuePacket s e.1.module queue e.2 3 (0x0800 + r) q.part [] with cls := 2 } s) s1
    if remote.isEmpty then finish c (ans .ok) (removeQueue r k s2)
    else modQueue r k (fun q => { q with destroy := some (c, remote.map (·.2)) }) s2)

/-- QOPEN (R208, R212, R213). -/
def execQopen (u : UnitId) (queue endpoint : Nat) (tag : BitVec 32) (s : State) : Result :=
  .next (releaseTo u (openAny u queue endpoint tag s))

/-- QPUSH (R205, R208, R212, R213). -/
def execQpush (u : UnitId) (queue endpoint : Nat) (payload : List Byte) (s : State) : Result :=
  .next (releaseTo u (pushAny u queue endpoint payload s))

/-- QCLOSE (R208, R210, R212, R213): a remote queue's engine answers it (log entry 24). -/
def execQclose (u : UnitId) (queue endpoint : Nat) (length : BitVec 32) (uncorrectable : Bool) (s : State) : Result :=
  let r := closeAny u queue endpoint length uncorrectable s
  .next (if 2 ^ 16 ≤ queue ∧ r.1.1 = .ok then r.2 else releaseTo u r)

/-- A slot image returned to its consumer as one P3 packet (R206), on the plane its handle picks (R26, R213). -/
def imagePacket (s : State) (r queue : Nat) (u : UnitId) (bs : List Byte) : Pkt :=
  { type := .readData, src := ownModule s, dst := u.module, cls := 3, subch := 0, hops := 0
    plane := Config.planeHash (BitVec.ofNat 4 queue) % 8, srcUnit := 0x0800 + r, srcInc := incOf s (0x0800 + r), part := unitPart s u queue, arg := BitVec.ofNat 64 queue
    arg2 := 0, data := bs, dstUnit := u.unit }

/-- QUEUE_POP (R205 to R207, R209). -/
def execQueuePop (u : UnitId) (queue : Nat) (badNext : Bool) (s : State) : Result :=
  match queueRef queue with
  | none => .next (releaseTo u ((.badLength, 4), s))
  | some (r, k) =>
    let a := qPop r k (unitPart s u queue) u badNext s
    .next (releaseTo u (a.1.1, if a.2.isEmpty then a.1.2 else send (imagePacket s r queue u a.2) a.1.2))

/-- A producer's request on a local queue. -/
def requestOf (r k part ep : Nat) (u : UnitId) (req : QueueReq) (s : State) : QResult :=
  match req with
  | .open tag => qOpen r k part ep u tag s
  | .push payload => qPush r k part ep u payload s
  | .close length bad => qClose r k part ep u length bad s
  | _ => ((.badOpcode, 0), s)

/-- The answer to a remote producer: the handle and QGEN of its request beside the status (log entry 24). -/
def queueReply (s : State) (p : Pkt) (r k : Nat) (qgen : BitVec 8) (type : PktType) (st : Status × Nat) : Pkt :=
  { replyTo s p type (statusCode st.1 + st.2 * 2 ^ 16) with data := toLe 2 (queueHandle r k) ++ toLe 1 qgen.toNat }

/-- A REMOTE credit change reaches the queue's engine (R211). A negative delta has been taken from the proxy. -/
def creditArrives (p : Pkt) (r k ep : Nat) (delta : Int) (e : Endpoint) (s : State) : State :=
  if e.module ≠ p.src then send (creditPacket s r k ep p.src p.part 0 (4 + statusCode .badLength * 2 ^ 16) []) s
  else if 0 ≤ delta ∧ grantRefused s p.part r delta e then
    send (creditPacket s r k ep p.src p.part 0 (4 + statusCode .quota * 2 ^ 16) []) s
  else sendGrant r k ep 3 (applyGrant r k ep delta s)

/-- A proxy has answered a request for credits (R212). -/
def cededArrives (p : Pkt) (r k ep : Nat) (granted : Bool) (s : State) : State :=
  match creditOpOf s p.src (queueHandle r k) ep with
  | none => s
  | some o => answerCredit p.src (queueHandle r k) ep (if granted then .ok else .quota) (if granted then applyGrant r k ep o.delta s else s)

/-- A remote producer's request arrives (R204, R213, R219): the partition is checked first; one with an old QGEN is dropped, and the packet
counted at its close, which answers ST_OK; a refusal returns to the producer. -/
def execQueueOp (p : Pkt) (endpoint : Nat) (qgen : BitVec 8) (req : QueueReq) (s : State) : Result :=
  let u : UnitId := ⟨p.src, p.srcUnit, p.srcInc⟩
  match queueRef (p.arg2.toNat % 2 ^ 16) with
  | none => .next (send { replyTo s p .refusal (0x11 + 4 * 2 ^ 16) with data := toLe 2 0 ++ toLe 1 0 } s)
  | some (r, k) =>
    match queueOf s r k with
    | none => .next (send (queueReply s p r k qgen .refusal (.tenantViolation, 0)) (logQueueTenant p.part u 0xFF (queueHandle r k) s))
    | some q =>
      if q.part ≠ p.part then
        .next (send (queueReply s p r k qgen .refusal (.tenantViolation, 0)) (logQueueTenant p.part u q.part (queueHandle r k) s))
      else
        match req with
        | .credit delta =>
          match q.eps[endpoint]? with
          | some e => .next (creditArrives p r k endpoint delta e s)
          | none => .next (send (creditPacket s r k endpoint p.src p.part 0 (4 + (statusCode .badLength) * 2 ^ 16) []) s)
        | .ceded granted => .next (cededArrives p r k endpoint granted s)
        | req =>
          let isClose := match req with | .close _ _ => true | _ => false
          if q.qgen ≠ qgen then
            .next (if isClose then send (queueReply s p r k qgen .ack (.ok, 0)) (modStats r k (fun t => { t with stale := bump t.stale }) s) else s)
          else
            let a := requestOf r k p.part endpoint u req s
            .next (if a.1.1 ≠ .ok then send (queueReply s p r k qgen .refusal a.1) a.2
              else if isClose then send (queueReply s p r k qgen .ack a.1) a.2
              else a.2)

/-- A consumer's packet boundary (R217): the waiting flush takes effect. -/
def execQueueFlushBoundary (queue : Nat) (s : State) : Result :=
  match queueRef queue with
  | none => .next s
  | some (r, k) =>
    match queueOf s r k with
    | some q => .next (if q.midItems = 0 ∧ ¬ q.flushes.isEmpty then finishFlushes r k (fun _ => .ok) s else s)
    | none => .next s

/-- The timeout of a waiting flush (R217): it takes effect at once and returns ST_TIMEOUT, and the consumer's next pop is blank; the
flushes that wait with it have then reached their boundary. -/
def execQueueFlushTimeout (flush : FlushRef) (s : State) : Result :=
  match queueRef flush.queue with
  | none => .next s
  | some (r, k) =>
    match (queueOf s r k).bind fun q => q.flushes[flush.index]? with
    | some f =>
      .next (if f.2 = 0 then s
        else modQueue r k (fun q => { q with blankNext := true }) (finishFlushes r k (fun x => if x = f then .timeout else .ok) s))
    | none => .next s

/-- Ends a destroy (R218). -/
def endDestroy (r k : Nat) (st : Status) (s : State) : State :=
  match (queueOf s r k).bind (·.destroy) with
  | some d => finish d.1 (ans st) (removeQueue r k s)
  | none => s

/-- A proxy has not acknowledged within 10 ms (R218). -/
def execQueueDestroyTimeout (queue : Nat) (s : State) : Result :=
  match queueRef queue with
  | none => .next s
  | some (r, k) => .next (endDestroy r k .timeout s)

/-- A revocation's acknowledgement (R218); the last one frees the queue. -/
def execRevocationAck (queue endpoint : Nat) (s : State) : Result :=
  match queueRef queue with
  | none => .next s
  | some (r, k) =>
    match (queueOf s r k).bind (·.destroy) with
    | none => .next s
    | some d =>
      let left := d.2.filter (· != endpoint)
      .next (if left.isEmpty then endDestroy r k .ok s else modQueue r k (fun q => { q with destroy := some (d.1, left) }) s)

/-- A revocation reaches a proxy, which drops its endpoint state and acknowledges (R218). -/
def execProxyRevocation (module queue endpoint : Nat) (s : State) : Result :=
  .next (send { queuePacket s module queue endpoint 4 (0x0800 + queue / 2 ^ 13 % 8) 0 [] with cls := 2 }
    { s with proxies := s.proxies.filter fun p => !isProxy module queue endpoint p })

/-- A proxy takes a new QGEN and restores its counts (R220 step 4). -/
def renewProxy (module queue endpoint : Nat) (qgen : BitVec 8) (s : State) : State :=
  modProxy module queue endpoint (fun p => { p with
    qgen := qgen, held := p.grant, pushed := 0, returned := 0, openJob := none }) s

/-- A grant reaches a proxy (R211, R213, R216): it takes the queue's grant, and where it is new or was disconnected also the consumer side's
counts and QGEN. -/
def takeGrant (p : Pkt) (queue endpoint : Nat) (s : State) : State :=
  let grant := fieldAt p.data 4 4
  let returned := BitVec.ofNat 32 p.arg.toNat
  let fresh : Proxy :=
    let pushed := BitVec.ofNat 32 (fieldAt p.data 0 4)
    { module := p.src, queue := queue, endpoint := endpoint, part := p.part, unit := fieldAt p.data 9 2, grant := grant
      pushed := pushed, returned := returned, held := grant - (pushed - returned).toNat, qgen := BitVec.ofNat 8 (fieldAt p.data 8 1) }
  match proxyOf s p.src queue endpoint with
  | none => { s with proxies := s.proxies ++ [fresh] }
  | some _ =>
    modProxy p.src queue endpoint (fun x =>
      if x.disconnected then { fresh with violations := x.violations }
      else { x with grant := grant, held := grant - (x.pushed - x.returned).toNat }) s

/-- A proxy is asked for credits its queue takes back: given where it holds them (R211, R212). -/
def giveUp (p : Pkt) (queue endpoint : Nat) (s : State) : State :=
  let n := fieldAt p.data 0 4
  let has := (proxyOf s p.src queue endpoint).any fun x => n ≤ x.held
  let s1 := if has then modProxy p.src queue endpoint (fun x => { x with grant := x.grant - n, held := x.held - n }) s else s
  send (queuePacket s1 p.src queue endpoint 6 (0x0800 + queue / 2 ^ 13 % 8) p.part (toLe 1 (if has then 1 else 0))) s1

/-- QUEUE_CREDIT_RETURN: a cumulative credit count reaches a proxy (R214): H = G − (pushed − returned). The engine's other messages to a
proxy come the same way (log entry 24). -/
def execQueueCreditReturn (p : Pkt) (endpoint : Nat) (s : State) : Result :=
  let returned := BitVec.ofNat 32 p.arg.toNat
  let queue := p.arg2.toNat % 2 ^ 16
  .next (match p.status % 2 ^ 16 with
    | 0 => modProxy p.src queue endpoint (fun x => { x with returned := returned, held := x.grant - (x.pushed - returned).toNat }) s
    | 1 => renewProxy p.src queue endpoint (BitVec.ofNat 8 p.arg.toNat) s
    | 2 => takeGrant p queue endpoint s
    | 3 => answerCredit p.src queue endpoint .ok (takeGrant p queue endpoint s)
    | 4 => answerCredit p.src queue endpoint (statusOf (p.status / 2 ^ 16)) s
    | 5 => giveUp p queue endpoint s
    | _ => s)

/-- The engine sends an endpoint's credit return (R214). -/
def execCreditReturnSend (queue endpoint : Nat) (s : State) : Result :=
  match queueRef queue with
  | none => .next s
  | some (r, k) =>
    match queueOf s r k with
    | none => .next s
    | some q =>
      match q.eps[endpoint]? with
      | none => .next s
      | some e =>
        if e.transit = 0 then .next s
        else
          .next (send (creditPacket s r k endpoint e.module q.part e.freed.toNat 0 [])
            (modEp r k endpoint (fun e => { e with held := e.held + e.transit, transit := 0 }) s))

/-- Marks an endpoint at the consumer's engine lost: its open packet is discarded as poisoned (R210, R216); where the queue's copies differ
the queue is reset instead (R220). -/
def disconnectHere (r k ep module : Nat) (s : State) : State :=
  match queueOf s r k with
  | none => s
  | some q =>
    match q.eps[ep]? with
    | none => s
    | some e =>
      if e.module ≠ module ∨ module = ownModule s then s
      else
        let s1 := modEp r k ep (fun e => { e with disconnected := true }) s
        if q.ptrA ≠ q.ptrB then startReset r k 0 s1
        else if (tget ep q.ptrA.opens).isSome then
          note 0x0604 (fun x => { x with status := 0x44, part := q.part, source := e.unit, arg := BitVec.ofNat 64 (queueHandle r k) })
            (modStats r k (fun st => { st with poisoned := bump st.poisoned }) (discardOpenPacket r k ep s1))
        else s1

/-- A remote producer is lost (R216): its proxy here, whose unanswered close fails, or its endpoint at a queue here. -/
def execProducerDisconnect (queue endpoint module : Nat) (s : State) : Result :=
  let failed := ((proxyOf s module queue endpoint).bind (·.closing)).toList.map fun u => ({ unit := u, status := .remoteWriteFailed } : Release)
  let s1 := modOut (fun o => { o with releases := o.releases ++ failed })
    (modProxy module queue endpoint (fun p => { p with disconnected := true, closing := none }) s)
  match queueRef queue with
  | none => .next s1
  | some (r, k) => .next (disconnectHere r k endpoint module s1)

end Sys2Proof.Machine
end

