-- ==== Sys2Proof/Machine/Stage.lean ====
section
/-! DEFINITION. The stage sequencer (R224 to R232), and the end of a queue reset, which can stop a stage's step. -/

namespace Sys2Proof.Machine

/-- STAGE_CONFIG's in-flight peak (R225, R226). -/
def stagePeak (g : StageCfg) : Nat := if g.fillDrain then g.nmb else min (g.stages - g.index) g.nmb

/-- The order of passes of one step (R225, R226). -/
def stageOrder (g : StageCfg) : List Pass :=
  if g.fillDrain then (List.range g.nmb).map .forward ++ (List.range g.nmb).map .backward
  else
    let w := min (g.stages - g.index - 1) g.nmb
    (List.range w).map .forward ++
      ((List.range (g.nmb - w)).flatMap fun i => [.forward (w + i), .backward i]) ++
      (List.range w).map fun i => .backward (g.nmb - w + i)

/-- Does a stage's queue lie on this module? -/
def stageLocal (s : State) (module : Nat) : Bool := module == ownModule s

/-- Slots granted for a queue of a stage: all of a local queue's grants, or its proxy's (R224; log entry 25). -/
def stageGrants (s : State) (module queue : Nat) : Option Nat :=
  if stageLocal s module then
    ((queueRef queue).bind fun x => queueOf s x.1 x.2).map fun q => (q.eps.map (·.grant)).sum
  else (s.proxies.find? fun p => p.module == module && p.queue == queue).map (·.grant)

/-- One queue of a configuration: absent where the stage has none, else a handle of the partition with grants that cover
the peak (R224). -/
def checkStageQueue (s : State) (part module queue peak : Nat) (has : Bool) : Option (Status × Nat) :=
  if !has then (if queue = 0xFFFF then none else some (.badLength, 0xE))
  else
    match queueRef queue with
    | none => some (.badLength, 4)
    | some (r, k) =>
      let owner := if stageLocal s module then (queueOf s r k).map (·.part)
        else (s.proxies.find? fun p => p.module == module && p.queue == queue).map (·.part)
      if owner ≠ some part then some (.tenantViolation, 0)
      else if (stageGrants s module queue).getD 0 < peak then some (.quota, 0)
      else none

/-- The checks of STAGE_CONFIG (R224). -/
def checkStage (s : State) (part : Nat) (g : StageCfg) : Option (Status × Nat) :=
  let own := ownModule s
  let first := g.index == 0
  let last := g.index + 1 == g.stages
  if g.stages = 0 ∨ 65535 < g.stages ∨ g.stages ≤ g.index ∨ g.nmb = 0 ∨ 4096 < g.nmb ∨ g.inFlight = 0 ∨ 64 < g.inFlight then
    some (.badLength, 0xE)
  else if ((tget g.plan s.plans).map (·.part)) ≠ some part then some (.planRejected, 0x0F00)
  else if g.inFlight < stagePeak g then some (.quota, 0)
  else
    ([checkStageQueue s part own g.fwdIn (stagePeak g) (!first), checkStageQueue s part g.fwdOutModule g.fwdOut (stagePeak g) (!last),
      checkStageQueue s part own g.bwdIn (stagePeak g) (!last),
      checkStageQueue s part g.bwdOutModule g.bwdOut (stagePeak g) (!first)].findSome? id)

/-- STAGE_CONFIG (R224). A refused configuration leaves the one in force. -/
def execStageConfig (c : Cmd) (stages index nmb inFlight schedule fwdIn fwdOut bwdIn bwdOut fwdOutModule bwdOutModule plan
    fwdList bwdList : Nat) (s : State) : Result :=
  let g : StageCfg :=
    { stages := stages, index := index, nmb := nmb, inFlight := inFlight, fillDrain := schedule == 1, fwdIn := fwdIn
      fwdOut := fwdOut, bwdIn := bwdIn, bwdOut := bwdOut, fwdOutModule := fwdOutModule, bwdOutModule := bwdOutModule
      plan := plan, fwdList := fwdList, bwdList := bwdList }
  match checkStage s c.part g with
  | some e => done c (ans e.1 e.2) s
  | none => done c (ans .ok) (modStage c.part (fun t => { t with cfg := some g }) s)

/-- STAGE_RUN (R229). Without a configuration it is ST_BAD_LENGTH, detail 0x000E; while a step runs, ST_LOCKED (log entry
25). -/
def execStageRun (c : Cmd) (_step : Nat) (s : State) : Result :=
  let t := (partOf s c.part).stage
  match t.cfg with
  | none => done c (ans .badLength 0xE) s
  | some g =>
    if t.run.isSome then done c (ans .locked) s
    else .next (modStage c.part (fun t => { t with run := some { cmd := c, passes := stageOrder g }, cut := none }) s)

/-- STAGE_DRAIN (R230). -/
def execStageDrain (c : Cmd) (cut timeout : Nat) (s : State) : Result :=
  match (partOf s c.part).stage.cfg with
  | none => done c (ans .badLength 0xE) s
  | some g =>
    if g.nmb < cut then done c (ans .badLength 0xE) s
    else if (partOf s c.part).stage.drain.isSome then done c (ans .locked) s
    else .next (settleDrain c.part (modStage c.part (fun t => { t with drain := some (c, timeout), cut := some cut }) s))

/-- A drain's own timeout (R230, R175). -/
def execStageDrainTimeout (part : Nat) (s : State) : Result :=
  match (partOf s part).stage.drain with
  | some d =>
    if d.2 = 0 then .next s else .next (finish d.1 (ans .timeout) (modStage part (fun t => { t with drain := none }) s))
  | none => .next s

/-- STAGE_OFFLOAD (R231): k of at most the stage's layers, and a host buffer in the host window of k layers for the in-flight peak.
bytesPerLayer is what the stage's plan saves for a layer (log entry 26). -/
def execStageOffload (c : Cmd) (k tokens hostBuf hostBytes bytesPerLayer : Nat) (s : State) : Result :=
  let t := (partOf s c.part).stage
  let peak := (t.cfg.map stagePeak).getD 0
  let layers := (t.cfg.bind fun g => (tget g.plan s.plans).map fun p => p.body.layers).getD 0
  let inWindow := match localRange s c.part hostBuf hostBytes with | some (.host, _) => true | _ => false
  if layers < k then done c (ans .badLength 0xE) s
  else if !inWindow then done c (ans .badLength 1) s
  else if hostBytes < k * peak * bytesPerLayer then done c (ans .quota) s
  else
    done c (ans .ok) (modStage c.part (fun t => { t with
      offloadK := k, offloadT := tokens, hostBuf := hostBuf, hostBytes := hostBytes, layerBytes := bytesPerLayer }) s)

/-! Passes -/

/-- The pass a stage runs next (R227), past the forwards a drain holds back and the backwards that follow from them
(R230). -/
def nextPass (cut : Option Nat) (r : StageRunState) : Option Pass :=
  r.passes.find? fun p =>
    match cut, p with
    | some x, .forward i => i < x
    | some x, .backward i => i < x || r.inFlight.contains i
    | none, _ => true

/-- A pass's input packet: taken whole, not there yet, or a failure that stops the step (R227). -/
inductive Input where
  | taken (s : State)
  | absent
  | failed (st : Status) (detail : Nat) (s : State)

/-- Pops the n items that follow a header. -/
def popItems (r k part : Nat) (u : UnitId) : Nat → State → State
  | 0, s => s
  | n + 1, s => popItems r k part u n (qPop r k part u false s).1.2

/-- Takes the packet of micro-batch i from an input queue: a header with another TAG is a poisoned packet, whose slots
are freed (R227). -/
def takeInput (part queue i : Nat) (s : State) : Input :=
  let u := unitId s headUnit
  match queueRef queue with
  | none => .failed .badLength 4 s
  | some (r, k) =>
    match (queueOf s r k).bind fun q => q.ptrA.head with
    | none => .absent
    | some x =>
      let slot := (tget x (engineOf s r).slots).getD {}
      match qPop r k part u false s with
      | (((.ok, _), t), _) =>
        let t1 := popItems r k part u slot.length.toNat t
        if slot.tag.toNat = i then .taken t1
        else
          .failed .poisoned 0x11 (note 0x0604 (fun e => { e with
            status := 0x44, part := part, source := headUnit, inc := incOf t1 headUnit, arg := BitVec.ofNat 64 queue })
            (modStats r k (fun st => { st with poisoned := bump st.poisoned }) t1))
      | (((st, d), t), _) => .failed st d t

/-- The endpoint of the sequencer at an output queue, as a queue operand and an endpoint number. -/
def outEndpoint (s : State) (part module queue : Nat) : Option (Nat × Nat) :=
  if stageLocal s module then
    ((queueRef queue).bind fun x => queueOf s x.1 x.2).bind fun q =>
      (q.eps.findIdx? fun e => e.unit == headUnit && e.module == module).map fun i => (queue, i)
  else
    (s.proxies.find? fun p => p.module == module && p.queue == queue && p.part == part).map fun p =>
      ((module + 1) * 2 ^ 16 + queue, p.endpoint)

/-- Publishes a packet with a micro-batch's tag on an output queue (R225). -/
def publishOut (part module queue i : Nat) (items : List (List Byte)) (s : State) : QResult :=
  match outEndpoint s part module queue with
  | none => ((.tenantViolation, 0), s)
  | some (h, ep) =>
    let u := unitId s headUnit
    let step := fun (r : QResult) (f : State → QResult) => if r.1.1 = .ok then f r.2 else r
    let a := openAny u h ep (BitVec.ofNat 32 i) s
    let b := items.foldl (fun r x => step r (pushAny u h ep x)) a
    step b (closeAny u h ep (BitVec.ofNat 32 items.length) false)

/-- Marks the stage as waiting for an input: it waits on the queue's publish object for the next slot, and the wait is stall time
(R227). -/
def markStall (part queue : Nat) (s : State) : State :=
  match (partOf s part).stage.run with
  | none => s
  | some r =>
    if r.waitFrom.isSome then s
    else
      let s1 := modRun part (fun r => { r with waitFrom := some s.time.now }) s
      match ((queueRef queue).bind fun x => queueOf s x.1 x.2).map fun q => (q.publish, handleRef q.publish) with
      | some (h, .object i) =>
        let target := ((tget i s.objects).map fun o => BitVec.ofNat 48 (o.value.toNat + 1)).getD 0
        onObject (.unit part (unitId s headUnit)) h i (applyWait (issuerId s) s.time.now (.unit part (unitId s headUnit)) false target 0) s1
      | _ => s1

/-- Runs a pass that is next (R227, R229): its input, the command list it issues through the region keepers, its commands' status, its
output, then its bookkeeping. -/
def runPass (part i list : Nat) (input : Option Nat) (output : Option (Nat × Nat)) (items : List (List Byte)) (status : Nat)
    (book : State → State) (s : State) : State :=
  let go := fun (t : State) =>
    let plan := ((partOf t part).stage.cfg.map (·.plan)).getD 0
    let t0 := modOut (fun o => { o with lists := o.lists ++ [(part, plan, list, i)] }) (endWaits part (modRun part (endStall s.time.now) t))
    if status ≠ 0 then stopStep part (statusOf status) 0 t0
    else
      match output with
      | none => book t0
      | some o =>
        match publishOut part o.1 o.2 i items t0 with
        | ((.ok, _), t1) => book t1
        | ((st, d), t1) => stopStep part st d t1
  match input with
  | none => go s
  | some q =>
    match takeInput part q i s with
    | .taken t => go t
    | .absent => markStall part q s
    | .failed st d t => stopStep part st d t

/-- A stage that can run a pass: its configuration and step. A stopped job's step waits (R354). -/
def stageReady (s : State) (part : Nat) (p : Pass) : Option (StageCfg × StageRunState) :=
  let t := (partOf s part).stage
  match t.cfg, t.run with
  | some g, some r => if nextPass t.cut r = some p ∧ !cmdStopped s r.cmd then some (g, r) else none
  | _, _ => none

/-- FORWARD_PASS (R225 to R227, R229). -/
def execForwardPass (part mb : Nat) (items : List (List Byte)) (status : Nat) (s : State) : Result :=
  match stageReady s part (.forward mb) with
  | none => .next s
  | some (g, _) =>
    .next (runPass part mb g.fwdList (if g.index = 0 then none else some g.fwdIn)
      (if g.index + 1 = g.stages then none else some (g.fwdOutModule, g.fwdOut)) items status
      (modRun part fun r => { r with passes := r.passes.erase (.forward mb), inFlight := r.inFlight ++ [mb] }) s)

/-- A completed backward: the micro-batch leaves the stage, and its host buffer but for the off-loads still running; the last one ends the step (R229), and a drain may end (R230). -/
def completeBackward (part mb : Nat) (s : State) : State :=
  let s1 := modRun part (fun r => { r with
    passes := r.passes.erase (.backward mb), inFlight := r.inFlight.erase mb, completed := r.completed + 1
    offloaded := r.offloaded.filter (·.1 != mb), returned := r.returned.filter (·.1 != mb)
    buffer := r.buffer.filter fun c => c.mb != mb || r.offloading.contains (c.mb, c.layer) }) s
  match (partOf s1 part).stage.run with
  | some r => if r.passes.isEmpty then endStep part .ok 0 0 s1 else settleDrain part s1
  | none => s1

/-- Adds a micro-batch's gradients to the elements of a buffer in the format of the partition's gradient buckets (R228). -/
def addGrads (part : Nat) (grads : List (Nat × List Lane)) (s : State) : State :=
  let code := (partOf s part).learning.format
  grads.foldl (fun s g =>
    g.2.zipIdx.foldl (fun s x =>
      writeElem g.1 code x.2 (convert code false .rne (addV (decodeElem code (readElem s g.1 code x.2)) (val32 x.1))) s) s) s

/-- BACKWARD_PASS (R225 to R229, R232): it waits for the return of the layers whose off-load for its micro-batch has completed, and adds
the micro-batch's gradients to the step's buffers. -/
def execBackwardPass (part mb : Nat) (out : BackwardOut) (status : Nat) (s : State) : Result :=
  match stageReady s part (.backward mb) with
  | none => .next s
  | some (g, r) =>
    if r.offloaded.any fun e => e.1 == mb && !r.returned.contains e then .next s
    else
      .next (runPass part mb g.bwdList (if g.index + 1 = g.stages then none else some g.bwdIn)
        (if g.index = 0 then none else some (g.bwdOutModule, g.bwdOut)) out.items status
        (fun s => completeBackward part mb (addGrads part out.grads s)) s)

/-- Can a layer's bytes lie at a place of the host buffer: inside it, and beside every copy it holds (R231)? -/
def hostFits (t : Stage) (r : StageRunState) (host bytes : Nat) : Bool :=
  bytes ≤ t.layerBytes && t.hostBuf ≤ host && host + bytes ≤ t.hostBuf + t.hostBytes &&
    r.buffer.all fun c => decide (c.host + c.bytes ≤ host ∨ host + bytes ≤ c.host)

/-- Starts a layer's copy as a DMA of the sequencer (R232): on its channel of the region its HBM lies in (R431). A check that fails stops
the step. -/
def startCopy (part : Nat) (purpose : DmaFor) (hbm src dst n channel : Nat) (book : State → State) (s : State) : State :=
  match firstOf [checkStarts s part src dst .copy, checkExtents s part src dst n .copy] with
  | some e => stopStep part e.1 e.2 s
  | none =>
    let r := regionOfHbm (hbm % 2 ^ 47) % 8
    match pickChannel s r channel with
    | none => stopStep part .unitDark 0 s
    | some k =>
      startTransfer r k { purpose := purpose, part := part, op := .copy, src := src, dst := dst, length := n, clsDst := .normal, serial := 0 } (book s)

/-- ACTIVATION_OFFLOAD (R231, R232): at the end of a layer's forward, for a micro-batch of at least T tokens and a layer
below k, the earliest not off-loaded yet, the copy of its activations to free space of the host buffer starts. -/
def execActivationOffload (part mb layer tokens src host bytes channel : Nat) (s : State) : Result :=
  let t := (partOf s part).stage
  match t.run with
  | none => .next s
  | some r =>
    let started := (r.offloading ++ r.offloaded).filter fun e => e.1 == mb
    if t.offloadK ≤ layer ∨ tokens < t.offloadT ∨ started.length ≠ layer ∨
        ¬ (r.inFlight.contains mb ∨ nextPass t.cut r = some (.forward mb)) ∨ hostFits t r host bytes = false then .next s
    else
      .next (startCopy part (.offload part mb layer) src src host bytes channel
        (modRun part fun r => { r with offloading := r.offloading ++ [(mb, layer)], buffer := r.buffer ++ [⟨mb, layer, host, bytes⟩] }) s)

/-- Is this layer the next of its micro-batch to return: the highest not yet back (R232)? -/
def nextReturn (r : StageRunState) (mb layer : Nat) : Bool :=
  let left := (r.offloaded.filter fun e => e.1 == mb && !r.returned.contains e).map (·.2)
  r.returning.isNone && left.max? == some layer

/-- ACTIVATION_RETURN (R232): once the micro-batch's backward begins, the copies back of its layers start one at a time from k − 1
down, each of the bytes its off-load put into the host buffer. -/
def execActivationReturn (part mb layer host dst bytes channel : Nat) (s : State) : Result :=
  let t := (partOf s part).stage
  match t.run with
  | none => .next s
  | some r =>
    if ¬ nextReturn r mb layer ∨ nextPass t.cut r ≠ some (.backward mb) ∨ ¬ r.buffer.contains ⟨mb, layer, host, bytes⟩ then .next s
    else
      .next (startCopy part (.bring part mb layer) dst host dst bytes channel
        (modRun part fun r => { r with returning := some (mb, layer) }) s)

/-! Queue resets (R220, R229) -/

/-- Does a stage use a queue of a module? -/
def stageUses (s : State) (t : Stage) (module queue : Nat) : Bool :=
  match t.cfg with
  | none => false
  | some g =>
    (module == ownModule s && (g.fwdIn == queue || g.bwdIn == queue)) || (g.fwdOutModule == module && g.fwdOut == queue) ||
      (g.bwdOutModule == module && g.bwdOut == queue)

/-- Stops the steps of every stage that uses a queue that was reset (R229). -/
def stopStages (module queue : Nat) (s : State) : State :=
  ((s.parts.filter fun p => stageUses s p.2.stage module queue).map (·.1)).foldl (fun s p => stopStep p .queueReset 0 s) s

/-- QUEUE_RESET_END (R220 steps 2 to 6, R221). -/
def execQueueResetEnd (queue : Nat) (s : State) : Result :=
  match queueRef queue with
  | none => .next s
  | some (r, k) =>
    match queueOf s r k with
    | some q => .next (if q.resetting then stopStages (ownModule s) queue (endReset r k s) else s)
    | none => .next s

/-- A new QGEN reaches a proxy (R220 step 4): its counts are restored, and a stage that produces into the queue stops. -/
def execProxyQgenUpdate (module queue endpoint : Nat) (qgen : BitVec 8) (s : State) : Result :=
  .next (stopStages module queue (renewProxy module queue endpoint qgen s))

end Sys2Proof.Machine
end

