-- ==== Sys2Proof/Machine/Sync.lean ====
section
/-! DEFINITION. The meanings of the synchronisation commands and events of chapter 06: objects, signals, waits, locks,
host words, barriers, trees and tasks. -/

namespace Sys2Proof.Machine

/-! Objects -/

/-- The first free run of count objects in a region's 8,192, given the used ones. -/
def findRun (used : List Nat) (count : Nat) : Nat → Nat → Option Nat
  | 0, _ => none
  | n + 1, start =>
    if 8192 < start + count then none
    else
      match (used.filter fun u => start ≤ u && u < start + count).max? with
      | some m => findRun used count n (m + 1)
      | none => some start

/-- Objects a partition has allocated (R344). -/
def objectsUsed (s : State) (part : Nat) : Nat := s.objects.countP fun e => e.2.part == part

def kindOfCode (k : Nat) : ObjKind := if k = 2 then .counter else if k = 3 then .lock else .flag

/-- OBJ_ALLOC (R165, R167): the lowest free run of the region, within the partition's quota. -/
def execObjAlloc (c : Cmd) (count kind : Nat) (monotonic : Bool) (region : Nat) (s : State) : Result :=
  if count = 0 ∨ 8192 < count ∨ 8 ≤ region ∨ kind = 0 ∨ 3 < kind ∨ (monotonic ∧ kind ≠ 2) then done c (ans .badLength 0xE) s
  else
    let used := (s.objects.filter fun e => e.1 / 8192 == region).map fun e => e.1 % 8192
    if (partOf s c.part).quota.syncObjects < objectsUsed s c.part + count then done c (ans .quota) s
    else
      match findRun used count (used.length + 1) 0 with
      | none => done c (ans .quota) s
      | some i =>
        let first := region * 8192 + i
        let o : SyncObj := { part := c.part, kind := kindOfCode kind, monotonic := monotonic }
        done c { status := .ok, words := [BitVec.ofNat 32 first] }
          { s with objects := (List.range count).foldl (fun t k => tput (first + k) o t) s.objects }

/-- OBJ_FREE (R433): releases every pending entry of the range, then frees it. -/
def execObjFree (c : Cmd) (handle : BitVec 32) (count : Nat) (s : State) : Result :=
  match handleRef handle with
  | .object i =>
    if count = 0 ∨ 8192 < i % 8192 + count then done c (ans .badLength 4) s
    else
      let range := (List.range count).map (· + i)
      match range.find? fun k => objPart s k != some c.part with
      | some k => done c (ans .tenantViolation) (logTenant (.host c) ((objPart s k).getD 0xFF) (BitVec.ofNat 32 k) s)
      | none =>
        let rels := (s.objects.filter fun e => range.contains e.1).flatMap fun e => poisonWaiters e.2
        done c (ans .ok) (answerAll handle rels { s with objects := s.objects.filter fun e => !range.contains e.1 })
  | _ => done c (ans .badLength 4) s

/-- HOSTWORD_SET (R194). -/
def execHostwordSet (c : Cmd) (entry kind : Nat) (msix : Bool) (vector addr : Nat) (s : State) : Result :=
  if 4096 ≤ entry ∨ (kind ≠ 1 ∧ kind ≠ 2) ∨ addr % 8 ≠ 0 then done c (ans .badLength 0xE) s
  else
    let e : HostWord := { counter := kind == 2, msix := msix, vector := vector, addr := addr % 2 ^ 46 }
    done c (ans .ok) { s with hostWords := tput (hostWordKey c.part entry) e s.hostWords }

/-- Writes a result into the partition's memory and answers (log entry 16): a range outside it is ST_BAD_LENGTH, detail
0x0001, and a refused write ST_REMOTE_WRITE_FAILED. -/
def replyData (c : Cmd) (addr : Nat) (bs : List Byte) (a : Answer) (s : State) : State :=
  match localRange s c.part addr bs.length with
  | none => finish c (ans .badLength 1) s
  | some (sp, key) =>
    if writeRefused s sp key bs.length then finish c (ans .remoteWriteFailed) (writeSpace sp key bs s)
    else finish c a (writeSpace sp key bs s)

/-- OBJ_READ (R201, R428): writes the 64-byte view and changes no object. -/
def execObjRead (c : Cmd) (handle : BitVec 32) (view : Nat) (s : State) : Result :=
  let give := fun (o : SyncObj) =>
    replyData c view (viewOf (issuerId s) o)
      { status := .ok, words := words64 o.value.toNat ++ words64 (stateWord o).toNat } s
  match handleRef handle with
  | .bad => done c (ans .badLength 4) s
  | .none => done c (ans .ok) s
  | .hostWord _ => done c (ans .badOpcode 2) s
  | .object i =>
    match tget i s.objects with
    | some o =>
      if o.part = c.part then .next (give o) else done c (ans .tenantViolation) (logTenant (.host c) o.part handle s)
    | none => done c (ans .tenantViolation) (logTenant (.host c) 0xFF handle s)
  | .flag n f =>
    match physOf s n with
    | some p =>
      if partOfCore s p = some c.part then .next (give (flagObj s c.part f (flagOf s p f)))
      else done c (ans .tenantViolation) (logTenant (.host c) ((partOfCore s p).getD 0xFF) handle s)
    | none => done c (ans .tenantViolation) (logTenant (.host c) 0xFF handle s)

/-- OBJ_RESET as an operation: value and state cleared, every pending entry released (R172, R176). -/
def applyReset (c : Cmd) (o : SyncObj) : Applied :=
  { obj := resetObj o, rels := poisonWaiters o, reply := some { who := .host c, status := .ok } }

/-- OBJ_RESET (R172, R176). -/
def execObjReset (c : Cmd) (handle : BitVec 32) (s : State) : Result :=
  match handleRef handle with
  | .bad => done c (ans .badLength 4) s
  | .none => done c (ans .ok) s
  | .hostWord _ => done c (ans .badOpcode 2) s
  | .object i => .next (onObject (.host c) handle i (applyReset c) s)
  | .flag n f => .next (onFlag (.host c) handle n f (applyReset c) s)

/-! Signals and waits -/

/-- SIGNAL (R172, R308). -/
def execSignal (who : Issuer) (handle : BitVec 32) (module : Nat) (blocking remote : Bool) (v : Word) (s : State) : Result :=
  .next (unlessFenced who .signal handle (signalAny who handle module blocking remote v) s)

/-- Is the issuer the core that owns a local flag (R169)? -/
def ownsFlag (s : State) (who : Issuer) (logical : Nat) : Bool :=
  match who with
  | .unit _ u => u.module == ownModule s && physOf s logical == some u.unit
  | .host _ => false

/-- WAIT by handle (R169, R172, R177): only a local flag's own core waits on it. -/
def waitLocal (who : Issuer) (handle : BitVec 32) (peek : Bool) (target : BitVec 48) (timeout : Nat) (s : State) : State :=
  match handleRef handle with
  | .bad => answer handle { who := who, status := .badLength, detail := 4 } s
  | .none => answer handle { who := who, status := .ok } s
  | .hostWord _ => answer handle { who := who, status := .badOpcode, detail := 2 } s
  | .object i => onObject who handle i (applyWait (issuerId s) s.time.now who peek target timeout) s
  | .flag n f =>
    if ownsFlag s who n then onFlag who handle n f (applyWait (issuerId s) s.time.now who peek target timeout) s
    else lockLocal who handle (fun o => { obj := o }) s

/-- WAIT (R172, R183): one that names another module's object does not wait (R177). -/
def execWait (who : Issuer) (on : WaitOn) (peek : Bool) (target : BitVec 48) (timeout : Nat) (s : State) : Result :=
  if on.module.any (· != ownModule s) then .next (answer on.handle { who := who, status := .badLength, detail := 5 } s)
  else .next (unlessFenced who .signal on.handle (waitLocal who on.handle peek target timeout) s)

/-- A signal that reaches the store from the fabric (R171, R179). A signal of a fenced unit is dark traffic and is not
applied (R183). -/
def execSignalApply (p : Pkt) (handle : BitVec 32) (blocking : Bool) (s : State) : Result :=
  if fenced s p then .next (darkDrop p s)
  else .next (signalLocal (.unit p.part ⟨p.src, p.srcUnit, p.srcInc⟩) handle blocking p.arg2 s)

/-- An operation on a local flag at its port (R169). -/
def execLocalFlagOperation (who : Issuer) (handle : BitVec 32) (op : FlagOp) (s : State) : Result :=
  match handleRef handle with
  | .flag _ _ =>
    .next (unlessFenced who .signal handle (fun s =>
      match op with
      | .signal v blocking => signalLocal who handle blocking v s
      | .waitFlag consume => waitLocal who handle (!consume) 0 0 s
      | .waitTarget t => waitLocal who handle false t 0 s
      | .lock => lockLocal who handle (fun o => { obj := o }) s) s)
  | _ => .next (answer handle { who := who, status := .badLength, detail := 4 } s)

/-- A host write to the signal window of a virtual function (R193, R294): 8 bytes at offset 0 of an allocated object
signal it without blocking; anything else is discarded, counted and logged. -/
def execSignalWindowWrite (vf offset size : Nat) (v : Word) (s : State) : Result :=
  let i := offset / 16
  if size = 8 ∧ offset % 16 = 0 ∧ objPart s i = some vf then
    let who : Issuer := .unit vf (unitId s (fnUnit vf))
    match tget i s.objects with
    | some o =>
      let a := applySignal (issuerId s) s.time.now 0xFFFF who false v o
      .next (answerAll (BitVec.ofNat 32 i) a.rels (putObj i a.obj s))
    | none => .next s
  else
    .next (note 0x0606 (fun e => { e with source := fnUnit vf, part := vf, arg := BitVec.ofNat 64 offset })
      (modPart vf (fun p => { p with windowDiscards := p.windowDiscards + 1 }) s))

/-- What a host read of the signal window returns (R193, R294): naturally aligned 8 or 4 bytes of the image of an object of the
partition, and 0 for any other size, alignment or offset. A read changes nothing, and no row of the table is one. -/
def windowRead (s : State) (vf offset size : Nat) : Nat :=
  match tget (offset / 16) s.objects with
  | some o =>
    if o.part = vf ∧ (size = 8 ∨ size = 4) ∧ offset % size = 0 then fieldAt (toLe 8 o.value.toNat ++ toLe 8 (stateWord o).toNat) (offset % 16) size
    else 0
  | none => 0

/-- Removes a waiter a test picks from an object, with the answer it is owed. -/
def expire (who : Issuer) (pick : Waiter → Bool) (o : SyncObj) : Option SyncObj :=
  match o.waiters.find? fun w => w.who == who && pick w && w.timeout != 0 with
  | some w => some { o with waiters := o.waiters.erase w }
  | none => none

/-- Is this a wait that a timeout can end (R175)? -/
def isWait (w : Waiter) : Bool := !isWriter w && !isAcquirer w

/-- A timeout on a handle: the entry is removed, the object is not changed, and its issuer receives ST_TIMEOUT (R175). -/
def timeoutOn (who : Issuer) (handle : BitVec 32) (pick : Waiter → Bool) (s : State) : State :=
  match handleRef handle with
  | .object i =>
    match tget i s.objects with
    | some o =>
      match expire who pick o with
      | some o1 => answer handle { who := who, status := .timeout, value := o.value, word := stateWord o1 } (putObj i o1 s)
      | none => s
    | none => s
  | .flag n f =>
    match physOf s n with
    | some p =>
      let o := flagObj s (issuerPart who) f (flagOf s p f)
      match expire who pick o with
      | some o1 =>
        answer handle { who := who, status := .timeout, value := o.value, word := stateWord o1 }
          (modCore p (fun c => { c with flags := tput f (objFlag o1) c.flags }) s)
      | none => s
    | none => s
  | _ => s

/-- A WAIT's timeout expires (R175). -/
def execWaitTimeout (who : Issuer) (handle : BitVec 32) (s : State) : Result := .next (timeoutOn who handle isWait s)

/-- A LOCK_ACQUIRE's timeout expires (R172, R175). -/
def execLockAcquireTimeout (who : Issuer) (handle : BitVec 32) (s : State) : Result :=
  .next (timeoutOn who handle isAcquirer s)

/-- A wake packet reaches a core, which issues its next instruction (R189). -/
def execWake (core : Nat) (s : State) : Result :=
  onCore core s fun _ =>
    if s.out.releases.any fun r => r.unit == unitId s core then
      { modCore core (fun c => { c with waiting := false }) s with
        out := { s.out with releases := dropFirst (fun r => r.unit == unitId s core) s.out.releases } }
    else s

/-! Locks -/

/-- LOCK_ACQUIRE (R172, R183, R308). -/
def execLockAcquire (who : Issuer) (handle : BitVec 32) (module : Nat) (blocking remote : Bool) (timeout : Nat) (s : State) :
    Result :=
  .next (unlessFenced who .lockOp handle (fun s =>
    if remote ∧ module ≠ ownModule s then lockRemote who handle module (if blocking then 1 else 0) timeout s
    else acquireLocal who handle blocking timeout s) s)

/-- LOCK_RELEASE (R172, R180, R183, R308). -/
def execLockRelease (who : Issuer) (handle : BitVec 32) (module : Nat) (remote : Bool) (s : State) : Result :=
  .next (unlessFenced who .lockOp handle (fun s =>
    if remote ∧ module ≠ ownModule s then lockRemote who handle module 2 0 s else releaseLocal who handle s) s)

/-- A remote lock operation arrives (R316): its owner identity is the packet's sender (R180). One of a fenced unit is dark traffic
(R183). -/
def execLockOp (p : Pkt) (handle : BitVec 32) (req : LockReq) (s : State) : Result :=
  let who : Issuer := .unit p.part ⟨p.src, p.srcUnit, p.srcInc⟩
  if fenced s p then .next (darkDrop p s)
  else
    match req with
    | .acquire blocking timeout => .next (acquireLocal who handle blocking timeout s)
    | .release => .next (releaseLocal who handle s)

/-- An owner sweep reaches a region's store (R181). -/
def execOwnerSweep (region : Nat) (owner : UnitId) (s : State) : Result := onRegion region (sweepRegion region owner s)

/-! Block barriers (R195, R196) -/

def barrierKey (block b : Nat) : Nat := block * 8 + b

/-- Releases to the waiting members of a barrier. -/
def barrierRels (st : Status) (detail : Nat) (ms : List (UnitId × Bool)) : List Release :=
  ms.map fun m => { unit := m.1, status := st, detail := detail }

/-- Completes an episode where the mask has arrived in full: the sense flips, the count clears, and every member that
waits with the old sense is released, with ST_UNIT_DARK where the episode lost a member (R195, R196). -/
def settleBarrier (b : Barrier) : Barrier × List Release :=
  if b.arrived &&& b.mask = b.mask ∧ (b.mask ≠ 0 ∨ b.dark) then
    ({ b with sense := !b.sense, arrived := 0, waiting := b.waiting.filter (fun m => m.2 != b.sense), dark := false, lastDark := b.dark,
              mask := b.mask ||| b.joining, joining := 0 },
     barrierRels (if b.dark then .unitDark else .ok) 0 (b.waiting.filter fun m => m.2 == b.sense))
  else (b, [])

/-- Puts a barrier back with its releases. -/
def putBarrier (key : Nat) (r : Barrier × List Release) (s : State) : State :=
  { s with barriers := tput key r.1 s.barriers, out := { s.out with releases := s.out.releases ++ r.2 } }

/-- An arrival at a block barrier (R195): stale, outside the mask and second arrivals are refused and not counted. -/
def barrierArrival (u : UnitId) (key slot : Nat) (sense : Bool) (s : State) : State :=
  let b := tgetD key {} s.barriers
  let refuse := fun (detail : Nat) =>
    modOut fun o => { o with releases := o.releases ++ [{ unit := u, status := .syncOverrun, detail := detail }] }
  let log := note 0x0203 (fun e => { e with source := u.unit, inc := u.inc, arg := BitVec.ofNat 64 key })
  if !b.mask.getLsbD slot || b.arrived.getLsbD slot && sense != b.sense then refuse 0 (log s)
  else if sense = b.sense then refuse 3 s
  else putBarrier key (settleBarrier { b with arrived := b.arrived ||| BitVec.ofNat 9 (2 ^ slot) }) s

/-- A member waits until a block barrier has the sense its arrival carried (R195): at once where the episode has completed. -/
def barrierWait (u : UnitId) (key : Nat) (sense : Bool) (s : State) : State :=
  let b := tgetD key {} s.barriers
  if sense = b.sense then
    modOut (fun o => { o with releases := o.releases ++ barrierRels (if b.lastDark then .unitDark else .ok) 0 [(u, !sense)] }) s
  else markWaiting (.unit 0 u) { s with barriers := tput key { b with waiting := b.waiting ++ [(u, b.sense)] } s.barriers }

/-- BARRIER_ARRIVE: a member's non-blocking arrival, or, with wait, the wait that follows it later (R195; log entry 17). -/
def execBarrierArrive (u : UnitId) (block barrier slot : Nat) (turn : BarrierTurn) (s : State) : Result :=
  if turn.wait then .next (barrierWait u (barrierKey block barrier) turn.sense s)
  else .next (barrierArrival u (barrierKey block barrier) slot turn.sense s)

/-- A member core goes dark (R196): it leaves the mask of every pending episode of its block, or the joining members if it had not joined
yet; joins says whether a reserve takes its slot from the next episode. -/
def departBarriers (block slot : Nat) (joins : Bool) (s : State) : State :=
  let bit := BitVec.ofNat 9 (2 ^ slot)
  (List.range 8).foldl (fun s k =>
    match tget (barrierKey block k) s.barriers with
    | some b =>
      let next := if joins then b.joining ||| bit else b.joining &&& ~~~bit
      if b.mask.getLsbD slot then
        putBarrier (barrierKey block k) (settleBarrier { b with
          mask := b.mask &&& ~~~bit, arrived := b.arrived &&& ~~~bit, dark := true, joining := next }) s
      else if b.joining.getLsbD slot then { s with barriers := tput (barrierKey block k) { b with joining := next } s.barriers }
      else s
    | none => s) s

/-! Barrier trees (R197, R199) -/

/-- The key of a node at a site: the relay engine of die 0 or 1, or with 2 + r the object in region r's signal store. -/
def treeKey (site node : Nat) : Nat := site * 4096 + node

/-- Blocks of a region that a partition holds. -/
def blocksIn (s : State) (part r : Nat) : List Nat :=
  ((List.range 12).map (· + r * 12)).filter fun b => (partOf s part).mask.getLsbD b

/-- Regions of a lantern die that hold blocks of a partition (R14, R23). -/
def dieRegions (s : State) (part die : Nat) : List Nat :=
  ((List.range 4).map (· + die * 4)).filter fun r => !(blocksIn s part r).isEmpty

/-- The member modules below and above this one where a group's members form a tree of fan-in 6 in member order (log
entry 18). -/
def groupKids (s : State) (g : Group) : List Nat :=
  match g.members.findIdx? fun m => m.module == ownModule s with
  | some i => ((g.members.drop (6 * i + 1)).take 6).map (·.module)
  | none => []

def groupParent (s : State) (g : Group) : Option Nat :=
  match g.members.findIdx? fun m => m.module == ownModule s with
  | some i => if i = 0 then none else (g.members[(i - 1) / 6]?).map (·.module)
  | none => none

/-- Arms a tree's nodes of this module (R197; log entry 18): an object in each region that takes part, whose children are its blocks' units,
below its lantern die's node; die 1's node below die 0's, the module root. -/
def armTree (part tree : Nat) (g : Group) (s : State) : State :=
  let own := ownModule s
  let kids := groupKids s g
  let regions := (dieRegions s part 0 ++ dieRegions s part 1).map fun r =>
    ((2 + r, { part := part, children := (blocksIn s part r).length, parent := some (own, r / 4), blocks := blocksIn s part r }) : Nat × TreeNode)
  let n1 : TreeNode := { part := part, children := (dieRegions s part 1).length, parent := some (own, 0) }
  let n0 : TreeNode :=
    { part := part, children := (dieRegions s part 0).length + (if 0 < n1.children then 1 else 0) + kids.length
      parent := (groupParent s g).map fun m => (m, 0), kids := kids }
  let kept := s.lantern.trees.filter fun e => e.1 % 4096 != tree
  { s with lantern := { s.lantern with
      trees := ((0, n0) :: (1, n1) :: regions).foldl (fun t e => tput (treeKey e.1 tree) e.2 t) kept } }

/-- A RELAY packet between relay engines. ARG [63:56] says what it carries: 0 a tree arrival, 1 a release, 2 a norm
message, 3 a norm result; the rest is the node (log entry 18). One with data is P3, since they can pass 64 bytes (R34). -/
def relayPacket (s : State) (what node module : Nat) (arg2 : Nat) (data : List Byte) : Pkt :=
  { type := .relay, src := ownModule s, dst := module, cls := if data.isEmpty then 1 else 3, subch := 0, hops := 0, plane := 0, srcUnit := 0x0700
    srcInc := incOf s 0x0700, part := 0, arg := BitVec.ofNat 64 (what * 2 ^ 56 + node), arg2 := BitVec.ofNat 64 arg2
    data := data, dstUnit := 0x0700 }

/-- A release of episode e at one node: a FLAG signal carrying e to each child of another module and to each block (R197). -/
def releaseNode (node e site : Nat) (s : State) : State :=
  match tget (treeKey site node) s.lantern.trees with
  | none => s
  | some n =>
    let s1 := { s with lantern := { s.lantern with trees := tput (treeKey site node) { n with released := e } s.lantern.trees } }
    let s2 := n.kids.foldl (fun t m => send (relayPacket t 1 node m e []) t) s1
    n.blocks.foldl (fun t b => send { relayPacket t 1 node (ownModule t) e [] with type := .signal, part := n.part, dstUnit := 9 * b } t) s2

/-- The release of episode e through this module's nodes, from the root down (R197). -/
def releaseTree (node e : Nat) (s : State) : State := (List.range 10).foldl (fun s site => releaseNode node e site s) s

/-- The number a node counts a child by: a block, a region, 8 for die 1's node, or 16 + a module. -/
def childOf (site : Nat) : Nat := if 2 ≤ site then site - 2 else 8

/-- Logs a child's arrival too many and tells the head keeper (R199). -/
def overArrival (site node : Nat) (s : State) : State :=
  note 0x0203 (fun e => { e with
    source := if 2 ≤ site then 0x400 + 2 * (site - 2) else 0x0700 + site, arg := BitVec.ofNat 64 (treeKey site node) })
    (modOut (fun o => { o with releases := o.releases ++ [{ unit := unitId s 0x0410, status := .syncOverrun }] }) s)

/-- A child's arrival at a tree node (R197, R199). One of a child that has arrived in this episode, or before the last episode's release,
is one too many: it is counted, logged and reported to the head keeper. hops bounds the climb from a region to die 0. -/
def treeArrive (hops : Nat) (site node child : Nat) (s : State) : State :=
  match tget (treeKey site node) s.lantern.trees with
  | none => s
  | some n =>
    let extra := n.arrived.contains child || decide (n.released < n.episode)
    let n1 := { n with counter := n.counter + 1, overrun := n.overrun || extra, arrived := child :: n.arrived }
    let complete := n1.counter.toNat = (n.episode + 1) * n.children
    let n2 := if complete then { n1 with episode := n.episode + 1, arrived := [] } else n1
    let s1 := { s with lantern := { s.lantern with trees := tput (treeKey site node) n2 s.lantern.trees } }
    let s2 := if extra then overArrival site node s1 else s1
    if complete then
      match n.parent with
      | none => releaseTree node n2.episode s2
      | some (m, d) =>
        if m = ownModule s then
          match hops with
          | 0 => s2
          | h + 1 => treeArrive h d node (childOf site) s2
        else send (relayPacket s2 0 node m n2.episode []) s2
    else s2

/-- A child arrival reaches a tree node (R197): of a block at its region's object, a region or a port at its die's relay engine. -/
def execTreeNodeArrival (site : Nat) (place : TreeChild) (s : State) : Result := .next (treeArrive 2 site place.node place.child s)

/-- BARRIER_ARM (R195, R197, R339): a block barrier's mask, releasing members that wait with ST_POISONED; or a tree. -/
def execBarrierArm (c : Cmd) (tree : Bool) (barrier block : Nat) (mask : BitVec 9) (treeId group : Nat) (s : State) : Result :=
  if tree then
    match tget group s.lantern.groups with
    | none => done c (ans .badLength 0xE) s
    | some g =>
      if g.part ≠ c.part then done c (ans .tenantViolation) s
      else if 4096 ≤ treeId then done c (ans .quota) s
      else done c (ans .ok) (armTree c.part treeId g
        { s with lantern := { s.lantern with armedTrees := (treeId, group) :: s.lantern.armedTrees.filter (·.1 != treeId) } })
  else if 8 ≤ barrier ∨ 96 ≤ block then done c (ans .badLength 0xE) s
  else if partOfBlock s block ≠ some c.part then done c (ans .tenantViolation) s
  else
    let key := barrierKey block barrier
    let old := tgetD key {} s.barriers
    done c (ans .ok) (putBarrier key ({ mask := mask }, barrierRels .poisoned 1 old.waiting) s)

/-! Task boundaries (R200, R164) -/

/-- The objects a plan's buffer table lists for a task, with the pairs of MONOTONIC counters. -/
def taskOf (p : Plan) (task : Nat) : Option (List (BitVec 32) × List (BitVec 32 × BitVec 32)) :=
  (p.body.tasks.find? fun t => t.1 == task).map (·.2)

/-- The objects behind handles of SPACE 0. -/
def objectsAt (s : State) (hs : List (BitVec 32)) : List (BitVec 32 × SyncObj) :=
  hs.filterMap fun h => match handleRef h with | .object i => (tget i s.objects).map fun o => (h, o) | _ => none

/-- The local flags of a partition's cores by logical number. -/
def flagsOfPart (s : State) (part : Nat) : List (Nat × Tbl LocalFlag) :=
  (logicalsOf s part).map fun n => (n, match physOf s n with | some p => (coreOf s p).flags | none => [])

/-- TASK_BEGIN (R200). -/
def execTaskBegin (c : Cmd) (plan task : Nat) (s : State) : Result :=
  match tget plan s.plans with
  | none => done c (ans .planRejected 0x0F00) s
  | some p =>
    if p.part ≠ c.part then done c (ans .planRejected 0x0F00) s
    else
      match taskOf p task with
      | none => done c (ans .badLength 0xE) s
      | some t =>
        let snap : Snapshot := { plan := plan, task := task, objects := objectsAt s t.1, flags := flagsOfPart s c.part }
        done c (ans .ok) (modPart c.part (fun q => { q with
          snapshots := snap :: q.snapshots.filter fun x => !(x.plan == plan && x.task == task) }) s)

/-- Does an object leave a task as it was found (R200)? pairs are the MONOTONIC pairs of the buffer table. -/
def sameObject (s : State) (pairs : List (BitVec 32 × BitVec 32)) (h : BitVec 32) (before : SyncObj) (after : Option SyncObj) : Bool :=
  match after with
  | none => false
  | some o =>
    o.kind == before.kind && o.part == before.part && o.monotonic == before.monotonic &&
    (match before.kind with
     | .flag => o.value == before.value && o.full == before.full
     | .counter =>
       if before.monotonic then
         match pairs.find? fun p => p.1 == h || p.2 == h with
         | none => true
         | some p => (objectsAt s [p.1]).map (·.2.value) == (objectsAt s [p.2]).map (·.2.value)
       else o.value == before.value
     | .lock => (!o.full && !o.orphaned) || (o.full == before.full && o.orphaned == before.orphaned && o.value == before.value))

/-- Do the local flags of a core match their snapshot (R200)? -/
def sameFlags (a b : Tbl LocalFlag) : Bool :=
  (List.range 32).all fun f =>
    (tgetD f {} a).value == (tgetD f {} b).value && (tgetD f {} a).full == (tgetD f {} b).full &&
      (tgetD f {} a).overrun == (tgetD f {} b).overrun

/-- The 16 bytes of an object, and none for one that is gone. -/
def stateBytes (o : Option SyncObj) : List Byte :=
  match o with
  | some o => toLe 8 o.value.toNat ++ toLe 8 (stateWord o).toNat
  | none => List.replicate 16 0

/-- The flags of a core that differ: handle, snapshotted state and final state. -/
def flagDiffs (s : State) (part n : Nat) (a b : Tbl LocalFlag) : List (BitVec 32 × List Byte) :=
  let state := fun (f : Nat) (t : Tbl LocalFlag) => stateBytes (some (flagObj s part f (tgetD f {} t)))
  ((List.range 32).filter fun f => (tgetD f {} a).value != (tgetD f {} b).value ||
    (tgetD f {} a).full != (tgetD f {} b).full || (tgetD f {} a).overrun != (tgetD f {} b).overrun).map
    fun f => (BitVec.ofNat 32 (2 ^ 30 + n * 32 + f), state f a ++ state f b)

/-- What differs between a snapshot and the end of its task: handle, snapshotted state and final state. -/
def taskDiffs (s : State) (part : Nat) (pairs : List (BitVec 32 × BitVec 32)) (snap : Snapshot) : List (BitVec 32 × List Byte) :=
  let now := fun (h : BitVec 32) => (objectsAt s [h]).head?.map (·.2)
  ((snap.objects.filter fun e => !sameObject s pairs e.1 e.2 (now e.1)).map fun e => (e.1, stateBytes (some e.2) ++ stateBytes (now e.1))) ++
    (flagsOfPart s part).flatMap fun e => flagDiffs s part e.1 (tgetD e.1 [] snap.flags) e.2

/-- Logs a task's differences (R200, R381): at most eight entries, the eighth counting those not listed. -/
def logDiffs (c : Cmd) (hs : List (BitVec 32 × List Byte)) (s : State) : State :=
  let entry := fun (h : BitVec 32 × List Byte) (rep : Nat) =>
    ({ index := 0, time := s.time.now, event := 0x0603, status := 0x43, severity := 3, part := c.part, source := fnUnit c.fn
       inc := incOf s (fnUnit c.fn), repeats := rep, arg := h.1.setWidth 64, states := h.2 } : LogEntry)
  { s with log := ((hs.take 8).zipIdx).foldl (fun g e =>
      placeEntry (entry e.1 (if e.2 = 7 then min 0xFFFF (hs.length - 8) else 0)) g) s.log }

/-- Birzu clears the posted-error records of the partition's cores at task end (R164). -/
def clearPosted (part : Nat) (s : State) : State :=
  { s with cores := s.cores.map fun e => if partOfCore s e.1 = some part then (e.1, { e.2 with posted := {} }) else e }

/-- TASK_END (R200, R164). A task with no snapshot is ST_BAD_LENGTH, detail 0x000E (log entry 19). -/
def execTaskEnd (c : Cmd) (plan task : Nat) (s : State) : Result :=
  match tget plan s.plans, (partOf s c.part).snapshots.find? fun x => x.plan == plan && x.task == task with
  | some p, some snap =>
    if p.part ≠ c.part then done c (ans .planRejected 0x0F00) s
    else
      let diffs := taskDiffs s c.part ((taskOf p task).map (·.2) |>.getD []) snap
      let s1 := modPart c.part (fun q => { q with snapshots := q.snapshots.erase snap }) (clearPosted c.part (logDiffs c diffs s))
      done c (ans (if diffs.isEmpty then .ok else .syncDirty)) s1
  | none, _ => done c (ans .planRejected 0x0F00) s
  | _, none => done c (ans .badLength 0xE) s

end Sys2Proof.Machine
end

