-- ==== Sys2Proof/Machine/RingOps.lean ====
section
/-! DEFINITION. Ring reductions (R263 to R267, R67): the pieces, the sums a member adds, and how a reduction starts, moves on and ends
(log entry 54). -/

namespace Sys2Proof.Machine

def learningOf (s : State) (part : Nat) : Learning := (partOf s part).learning
def modLearning (part : Nat) (f : Learning → Learning) (s : State) : State :=
  modPart part (fun p => { p with learning := f p.learning }) s

/-- A member's place in its group: the group's size, its index, and the members after and before it with the lantern ports the group names
for them (R263). -/
structure RingPlace where
  size : Nat
  index : Nat
  next : Nat
  prev : Nat
  nextPort : Nat
  prevPort : Nat
  deriving DecidableEq, Repr

/-- This module's place in a group of the partition. -/
def ringPlace (s : State) (part group : Nat) : Option RingPlace :=
  match tget group s.lantern.groups with
  | none => none
  | some g =>
    if g.part ≠ part then none
    else
      (g.members.findIdx? fun m => m.module == ownModule s).map fun i =>
        let n := g.members.length
        let at_ := fun (k : Nat) => ((g.members[k % n]?).map (·.module)).getD 0
        let own := g.members[i]?
        ⟨n, i, at_ (i + 1), at_ (i + n - 1), (own.map (·.nextPort)).getD 0, (own.map (·.prevPort)).getD 0⟩

/-- The reduction a group runs. -/
def runningReduction (s : State) (part group : Nat) : Option Reduction := (tgetD group [] (learningOf s part).reductions).head?

def modReduction (part group : Nat) (f : Reduction → Reduction) (s : State) : State :=
  modLearning part (fun l => { l with reductions := tmod group [] (fun rs => lmod 0 f rs) l.reductions }) s

/-! Pieces -/

def elemSize (format : Nat) : Nat := elemBits format / 8

/-- Elements of a reduction's buffer. -/
def ringElems (r : Reduction) : Nat := r.length / elemSize r.format

/-- First element and count of piece j of d: the half that travels forward, or the one that travels backward (R265). -/
def pieceHalf (r : Reduction) (d j : Nat) (forward : Bool) : Nat × Nat :=
  let p := (ringElems r + d - 1) / d
  let a := min (j * p) (ringElems r)
  let n := min ((j + 1) * p) (ringElems r) - a
  if forward then (a, (n + 1) / 2) else (a + (n + 1) / 2, n / 2)

/-- The pieces that arrive at step t of the reduce-scatter: forward from the member before, backward from the one after. -/
def reducePieces (x : RingPlace) (t : Nat) : Nat × Nat := ((x.index + 2 * x.size - 1 - t) % x.size, (x.index + 1 + t) % x.size)

/-- The pieces that arrive at step t of the all-gather. -/
def gatherPieces (x : RingPlace) (t : Nat) : Nat × Nat := ((x.index + x.size - t) % x.size, (x.index + t) % x.size)

/-- An element's value as the local buffer holds it. -/
def ringValue (s : State) (r : Reduction) (i : Nat) : FVal := decodeElem r.format (readElem s r.addr r.format i)

/-- The top exponents of the local buffer's blocks of 256 elements (R67). -/
def localExps (s : State) (r : Reduction) : List (Option Int) :=
  (List.range ((ringElems r + 255) / 256)).map fun b =>
    topOf ((List.range (min 256 (ringElems r - 256 * b))).map fun k => topExp r.format 127 (ringValue s r (256 * b + k)))

/-- A 16-bit top exponent, 0x8000 for none (R61). -/
def expBytes (e : Option Int) : List Byte := toLe 2 (match e with | some x => (BitVec.ofInt 16 x).toNat | none => 0x8000)

def expOf (n : Nat) : Option Int := if n = 0x8000 then none else some (BitVec.ofNat 16 n).toInt

/-- The larger of two top exponents. -/
def largerExp (a b : Option Int) : Option Int := topOf [a, b]

/-! What travels: an element is its own bytes in normal mode; in true colour the 16 bytes of W and a byte of flags -/

/-- Bytes of one travelling element while it is being reduced. -/
def travelBytes (r : Reduction) : Nat := if r.exact then 17 else elemSize r.format

/-- The window of element i, none where its block has no finite nonzero element. -/
def ringWindow (r : Reduction) (i : Nat) : Option Int := ((r.exps[i / 256]?).getD none).map (· - 111)

/-- A value entered in an exact element's window (R62, R64). -/
def enterExact (l : Option Int) (x : XAcc) (v : FVal) : XAcc :=
  match l with
  | some l => flagProduct (addExact x (windowInt v l)) v
  | none => flagProduct x v

def exactBytes (x : XAcc) : List Byte :=
  toLe 16 x.w.toNat ++ toLe 1 ((if x.nan then 1 else 0) + (if x.posInf then 2 else 0) + (if x.negInf then 4 else 0))

def exactOf (bs : List Byte) : XAcc :=
  let f := fieldAt bs 16 1
  { w := BitVec.ofNat 128 (fieldAt bs 0 16), nan := f % 2 == 1, posInf := f / 2 % 2 == 1, negInf := f / 4 % 2 == 1 }

/-- A member's own element on its way into the ring. -/
def ownElem (s : State) (r : Reduction) (i : Nat) : List Byte :=
  if r.exact then exactBytes (enterExact (ringWindow r i) {} (ringValue s r i)) else toLe (elemSize r.format) (readElem s r.addr r.format i)

/-- An incoming element with the member's own added: one FP32 rounding in normal mode, then the element's format (log entry 54). -/
def addElem (s : State) (r : Reduction) (i : Nat) (bs : List Byte) : List Byte :=
  if r.exact then exactBytes (enterExact (ringWindow r i) (exactOf bs) (ringValue s r i))
  else
    toLe (elemSize r.format)
      (convert r.format false .rne (val32 (round32 (addV (decodeElem r.format (leNat bs)) (ringValue s r i)))))

/-- The element a finished sum is stored as. -/
def finalElem (r : Reduction) (i : Nat) (bs : List Byte) : List Byte :=
  if r.exact then toLe (elemSize r.format) (convert r.format false .rne (exactVal (exactOf bs) ((ringWindow r i).getD 0))) else bs

/-- Cuts bytes into elements of a size. -/
def cutElems (size : Nat) (bs : List Byte) (n : Nat) : List (List Byte) := (List.range n).map fun k => bytesAt bs (k * size) size

/-- The own elements of a half piece. -/
def ownHalf (s : State) (r : Reduction) (h : Nat × Nat) : List Byte := (List.range h.2).flatMap fun k => ownElem s r (h.1 + k)

/-- Incoming elements of a half piece with the own ones added. -/
def addHalf (s : State) (r : Reduction) (h : Nat × Nat) (bs : List Byte) : List (List Byte) :=
  (cutElems (travelBytes r) bs h.2).zipIdx.map fun e => addElem s r (h.1 + e.2) e.1

/-! Messages -/

/-- A packet for a member of a group on one of the ports the group names (R263), 7 meaning die-to-die (R308); none leaves a group that lies
on one module. -/
def viaPort (s : State) (port : Nat) (p : Pkt) : Pkt := { p with port := if p.dst = ownModule s ∨ port = 7 then none else some port }

/-- A ring step's message to a neighbour on the group's port: ARG names the group, ARG2 the step (log entry 18). -/
def sendRing (group step module port : Nat) (bs : List Byte) (s : State) : State :=
  sendPieces (viaPort s port (relayPacket s 4 group module step bs)) s

/-- A step's halves to both neighbours. -/
def sendBoth (group step : Nat) (x : RingPlace) (forward backward : List Byte) (s : State) : State :=
  sendRing group step x.prev x.prevPort backward (sendRing group step x.next x.nextPort forward s)

/-- Steps of each of a reduction's passes: the exponent pass comes first in true colour. -/
def passSteps (x : RingPlace) : Nat := x.size - 1

def expSteps (r : Reduction) (x : RingPlace) : Nat := if r.exact then passSteps x else 0

/-- Sends what the neighbours need for the first step of the reduce-scatter. -/
def sendFirst (group : Nat) (x : RingPlace) (r : Reduction) (s : State) : State :=
  let step := expSteps r x
  sendRing group step x.prev x.prevPort (ownHalf s r (pieceHalf r x.size x.index false))
    (sendRing group step x.next x.nextPort (ownHalf s r (pieceHalf r x.size x.index true)) s)

/-- Starts the reduction at the head of a group's list: the exponent pass, or the pieces themselves. -/
def launchRing (part group : Nat) (s : State) : State :=
  match runningReduction s part group, ringPlace s part group with
  | some r, some x =>
    if r.exact then
      let es := localExps s r
      sendRing group 0 x.next x.nextPort (es.flatMap expBytes) (modReduction part group (fun r => { r with exps := es }) s)
    else sendFirst group x r s
  | _, _ => s

/-- Adds a reduction to its group's list, and starts it when the ring is free (R265). -/
def queueRing (part group : Nat) (r : Reduction) (s : State) : State :=
  let idle := (tgetD group [] (learningOf s part).reductions).isEmpty
  let s1 := modLearning part (fun l => { l with reductions := tmod group [] (fun rs => rs ++ [r]) l.reductions }) s
  if idle then launchRing part group s1 else s1

/-! Ends -/

/-- Ends a group's running reduction: its command's answer, or its bucket's state, a failure of which stops the stage's step (R267,
R229); the next reduction of the group starts. -/
def endRing (part group : Nat) (st : Status) (s : State) : State :=
  match runningReduction s part group with
  | none => s
  | some r =>
    let s1 := modLearning part (fun l => { l with reductions := tmod group [] (fun rs => rs.drop 1) l.reductions }) s
    let s2 := match r.cmd, r.bucket with
      | some c, _ => finish c (ans st) s1
      | none, some b =>
        if st = .ok then modLearning part (fun l => { l with buckets := lmod b (fun x => { x with reduced := true }) l.buckets }) s1
        else stopStep part st 0 s1
      | none, none => s1
    launchRing part group s2

/-- The layer an element of a bucket belongs to. -/
def layerOfElem (b : Bucket) (i : Nat) : Nat :=
  if b.last ≤ b.first then b.first else b.first + Config.layerOf b.base i % (b.last - b.first + 1)

/-- Is a stored element non-finite? -/
def isNonfinite (v : FVal) : Bool := match v with | .fin _ _ _ => false | _ => true

/-- The norm partials of a bucket's reduced shard (R266): by layer, the sum of squares and the count of non-finite elements. -/
def addPartials (part : Nat) (b : Bucket) (r : Reduction) (is : List Nat) (s : State) : State :=
  let layers := (List.range (b.last - b.first + 1)).map (b.first + ·)
  layers.foldl (fun s l =>
    let mine := is.filter fun i => layerOfElem b i == l
    modLearning part (fun x => { x with
      layerSq := tmod l 0 (fun old => Config.layerSquares l old (mine.map fun i => round32 (ringValue s r i))) x.layerSq
      layerNonfinite := tmod l 0 (fun n => satAdd 0xFFFFFFFF n (mine.countP fun i => isNonfinite (ringValue s r i))) x.layerNonfinite }) s) s

/-- Stores a half piece's finished elements. -/
def storeHalf (r : Reduction) (h : Nat × Nat) (es : List (List Byte)) (s : State) : State :=
  writeGlobal (r.addr + h.1 * elemSize r.format) (es.flatten) s

/-! A step (R265) -/

/-- A step of the exponent pass. -/
def expStep (part group : Nat) (x : RingPlace) (r : Reduction) (incoming : List Byte) (s : State) : State :=
  let es := r.exps.zipIdx.map fun e => largerExp e.1 (expOf (fieldAt incoming (2 * e.2) 2))
  let r1 := { r with exps := es, step := r.step + 1 }
  let s1 := modReduction part group (fun _ => r1) s
  if r1.step < passSteps x then sendRing group r1.step x.next x.nextPort (es.flatMap expBytes) s1 else sendFirst group x r1 s1

/-- A step of the reduce-scatter, t of them before: sums travel on; the last ones are this member's reduced shard. -/
def scatterStep (part group : Nat) (x : RingPlace) (r : Reduction) (t : Nat) (incoming : List Byte) (s : State) : State :=
  let j := reducePieces x t
  let f := pieceHalf r x.size j.1 true
  let b := pieceHalf r x.size j.2 false
  let fs := addHalf s r f incoming
  let bs := addHalf s r b (incoming.drop (f.2 * travelBytes r))
  let s1 := modReduction part group (fun r => { r with step := r.step + 1 }) s
  if t + 1 < passSteps x then sendBoth group (r.step + 1) x fs.flatten bs.flatten s1
  else
    let fe := fs.zipIdx.map fun e => finalElem r (f.1 + e.2) e.1
    let be := bs.zipIdx.map fun e => finalElem r (b.1 + e.2) e.1
    let s2 := storeHalf r b be (storeHalf r f fe s1)
    let s3 := match r.bucket.bind fun k => (learningOf s part).buckets[k]? with
      | some k => addPartials part k r ((List.range f.2).map (f.1 + ·) ++ (List.range b.2).map (b.1 + ·)) s2
      | none => s2
    sendBoth group (r.step + 1) x fe.flatten be.flatten s3

/-- A step of the all-gather, t of them before: the pieces are stored and travel on. -/
def gatherStep (part group : Nat) (x : RingPlace) (r : Reduction) (t : Nat) (incoming : List Byte) (s : State) : State :=
  let j := gatherPieces x t
  let f := pieceHalf r x.size j.1 true
  let b := pieceHalf r x.size j.2 false
  let n := elemSize r.format
  let fe := cutElems n incoming f.2
  let be := cutElems n (incoming.drop (f.2 * n)) b.2
  let s1 := storeHalf r b be (storeHalf r f fe (modReduction part group (fun r => { r with step := r.step + 1 }) s))
  if t + 1 < passSteps x then sendBoth group (r.step + 1) x fe.flatten be.flatten s1
  else endRing part group .ok s1

/-- One step of a group's running reduction with the data its neighbours sent. -/
def ringAdvance (part group : Nat) (incoming : List Byte) (s : State) : State :=
  match runningReduction s part group, ringPlace s part group with
  | some r, some x =>
    let e := expSteps r x
    if r.step < e then expStep part group x r incoming s
    else if r.step < e + passSteps x then scatterStep part group x r (r.step - e) incoming s
    else gatherStep part group x r (r.step - e - passSteps x) incoming s
  | _, _ => s

end Sys2Proof.Machine
end

