-- ==== Sys2Proof/Machine/NormOps.lean ====
section
/-! DEFINITION. The global norm's tree (R268 to R271, R67): messages, the nodes' sums, the root's decision and its way down (log
entries 18, 54). -/

namespace Sys2Proof.Machine

/-- The node a group's norms use, in lantern die 0. -/
def normKey (group : Nat) : Nat := treeKey 0 (group % 4096)

/-- What a message carries: 0 FP32 sums, 1 the top exponents of blocks of 256 (the first pass of true colour), 2 exact sums of five
words an element (four of W, one of flags). -/
def normKind (r : NormRun) : Nat := if !r.cmd.trueColour then 0 else if r.exps.isNone then 1 else 2

/-- A module's own message for the pass its command is in. -/
def ownVector (r : NormRun) : List Lane :=
  match normKind r, r.exps with
  | 1, _ =>
    (List.range ((r.layers + 255) / 256)).map fun b =>
      match topOf (((r.own.drop (256 * b)).take 256).map fun x => topExp 0 127 (val32 x)) with
      | some t => BitVec.ofInt 32 t
      | none => BitVec.ofInt 32 (-32768)
  | 2, some es =>
    r.own.zipIdx.flatMap fun e =>
      let x := enterExact (((es[e.2 / 256]?).getD none).map (· - 111)) {} (val32 e.1)
      (List.range 4).map (fun k => BitVec.ofNat 32 (x.w.toNat / 2 ^ (32 * k))) ++
        [BitVec.ofNat 32 ((if x.nan then 1 else 0) + (if x.posInf then 2 else 0) + (if x.negInf then 4 else 0))]
  | _, _ => r.own

/-- An exact element out of five words. -/
def exactWords (ws : List Lane) : XAcc := exactOf ((ws.take 4).flatMap (fun w => toLe 4 w.toNat) ++ toLe 1 ((ws.drop 4).headD 0).toNat)

/-- Five words of an exact element. -/
def wordsExact (x : XAcc) : List Lane :=
  let bs := exactBytes x
  (List.range 4).map (fun k => BitVec.ofNat 32 (fieldAt bs (4 * k) 4)) ++ [BitVec.ofNat 32 (fieldAt bs 16 1)]

/-- Elements of five words. -/
def cutFive (ws : List Lane) : List (List Lane) := (List.range (ws.length / 5)).map fun k => (ws.drop (5 * k)).take 5

/-- Two messages of one pass combined. -/
def combineVectors (kind : Nat) (a b : List Lane) : List Lane :=
  match kind with
  | 0 => a.zipWith (fun x y => round32 (addV (val32 x) (val32 y))) b
  | 1 => a.zipWith (fun x y => if x.toInt < y.toInt then y else x) b
  | _ => ((cutFive a).zipWith (fun x y => wordsExact (mergeExact (exactWords x) (exactWords y))) (cutFive b)).flatten

/-- Does a reduced message hold a non-finite sum? -/
def nonfiniteSum (kind : Nat) (v : List Lane) : Bool :=
  match kind with
  | 0 => v.any fun x => isNonfinite (val32 x)
  | 1 => false
  | _ => (cutFive v).any fun x => (x.drop 4).headD 0 != 0

/-- The lower of two flagging modules (R269). -/
def lowerFlag (a b : Option Nat) : Option Nat :=
  match a, b with
  | some x, some y => some (min x y)
  | some x, none => some x
  | none, y => y

/-- The messages of a node's children in child index order, none while one is missing. -/
def allArrived (n : NormNode) : Option (List (List Lane × Option Nat)) :=
  if n.children = 0 then none else (List.range n.children).mapM fun k => tget k n.arrived

/-- The FP32 sums of a reduced message. -/
def normSums (r : NormRun) (v : List Lane) : List Lane :=
  match normKind r, r.exps with
  | 2, some es =>
    (cutFive v).zipIdx.map fun e => round32 (exactVal (exactWords e.1) ((((es[e.2 / 256]?).getD none).map (· - 111)).getD 0))
  | _, _ => v

/-- The loss scale of the optimizer state a partition's last OPTIMIZER_STEP used; 1.0 before the first (R268; log entry 53). -/
def lossScale (s : State) (part : Nat) : Lane :=
  match (learningOf s part).optState with
  | some a => BitVec.ofNat 32 (readNum s (a + 4) 4)
  | none => 0x3F800000

/-- The root's decision (R268, R269): G, c, the flag word, then the sums. -/
def rootResult (s : State) (part : Nat) (r : NormRun) (sums : List Lane) (nf : Option Nat) : List Lane :=
  let g := div32 (val32 (sqrt32 (val32 (Config.normSum sums)))) (val32 (lossScale s part))
  let c := if ltV (val32 r.maxNorm) (val32 g) then div32 (val32 r.maxNorm) (val32 g) else 0x3F800000
  [g, c, BitVec.ofNat 32 (match nf with | some m => 2 ^ 31 + m | none => 0)] ++ sums

def putNorm (key : Nat) (n : NormNode) (s : State) : State := { s with lantern := { s.lantern with norms := tput key n s.lantern.norms } }

def lanesBytes (v : List Lane) : List Byte := v.flatMap fun x => toLe 4 x.toNat
def bytesLanes (bs : List Byte) : List Lane := (List.range (bs.length / 4)).map fun k => BitVec.ofNat 32 (fieldAt bs (4 * k) 4)

/-- The port a norm's message takes toward a member: the routed one where the group names it, else the one to the next member (R263). -/
def normPort (s : State) (part group m : Nat) : Nat :=
  match ringPlace s part group, tget m s.lantern.routes with
  | some x, some b => if b.toNat % 8 = x.prevPort then x.prevPort else x.nextPort
  | some x, none => x.nextPort
  | none, _ => 0

/-- Sends a message of a group's norm to another module's node. -/
def sendNorm (part group what m arg : Nat) (v : List Lane) (s : State) : State :=
  sendPieces (viaPort s (normPort s part group m) (relayPacket s what group m arg (lanesBytes v))) s

/-- Sends a result to the modules below a node. -/
def sendDown (part group kind : Nat) (kids : List Nat) (v : List Lane) (s : State) : State :=
  kids.foldl (fun s m => sendNorm part group 3 m kind v s) s

/-- Completes a module's NORM_GLOBAL with the root's result (R269, R270). -/
def finishNorm (part : Nat) (r : NormRun) (v : List Lane) (s : State) : State :=
  let word := fun (k : Nat) => (v[k]?).getD 0
  let flag := (word 2).getLsbD 31
  let skip := flag && r.skip
  let scale := lossScale s part
  let s1 := modLearning part (fun l => { l with
    norm := none, clip := word 1, skipped := l.skipped || skip, skipHalves := l.skipHalves || skip
    gradNorms := (v.drop 3).zipIdx.map fun e => (e.2, div32 (val32 (sqrt32 (val32 e.1))) (val32 scale)) }) s
  let s2 := { s1 with lantern := { s1.lantern with norms := tdel (normKey r.group) s1.lantern.norms } }
  finish r.cmd { status := if skip then .nonfiniteSkip else .ok, words := [word 0, word 1, word 2] } s2

/-- The command of a partition's running norm of a group. -/
def normOf (s : State) (part group : Nat) : Option NormRun :=
  match (learningOf s part).norm with
  | some r => if r.group = group then some r else none
  | none => none

/-- A message of a child reaches a node; one that gave up, or has this child's message already, takes none (R271). -/
def putArrival (key child : Nat) (v : List Lane) (nf : Option Nat) (s : State) : State :=
  let n := tgetD key {} s.lantern.norms
  if n.timedOut || (tget child n.arrived).isSome then s else putNorm key { n with arrived := tput child (v, nf) n.arrived } s

/-- The node's child index of this module in its parent. -/
def childIndex (s : State) (part group : Nat) : Nat :=
  match ringPlace s part group with
  | some x => 1 + (x.index - 1) % 6
  | none => 1

/-- What a node does once every child's message is there (R268): its sum goes up, or, at the root, the result goes down and into this
module's own command. hops bounds the passes that follow at once: true colour has two. -/
def settleNorm (part group : Nat) : Nat → State → State
  | 0, s => s
  | k + 1, s =>
    let key := normKey group
    match tget key s.lantern.norms, normOf s part group with
    | some n, some r =>
      match allArrived n with
      | none => s
      | some [] => s
      | some ((v0, f0) :: rest) =>
        let kind := normKind r
        let v := rest.foldl (fun a x => combineVectors kind a x.1) v0
        let f1 := rest.foldl (fun a x => lowerFlag a x.2) f0
        let nf := if nonfiniteSum kind v then lowerFlag f1 (some (ownModule s)) else f1
        let s1 := putNorm key { n with arrived := [] } s
        match n.parent with
        | some m =>
          sendNorm part group 2 m (childIndex s part group + (match nf with | some x => (x + 2 ^ 17) * 2 ^ 8 | none => 0)) v s1
        | none =>
          if kind = 1 then
            let s2 := modLearning part (fun l => { l with norm := l.norm.map fun r => { r with
              exps := some (v.map fun x => if x.toInt = -32768 then none else some x.toInt) } }) (sendDown part group 1 n.kids v s1)
            match normOf s2 part group with
            | some r2 =>
              settleNorm part group k (putArrival key 0 (ownVector r2) (tgetD 0 ([], none) n.arrived).2 s2)
            | none => s2
          else
            let sums := normSums r v
            let flag := if nonfiniteSum 0 sums then lowerFlag nf (some (ownModule s)) else nf
            let res := rootResult s1 part r sums flag
            finishNorm part r res (sendDown part group 0 n.kids res s1)
    | _, _ => s

/-- This module's own flag: it has a non-finite element in its partials (R269). -/
def ownFlag (s : State) (part : Nat) : Option Nat :=
  if (learningOf s part).layerNonfinite.any fun e => e.2 != 0 then some (ownModule s) else none

/-- A result from above: on to the modules below, then into this module's command; an exponent result starts its second pass. -/
def normResult (group kind : Nat) (v : List Lane) (s : State) : State :=
  let key := normKey group
  match tget key s.lantern.norms with
  | none => s
  | some n =>
    let s1 := sendDown n.part group kind n.kids v s
    match normOf s1 n.part group with
    | none => s1
    | some r =>
      if kind = 1 then
        let s2 := modLearning n.part (fun l => { l with norm := l.norm.map fun r => { r with
          exps := some (v.map fun x => if x.toInt = -32768 then none else some x.toInt) } }) s1
        match normOf s2 n.part group with
        | some r2 => settleNorm n.part group 2 (putArrival key 0 (ownVector r2) (ownFlag s2 n.part) s2)
        | none => s2
      else finishNorm n.part r v s1

/-- A child's message reaches the node of a group. -/
def normArrive (key child : Nat) (v : List Lane) (nf : Option Nat) (s : State) : State :=
  let s1 := putArrival key child v nf s
  match tget key s1.lantern.norms with
  | none => s1
  | some n =>
    match (learningOf s1 n.part).norm with
    | some r => if normKey r.group = key then settleNorm n.part r.group 2 s1 else s1
    | none => s1

end Sys2Proof.Machine
end

