-- ==== Sys2Proof/Machine/OptOps.lean ====
section
/-! DEFINITION. The optimizer step's arithmetic (R273), its state block (log entry 53), the loss scale and the telemetry table (R270,
R272). -/

namespace Sys2Proof.Machine

/-! Elementwise lines, each rounded once to FP32 -/

def oneVal : FVal := .fin false 1 0

/-- 1 − b. -/
def oneLess (b : Lane) : FVal := addV oneVal (negV (val32 b))

/-- g = grad × c ÷ s. -/
def optGrad (grad : FVal) (c s : Lane) : Lane := div32 (mulV grad (val32 c)) (val32 s)

/-- m = b1 × m + (1 − b1) × g. -/
def optM (b1 m g : Lane) : Lane := round32 (addV (mulV (val32 b1) (val32 m)) (mulV (oneLess b1) (val32 g)))

/-- v = b2 × v + (1 − b2) × g × g. -/
def optV (b2 v g : Lane) : Lane :=
  round32 (addV (mulV (val32 b2) (val32 v)) (mulV (mulV (oneLess b2) (val32 g)) (val32 g)))

/-- m = mu × m + g. -/
def sgdM (mu m g : Lane) : Lane := round32 (addV (mulV (val32 mu) (val32 m)) (val32 g))

/-- w = w − lr × (m + wd × w). -/
def sgdW (lr wd m w : Lane) : Lane :=
  round32 (addV (val32 w) (negV (mulV (val32 lr) (addV (val32 m) (mulV (val32 wd) (val32 w))))))

/-- 1 − b^t as a value, where b is finite. -/
def biasFix (b : Lane) (t : Nat) : FVal :=
  match Q.ofLane b with
  | some q => val32 (Q.round32 ((Q.ofInt 1).sub (q.pow t)))
  | none => oneLess b

/-- The weight line with special operands: every operation under IEEE rules. -/
def adamSpecial (lr wd eps b1 b2 : Lane) (t : Nat) (w m v : Lane) : Lane :=
  let mh := div32 (val32 m) (biasFix b1 t)
  let vh := div32 (val32 v) (biasFix b2 t)
  let den := round32 (addV (val32 (sqrt32 (val32 vh))) (val32 eps))
  let u := div32 (val32 mh) (val32 den)
  round32 (addV (val32 w) (negV (mulV (val32 lr) (addV (val32 u) (mulV (val32 wd) (val32 w))))))

/-- The weight line on finite operands whose denominators are nonzero, rounded once: a + b·√V with V = v ÷ (1 − b2^t). -/
def adamFinite (lr wd eps w a v : Q) : Option Lane :=
  let base := w.sub ((lr.mul wd).mul w)
  let d := v.sub (eps.mul eps)
  if d.num = 0 then
    if eps.num ≤ 0 then none else some (Q.round32 (base.sub ((lr.mul a).div (eps.mul (Q.ofInt 2)))))
  else
    let r := base.add (((lr.mul a).mul eps).div d)
    let b := (lr.mul a).div d
    let p := (b.mul b).mul v
    some (surdRound32 (r.num * p.den) (0 < b.num) (r.den * r.den * p.num.natAbs * p.den) (r.den * p.den))

/-- w = w − lr × ((m ÷ (1 − b1^t)) ÷ (sqrt(v ÷ (1 − b2^t)) + eps) + wd × w), rounded once. -/
def adamW (lr wd eps b1 b2 : Lane) (t : Nat) (w m v : Lane) : Lane :=
  match Q.ofLane lr, Q.ofLane wd, Q.ofLane eps, Q.ofLane b1, Q.ofLane b2, Q.ofLane w, Q.ofLane m, Q.ofLane v with
  | some lr', some wd', some eps', some b1', some b2', some w', some m', some v' =>
    let d1 := (Q.ofInt 1).sub (b1'.pow t)
    let d2 := (Q.ofInt 1).sub (b2'.pow t)
    let vh := v'.div d2
    if d1.num = 0 ∨ d2.num = 0 ∨ vh.num < 0 then adamSpecial lr wd eps b1 b2 t w m v
    else (adamFinite lr' wd' eps' w' (m'.div d1) vh).getD (adamSpecial lr wd eps b1 b2 t w m v)
  | _, _, _, _, _, _, _, _ => adamSpecial lr wd eps b1 b2 t w m v

/-! The state block (log entry 53): 0 STEP, 4 loss scale, 8 steps in a row not skipped, 16 elements, then the addresses of the
gradients (24), master weights (32), first moments (40), second moments (48) and the working copy (56) -/

structure OptBlock where
  addr : Nat
  step : Nat
  scale : Lane
  row : Nat
  n : Nat
  grad : Nat
  w : Nat
  m : Nat
  v : Nat
  copy : Nat
  deriving DecidableEq, Repr

def optBlock (s : State) (a : Nat) : OptBlock :=
  { addr := a, step := readNum s a 4, scale := BitVec.ofNat 32 (readNum s (a + 4) 4), row := readNum s (a + 8) 4
    n := readNum s (a + 16) 8, grad := readNum s (a + 24) 8, w := readNum s (a + 32) 8, m := readNum s (a + 40) 8
    v := readNum s (a + 48) 8, copy := readNum s (a + 56) 8 }

def readLanes (s : State) (a n : Nat) : List Lane := (List.range n).map fun i => BitVec.ofNat 32 (readNum s (a + 4 * i) 4)
def writeLanes (a : Nat) (xs : List Lane) (s : State) : State := writeGlobal a (lanesBytes xs) s

/-- The refusals of OPTIMIZER_STEP: a reserved working format (R46), its block, its arrays, and the step count's end (R273). -/
def optCheck (s : State) (part : Nat) (p : OptParams) (format : Nat) : Option (Status × Nat) :=
  match if 12 < p.workingFormat then some (.badOpcode, 0) else checkList s part p.state 64 1 with
  | some e => some e
  | none =>
    let b := optBlock s p.state
    if b.step = 2 ^ 32 - 1 then some (.quota, 0)
    else
      firstOf [checkList s part b.grad (b.n * elemSize format) 1, checkList s part b.w (4 * b.n) 1, checkList s part b.m (4 * b.n) 1,
        if p.sgd then none else checkList s part b.v (4 * b.n) 1,
        checkOperand s part b.copy ((b.n * elemBits p.workingFormat + 7) / 8 + (if isMx p.workingFormat then (b.n + 31) / 32 else 0)) 1]

/-! The loss scale (R270, R273) -/

/-- Half of a scale, not below 1.0. -/
def halfScale (x : Lane) : Lane :=
  let h := div32 (val32 x) (.fin false 1 1)
  if ltV (val32 h) oneVal then if ltV (val32 x) oneVal then x else 0x3F800000 else h

/-- Twice a scale, up to 2^24. -/
def twiceScale (x : Lane) : Lane :=
  let d := round32 (mulV (val32 x) (.fin false 1 1))
  if ltV (.fin false 1 24) (val32 d) then x else d

/-! Telemetry (R272) -/

/-- Layers of the stage: up to the last one a bucket holds. -/
def stageLayers (l : Learning) : Nat := l.buckets.foldl (fun n b => max n (b.last + 1)) 0

/-- One telemetry record. -/
def telemetryBytes (step layer : Nat) (gen : BitVec 16) (grad wsq usq : Lane) (nonfinite flags : Nat) : List Byte :=
  toLe 4 step ++ toLe 2 layer ++ toLe 2 gen.toNat ++ toLe 4 grad.toNat ++ toLe 4 wsq.toNat ++ toLe 4 usq.toNat ++ toLe 4 nonfinite ++
    toLe 2 flags ++ List.replicate 6 0

/-- Writes a step's records into the ring of the table, in layer order. -/
def writeTelemetry (part step : Nat) (skipped : Bool) (w u : List Lane) (s : State) : State :=
  let l := learningOf s part
  if l.telemetry = 0 ∨ l.telemetryRecords = 0 then s
  else
    (List.range (stageLayers l)).foldl (fun s k =>
      let x := learningOf s part
      let nf := tgetD k 0 x.layerNonfinite
      let rec_ :=
        if skipped then telemetryBytes step k x.nextGen 0 0 0 nf 1
        else telemetryBytes step k x.nextGen (tgetD k 0 x.gradNorms) (Config.layerSquares k 0 w) (Config.layerSquares k 0 u) nf
          (if ltV (val32 x.clip) oneVal then 2 else 0)
      modLearning part (fun x => { x with telemetryNext := (x.telemetryNext + 1) % x.telemetryRecords })
        (writeGlobal (x.telemetry + 32 * x.telemetryNext) rec_ s)) s

/-! The step -/

/-- The template a working copy is written under: a format and nothing else. -/
def copyTemplate (fmt n : Nat) : Template :=
  { fmtA := 0, fmtB := 0, fmtOut := fmt, fmtC := 0, fmtBias := 0, bucketsM := [], bucketsN := [], bucketsK := [], bucketsC := [], padA := 0
    padB := 0, shape := .auto, blocksAlongK := false, scaleA := 0, scaleB := 0, scaleD := (n * elemBits fmt + 7) / 8, strideA := 0
    strideB := 0, strideC := 0, weightsB := false, layer := 0, staticKH := none, staticDH := none, isConv := false, records := []
    hints := [] }

/-- Writes the working copy of updated weights (R55, R56, R73): COUNTER draws by element under the command's seed, stream 0. -/
def writeCopy (c : Cmd) (p : OptParams) (b : OptBlock) (ws : List Lane) (s : State) : State :=
  let h : ComputeHead := { plan := 0, template := 0, sat := false, sr := p.sr, srCounter := true, axisA := false, axisB := false }
  (writeRows (outJob c (copyTemplate p.workingFormat b.n) h b.n p.seed 0) b.copy [(0, ws.map outVal)] s).1

/-- What every end of a step clears: the skip mark, the norm partials and the buckets, which may fill again. -/
def nextOptStep (state : Nat) (l : Learning) : Learning :=
  { l with
    skipped := false, skipHalves := false, layerSq := [], layerNonfinite := [], gradNorms := [], optState := some state
    buckets := l.buckets.map fun b => { b with filled := false, reduced := false } }

/-- A buddy copy that a fog warning asked for may start now, and holds the partition's commands back (R386). -/
def releaseFogCopy (part : Nat) (s : State) : State :=
  modPart part (fun p => { p with ckpt := { p.ckpt with holding := p.ckpt.holding || (p.ckpt.fogWaiting && p.ckpt.last.isSome) } }) s

/-- A skipped step (R270, R271). -/
def skipStep (c : Cmd) (p : OptParams) (s : State) : State :=
  let l := learningOf s c.part
  let b := optBlock s p.state
  let s1 := writeGlobal (b.addr + 8) (toLe 4 0)
    (if l.skipHalves then writeGlobal (b.addr + 4) (toLe 4 (halfScale b.scale).toNat) s else s)
  let s2 := writeTelemetry c.part b.step true [] [] s1
  releaseFogCopy c.part (finish c (ans .nonfiniteSkip) (modLearning c.part (nextOptStep p.state) s2))

/-- A step that is applied (R273). -/
def applyStep (c : Cmd) (p : OptParams) (s : State) : State :=
  let l := learningOf s c.part
  let b := optBlock s p.state
  let t := b.step + 1
  let gs := (List.range b.n).map fun i => optGrad (decodeElem l.format (readElem s b.grad l.format i)) l.clip b.scale
  let w := readLanes s b.w b.n
  let m := readLanes s b.m b.n
  let v := readLanes s b.v b.n
  let m1 := if p.sgd then m.zipWith (fun m g => sgdM p.b1 m g) gs else m.zipWith (fun m g => optM p.b1 m g) gs
  let v1 := if p.sgd then v else v.zipWith (fun v g => optV p.b2 v g) gs
  let w1 :=
    if p.sgd then w.zipWith (fun w m => sgdW p.lr p.wd m w) m1
    else (w.zip (m1.zip v1)).map fun e => adamW p.lr p.wd p.eps p.b1 p.b2 t e.1 e.2.1 e.2.2
  let u := w1.zipWith (fun a b => round32 (addV (val32 a) (negV (val32 b)))) w
  let s1 := writeLanes b.w w1 (writeLanes b.m m1 (if p.sgd then s else writeLanes b.v v1 s))
  let s2 := writeCopy c p b w1 s1
  let grown := decide (p.growth ≠ 0) && decide (p.growth ≤ b.row + 1)
  let s3 := writeGlobal b.addr (toLe 4 t ++ toLe 4 (if grown then twiceScale b.scale else b.scale).toNat ++
    toLe 4 (if grown then 0 else b.row + 1)) s2
  let s4 := modLearning c.part (fun l => { l with nextGen := l.nextGen + 1 }) s3
  let s5 := writeTelemetry c.part t false w1 u s4
  releaseFogCopy c.part (finish c (ans .ok) (modLearning c.part (nextOptStep p.state) s5))

end Sys2Proof.Machine
end

