-- ==== Sys2Proof/Machine/Learning.lean ====
section
/-! DEFINITION. The meanings of the learning commands (R263 to R273), of their events and of RELAY (R197, R339). -/

namespace Sys2Proof.Machine

/-- GROUP_SET (R263, R339). -/
def execGroupSet (c : Cmd) (group kind : Nat) (members : List GroupMember) (s : State) : Result :=
  if 4 < kind ∨ members.length < 2 ∨ 131072 < members.length then done c (ans .badLength 0xE) s
  else
    match tget group s.lantern.groups with
    | some g =>
      if g.part ≠ c.part then done c (ans .tenantViolation) s
      else done c (ans .ok) { s with lantern := { s.lantern with
        groups := tput group { part := c.part, kind := kind, members := members } s.lantern.groups } }
    | none =>
      if 256 ≤ s.lantern.groups.length then done c (ans .quota) s
      else done c (ans .ok) { s with lantern := { s.lantern with
        groups := tput group { part := c.part, kind := kind, members := members } s.lantern.groups } }

/-- A collective's group: known, of the partition, and with this module a member (R263). -/
def groupCheck (s : State) (part group : Nat) : Option (Status × Nat) :=
  match tget group s.lantern.groups with
  | none => some (.badLength, 0xE)
  | some g =>
    if g.part ≠ part then some (.tenantViolation, 0) else if (ringPlace s part group).isNone then some (.badLength, 0xE) else none

/-- Are a gradient format and a buffer's length right (R264, R265)? -/
def ringFormatOk (format length : Nat) : Bool := (format == 0 || format == 2) && length % elemSize format == 0

/-- A gradient format's refusals: a reserved code (R46), then one the ring does not take, or a length that is no whole number of elements. -/
def ringFormat (format length : Nat) : Option (Status × Nat) :=
  if 12 < format then some (.badOpcode, 0) else if ringFormatOk format length then none else some (.badLength, 0xE)

/-- BUCKET_CONFIG (R264, R272). A refused one leaves the configuration as it was. The buckets' reductions run in true colour where the
command carries the flag, the model's choice (log entry 132). -/
def execBucketConfig (c : Cmd) (group format : Nat) (buckets : List (Nat × Nat × Nat × Nat)) (telemetry records : Nat) (s : State) :
    Result :=
  let sizes := buckets.any fun b => decide (b.2.1 < 32) || decide (256 < b.2.1)
  let table : Option (Status × Nat) :=
    if telemetry = 0 then none
    else if records = 0 ∨ 65536 < records then some (.badLength, 0xE)
    else checkOperand s c.part telemetry (32 * records) 1
  match firstOf [ringFormat format 0, groupCheck s c.part group,
      if sizes then some (.badLength, 0) else none, if 1024 < buckets.length then some (.quota, 0) else none,
      firstOf (buckets.map fun b => checkOperand s c.part b.1 (b.2.1 * 0x100000) 1), table] with
  | some e => done c (ans e.1 e.2) s
  | none =>
    done c (ans .ok) (modLearning c.part (fun l => { l with
      group := group, format := format, exact := c.trueColour, telemetry := telemetry, telemetryRecords := records, telemetryNext := 0
      buckets := buckets.map fun b => { base := b.1, mib := b.2.1, first := b.2.2.1, last := b.2.2.2 } }) s)

/-- BUCKET_FILL (R264, R265): the bucket's reduction starts, or waits for the ring. -/
def execBucketFill (part bucket : Nat) (s : State) : Result :=
  let l := learningOf s part
  match l.buckets[bucket]? with
  | none => .next s
  | some b =>
    if b.filled then .next s
    else
      .next (queueRing part l.group
        { cmd := none, bucket := some bucket, format := l.format, addr := b.base, length := b.mib * 0x100000, exact := l.exact }
        (modLearning part (fun l => { l with buckets := lmod bucket (fun b => { b with filled := true }) l.buckets }) s))

/-- ALLREDUCE of a buffer (R265, R67). -/
def execAllreduce (c : Cmd) (group format addr length : Nat) (s : State) : Result :=
  match firstOf [ringFormat format length, groupCheck s c.part group,
      checkList s c.part addr length 1] with
  | some e => done c (ans e.1 e.2) s
  | none =>
    .next (queueRing c.part group
      { cmd := some c, bucket := none, format := format, addr := addr, length := length, exact := c.trueColour } s)

/-- Does a reduction wait because its job is stopped? -/
def ringHeld (s : State) (r : Reduction) : Bool := match r.cmd with | some c => cmdStopped s c | none => false

/-- RING_STEP: the data of the next step of a group's reduction arrive from its neighbours. A stopped job's reduction waits. -/
def execRingStep (part group step : Nat) (incoming : List Byte) (s : State) : Result :=
  match runningReduction s part group with
  | none => .next s
  | some r =>
    if r.step ≠ step ∨ ringHeld s r then .next s
    else .next (ringAdvance part group incoming s)

/-- RING_STEP_TIMEOUT (R267): no data for 10 ms, or a member that went dark. -/
def execRingStepTimeout (part group : Nat) (dark : Bool) (s : State) : Result :=
  .next (endRing part group (if dark then .unitDark else .timeout) s)

/-- NORM_GLOBAL (R268 to R271): this module's partials join its tree node. One runs in a partition at a time (log entry 54). -/
def execNormGlobal (c : Cmd) (group layers : Nat) (skip : Bool) (maxNorm : BitVec 32) (timeout : Nat) (s : State) : Result :=
  match firstOf [groupCheck s c.part group, if layers = 0 ∨ 1024 < layers ∨ 2 ^ 32 ≤ timeout then some (.badLength, 0xE) else none] with
  | some e => done c (ans e.1 e.2) s
  | none =>
    if (learningOf s c.part).norm.isSome then done c (ans .locked) s
    else
      match tget group s.lantern.groups with
      | none => done c (ans .badLength 0xE) s
      | some g =>
        let r : NormRun :=
          { cmd := c, group := group, layers := layers, skip := skip, maxNorm := maxNorm
            own := (List.range layers).map fun l => tgetD l 0 (learningOf s c.part).layerSq }
        let kids := groupKids s g
        let n := tgetD (normKey group) {} s.lantern.norms
        let s1 := putNorm (normKey group) { n with part := c.part, children := 1 + kids.length, parent := groupParent s g, kids := kids }
          (modLearning c.part (fun l => { l with norm := some r }) s)
        .next (settleNorm c.part group 2 (putArrival (normKey group) 0 (ownVector r) (ownFlag s1 c.part) s1))

/-- NORM_NODE_ARRIVAL (R268). -/
def execNormNodeArrival (die node child : Nat) (vector : List (BitVec 32)) (nonfinite : Option Nat) (s : State) : Result :=
  .next (normArrive (treeKey die node) child vector nonfinite s)

/-- NORM_GLOBAL_TIMEOUT (R271): the step is skipped, its scale is not halved, and the event is logged. -/
def execNormGlobalTimeout (part : Nat) (s : State) : Result :=
  match (learningOf s part).norm with
  | none => .next s
  | some r =>
    let s1 := modLearning part (fun l => { l with norm := none, skipped := true }) s
    let s2 := { s1 with lantern := { s1.lantern with norms := tdel (normKey r.group) s1.lantern.norms } }
    done r.cmd (ans .timeout) (note 0x060A (fun e => { e with
      status := statusCode .timeout, part := part, source := 0x0410, arg := BitVec.ofNat 64 r.group }) s2)

/-- NORM_NODE_TIMEOUT (R271): a node that still misses a child sends nothing upward any more. -/
def execNormNodeTimeout (die node : Nat) (s : State) : Result :=
  match tget (treeKey die node) s.lantern.norms with
  | none => .next s
  | some n => .next (if (allArrived n).isSome then s else putNorm (treeKey die node) { n with timedOut := true } s)

/-- OPTIMIZER_STEP (R270, R273). -/
def execOptimizerStep (c : Cmd) (p : OptParams) (s : State) : Result :=
  match optCheck s c.part p (learningOf s c.part).format with
  | some e => done c (ans e.1 e.2) s
  | none => .next (if (learningOf s c.part).skipped then skipStep c p s else applyStep c p s)

/-- RELAY (R197, R268, R339): what a relay engine's packet carries goes to its tree node; a ring step's pieces take effect with
RING_STEP. -/
def execRelay (die : Nat) (p : Pkt) (s : State) : Result :=
  if fenced s p then .next (darkDrop p s)
  else
    let node := p.arg.toNat % 2 ^ 56
    let a := p.arg2.toNat
    match p.arg.toNat / 2 ^ 56 with
    | 0 => .next (treeArrive 2 die node (16 + p.src) s)
    | 1 => .next (releaseTree node a s)
    | 2 => .next (normArrive (normKey node) (a % 256) (bytesLanes p.data) (if 2 ^ 25 ≤ a then some (a / 256 % 2 ^ 17) else none) s)
    | 3 => .next (normResult node a (bytesLanes p.data) s)
    | _ => .next s

end Sys2Proof.Machine
end

