-- ==== Sys2Proof/Machine/Experts.lean ====
section
/-! DEFINITION. The meanings of the expert commands (R69, R274 to R277). The layouts of list entries and slot headers, and what ends the
slots in use, are the model's (log entry 55). -/

namespace Sys2Proof.Machine

/-! The expert map (R274) -/

/-- An expert map entry of 16 bytes. -/
def expertOf (bs : List Byte) : Expert :=
  { home := fieldAt bs 0 4 % 2 ^ 17, region := fieldAt bs 4 1, group := fieldAt bs 5 1, cap := fieldAt bs 6 2, recvBase := fieldAt bs 8 8 }

/-- EXPERT_MAP_SET: its entries wait until nothing in flight uses the map. -/
def execExpertMapSet (c : Cmd) (count list : Nat) (s : State) : Result :=
  if count = 0 ∨ 65536 < count then done c (ans .badLength 0) s
  else
    match checkList s c.part list (32 * count) 1 with
    | some e => done c (ans e.1 e.2) s
    | none =>
      let es := (List.range count).map fun i => (readNum s (list + 32 * i) 4, expertOf (readGlobal s (list + 32 * i + 16) 16))
      if es.any fun e => decide (65535 < e.1) then done c (ans .badLength 0) s
      else .next (modPart c.part (fun p => { p with experts := { p.experts with waiting := p.experts.waiting ++ [(c, es)] } }) s)

/-- EXPERT_MAP_APPLY: once no TOKEN_DISPATCH is in flight (a TOKEN_COMBINE completes in its own step), every waiting command's entries are
applied together. -/
def execExpertMapApply (part : Nat) (s : State) : Result :=
  if !(partOf s part).experts.dispatches.isEmpty then .next s
  else .next ((partOf s part).experts.waiting.foldl (fun s w =>
    finish w.1 (ans .ok) (modPart part (fun p => { p with experts := { p.experts with
      map := w.2.foldl (fun m e => tput e.1 e.2 m) p.experts.map, waiting := p.experts.waiting.drop 1 } }) s)) s)

/-! Routing (R275, R276) -/

/-- A destination of the pointer list: expert, slots, segment and counter. -/
structure Segment where
  expert : Nat
  cap : Nat
  addr : Nat
  counter : BitVec 32
  deriving DecidableEq, Repr

def segmentAt (s : State) (list i : Nat) : Segment :=
  let a := list + 32 * i
  { expert := readNum s a 4, cap := readNum s (a + 4) 2, addr := readNum s (a + 8) 8, counter := BitVec.ofNat 32 (readNum s (a + 16) 4) }

def segmentsOf (s : State) (list count : Nat) : List Segment := (List.range count).map (segmentAt s list)

/-- Choice r of token i: the expert, none for 0xFFFF, and the score. -/
def choiceOf (s : State) (routing i r : Nat) : Option Nat × BitVec 32 :=
  let a := routing + 64 * i + 8 * r
  let e := readNum s a 2
  (if e = 0xFFFF then none else some e, BitVec.ofNat 32 (readNum s (a + 4) 4))

/-- A placed row: expert, token and rank, in the order the slots of its segment are taken. -/
structure Placement where
  expert : Nat
  token : Nat
  rank : Nat
  deriving DecidableEq, Repr

/-- Has an expert a free slot? -/
def hasSlot (segs : List Segment) (ps : List Placement) (e : Nat) : Bool :=
  match segs.find? (·.expert == e) with
  | some g => ps.countP (·.expert == e) < g.cap
  | none => false

/-- Experts a token already uses. -/
def usesExpert (ps : List Placement) (i e : Nat) : Bool := ps.any fun p => p.token == i && p.expert == e

/-- The first pass: every choice below k, by rank then token; what finds no slot has overflowed. -/
def firstPass (s : State) (segs : List Segment) (routing t k : Nat) : List Placement × List (Nat × Nat) :=
  ((List.range k).flatMap fun r => (List.range t).map fun i => (i, r)).foldl (fun acc x =>
    match (choiceOf s routing x.1 x.2).1 with
    | none => acc
    | some e =>
      if hasSlot segs acc.1 e then (acc.1 ++ [⟨e, x.1, x.2⟩], acc.2) else (acc.1, acc.2 ++ [x])) ([], [])

/-- The second pass under NEXT_CHOICE: the first later choice of the token with a free slot, keeping the rank. -/
def secondPass (s : State) (segs : List Segment) (routing k : Nat) (ps : List Placement) (spill : List (Nat × Nat)) :
    List Placement × List (Nat × Nat) :=
  spill.foldl (fun acc x =>
    match ((List.range (8 - k)).findSome? fun j =>
        match (choiceOf s routing x.1 (k + j)).1 with
        | some e => if !usesExpert acc.1 x.1 e && hasSlot segs acc.1 e then some e else none
        | none => none) with
    | some e => (acc.1 ++ [⟨e, x.1, x.2⟩], acc.2)
    | none => (acc.1, acc.2 ++ [x])) (ps, [])

/-- The refusals both expert commands share. -/
def expertCheck (s : State) (c : Cmd) (t k routing rows list listCount rowBytes : Nat) : Option (Status × Nat) :=
  match listCheck list listCount with
  | some e => some e
  | none =>
    if t = 0 then some (.emptyShape, 0)
    else if k = 0 ∨ 8 < k then some (.badLength, 0xE)
    else
      firstOf [checkList s c.part list (32 * listCount) 1, checkList s c.part routing (64 * t) 1, checkList s c.part rows (t * rowBytes) 1]

/-! TOKEN_DISPATCH (R276) -/

/-- A slot's 16-byte header. -/
def slotHeader (token rank source : Nat) : List Byte := toLe 4 token ++ toLe 4 rank ++ toLe 4 source ++ toLe 4 0

/-- The header that ends the slots in use of a segment. -/
def endHeader : List Byte := toLe 4 0xFFFFFFFF ++ List.replicate 12 0

/-- What a segment's slots take: its rows behind their headers, and the header that ends them where slots are left. -/
def segmentData (s : State) (rows rowBytes : Nat) (mine : List Placement) (g : Segment) : List Byte :=
  mine.flatMap (fun p => slotHeader p.token p.rank (ownModule s) ++ readGlobal s (rows + p.token * rowBytes) rowBytes) ++
    if mine.length < g.cap then endHeader else []

/-- Fills a segment of this module, and signals its counter with the slots sent; the rows for another module leave by a DMA, whose end
signals it. A segment with no channel in service fails. -/
def sendSegment (c : Cmd) (rows rowBytes : Nat) (ps : List Placement) (s : State) (g : Segment) : State :=
  let mine := ps.filter (·.expert == g.expert)
  let bs := segmentData s rows rowBytes mine g
  let home := match tget g.expert (partOf s c.part).experts.map with | some x => x.home | none => g.addr / 2 ^ 47
  if isRemote s g.addr && !bs.isEmpty then
    let r := regionOfHbm (rows % 2 ^ 47) % 8
    match pickChannel s r 255 with
    | none => endSegment c (some (.unitDark, 0)) s
    | some k =>
      startTransfer r k { purpose := .dispatch c g.counter home mine.length, part := c.part, op := .image bs, src := 0, dst := g.addr
                          length := bs.length, clsDst := .normal, serial := 0 } s
  else raiseAny c.part headUnit g.counter home (BitVec.ofNat 64 mine.length) (writeGlobal g.addr bs s)

/-- Segments whose rows leave by a DMA. -/
def remoteSegments (s : State) (rows rowBytes : Nat) (ps : List Placement) (segs : List Segment) : Nat :=
  segs.countP fun g => isRemote s g.addr && !(segmentData s rows rowBytes (ps.filter (·.expert == g.expert)) g).isEmpty

/-- TOKEN_DISPATCH. A counter handle that names no object form is refused (R166). It replies once every segment's rows have arrived. -/
def execTokenDispatch (c : Cmd) (t k : Nat) (nextChoice : Bool) (routing rows list listCount rowBytes : Nat) (s : State) : Result :=
  match expertCheck s c t k routing rows list listCount rowBytes with
  | some e => done c (ans e.1 e.2) s
  | none =>
    let segs := segmentsOf s list listCount
    match firstOf ((if segs.any fun g => handleRef g.counter == .bad then some (.badLength, 4) else none) ::
        segs.map fun g => checkOperand s c.part g.addr (g.cap * (16 + rowBytes)) 2) with
    | some e => done c (ans e.1 e.2) s
    | none =>
      let a := firstPass s segs routing t k
      let b := if nextChoice then secondPass s segs routing k a.1 a.2 else a
      let words := [BitVec.ofNat 32 a.1.length, BitVec.ofNat 32 (b.1.length - a.1.length), BitVec.ofNat 32 b.2.length]
      let left := remoteSegments s rows rowBytes b.1 segs
      let s0 := if left = 0 then s
        else modPart c.part (fun p => { p with experts := { p.experts with
          dispatches := p.experts.dispatches ++ [{ cmd := c, left := left, words := words }] } }) s
      let s1 := segs.foldl (sendSegment c rows rowBytes b.1) s0
      let s2 := modPart c.part (fun p => { p with experts := { p.experts with
        drops := b.2.foldl (fun d x => match (choiceOf s routing x.1 x.2).1 with
          | some e => tmod e 0 (fun n => satAdd 0xFFFFFFFF n 1) d
          | none => d) p.experts.drops } }) s1
      if left = 0 then done c { status := .ok, words := words } s2 else .next s2

/-! TOKEN_COMBINE (R69, R277) -/

/-- A slot's contribution: token, rank, expert, score and output row. -/
structure Contribution where
  token : Nat
  rank : Nat
  expert : Nat
  score : BitVec 32
  row : List Byte
  deriving DecidableEq, Repr

/-- n bytes at an address, free where another module holds them (log entry 55). -/
def segmentBytes (s : State) (addr n : Nat) : List Byte :=
  if isRemote s addr then (List.range n).map fun i => Config.remoteByte s.free (addr + i) else readGlobal s addr n

/-- The score of a slot: its rank's choice, or the later choice that was substituted for it. -/
def slotScore (s : State) (routing k token rank expert : Nat) : BitVec 32 :=
  if (choiceOf s routing token rank).1 = some expert then (choiceOf s routing token rank).2
  else
    match (List.range (8 - k)).find? fun j => (choiceOf s routing token (k + j)).1 == some expert with
    | some j => (choiceOf s routing token (k + j)).2
    | none => 0

/-- The contributions of a segment: its slots up to the first that is not in use. -/
def segmentRows (s : State) (t k routing rowBytes : Nat) (g : Segment) : Nat → Nat → List Contribution
  | _, 0 => []
  | slot, n + 1 =>
    let a := g.addr + slot * (16 + rowBytes)
    let h := segmentBytes s a 16
    let token := fieldAt h 0 4
    let rank := fieldAt h 4 4
    if t ≤ token ∨ k ≤ rank ∨ fieldAt h 8 4 ≠ ownModule s then []
    else ⟨token, rank, g.expert, slotScore s routing k token rank g.expert, segmentBytes s (a + 16) rowBytes⟩ ::
      segmentRows s t k routing rowBytes g (slot + 1) n

/-- Does a contribution come before another (R69): by rank, and of two with one score the lower expert number? -/
def contributesFirst (x y : Contribution) : Bool := if x.score = y.score then decide (x.expert ≤ y.expert) else decide (x.rank ≤ y.rank)

/-- Inserts a contribution in that order. -/
def insertContribution (x : Contribution) : List Contribution → List Contribution
  | [] => [x]
  | y :: t => if contributesFirst x y then x :: y :: t else y :: insertContribution x t

/-- Element i of a row of bytes in the rows' format, which no rule gives (log entry 55). -/
def rowElem (bs : List Byte) (i : Nat) : Lane :=
  let n := elemBits Config.rowFormat / 8
  round32 (decodeElem Config.rowFormat (fieldAt bs (i * n) n))

/-- The sum of a token's contributions at one element, added one after another in their order: score × output, and the residual last. -/
def combinedElem (mine : List Contribution) (residual : Option (List Byte)) (i : Nat) : Lane :=
  let sum := mine.foldl (fun acc x => Config.combineAdd acc x.score (rowElem x.row i)) 0
  match residual with
  | some old => round32 (addV (val32 (rowElem old i)) (val32 sum))
  | none => sum

/-- A token's row: the contributions added to its residual row or to nothing; a row without any keeps the residual. -/
def combinedRow (s : State) (out rowBytes : Nat) (addResidual : Bool) (cs : List Contribution) (i : Nat) : List Byte :=
  let mine := (cs.filter (·.token == i)).foldl (fun acc x => insertContribution x acc) []
  let old := readGlobal s (out + i * rowBytes) rowBytes
  if mine.isEmpty then if addResidual then old else List.replicate rowBytes 0
  else
    let n := elemBits Config.rowFormat / 8
    bytesAt ((List.range (rowBytes / max 1 n)).flatMap fun e =>
      toLe n (convert Config.rowFormat false .rne (val32 (combinedElem mine (if addResidual then some old else none) e)))) 0 rowBytes

/-- TOKEN_COMBINE. -/
def execTokenCombine (c : Cmd) (t k : Nat) (addResidual : Bool) (routing out list listCount rowBytes : Nat) (s : State) : Result :=
  match expertCheck s c t k routing out list listCount rowBytes with
  | some e => done c (ans e.1 e.2) s
  | none =>
    let segs := segmentsOf s list listCount
    match firstOf (segs.map fun g => checkOperand s c.part g.addr (g.cap * (16 + rowBytes)) 2) with
    | some e => done c (ans e.1 e.2) s
    | none =>
      let cs := segs.flatMap fun g => segmentRows s t k routing rowBytes g 0 g.cap
      let s1 := writeGlobal out ((List.range t).flatMap (combinedRow s out rowBytes addResidual cs)) s
      done c (ans .ok) { s1 with free := s1.free + 1 }

end Sys2Proof.Machine
end

