-- ==== Sys2Proof/Machine/Checkpoints.lean ====
section
/-! DEFINITION. Buddy copies (R383 to R387): narrowing, the copy's record, and the meanings of CKPT_BUDDY, CKPT_RESTORE, CKPT_POLICY and
FOG_BUDDY_COPY. The layouts of a state table entry and of the record's head are the model's (log entry 56). -/

namespace Sys2Proof.Machine

/-- A tensor of a state table (R384): address, bytes, format, class; code is how a stored copy was narrowed. -/
structure Tensor where
  addr : Nat
  size : Nat
  format : Nat
  cls : Nat
  code : Nat
  deriving DecidableEq, Repr

/-- A state table entry of 32 bytes: 0 address, 8 size, 16 format, 17 class, 18 code. -/
def tensorOf (bs : List Byte) : Tensor :=
  { addr := fieldAt bs 0 8, size := fieldAt bs 8 8, format := fieldAt bs 16 1, cls := fieldAt bs 17 1, code := fieldAt bs 18 1 }

def tensorBytes (t : Tensor) : List Byte :=
  toLe 8 t.addr ++ toLe 8 t.size ++ toLe 1 t.format ++ toLe 1 t.cls ++ toLe 1 t.code ++ List.replicate 13 0

/-- A table's tensors, up to the first entry of size 0. -/
def tensorsFrom (entry : Nat → List Byte) : Nat → Nat → List Tensor
  | _, 0 => []
  | i, n + 1 =>
    let t := tensorOf (entry i)
    if t.size = 0 then [] else t :: tensorsFrom entry (i + 1) n

/-- The tensors of a state table in memory, with the codes the policy gives their classes. -/
def tableTensors (s : State) (part table : Nat) : List Tensor :=
  (tensorsFrom (fun i => readGlobal s (table + 32 * i) 32) 0 4096).map fun t =>
    { t with code := (((partOf s part).ckpt.codes)[t.cls]?).getD 0 }

/-! Narrowing (R384) -/

/-- MX format of a code: E4M3 or E5M2. -/
def mxOfCode (code : Nat) : Nat := if code = 2 then 5 else 6

/-- Bytes a tensor is stored as. -/
def storedSize (t : Tensor) : Nat :=
  match t.code with
  | 0 => t.size
  | 1 => t.size / 2
  | 2 => t.size / 4 + (t.size / 4 + 31) / 32
  | 3 => t.size / 4 + (t.size / 4 + 31) / 32
  | _ => 0

/-- The scale byte of block b of 32 elements. -/
def blockScaleOf (fmt : Nat) (xs : List Lane) (b : Nat) : Nat := mxScale fmt (((xs.drop (32 * b)).take 32).map val32)

/-- FP32 elements narrowed: in an MX format the elements, then the scale bytes. -/
def narrow (code : Nat) (bs : List Byte) : List Byte :=
  let xs := bytesLanes bs
  match code with
  | 0 => bs
  | 1 => xs.flatMap fun x => toLe 2 (roundBf16 (val32 x))
  | 2 | 3 =>
    let fmt := mxOfCode code
    xs.zipIdx.flatMap (fun e => toLe 1 (mxElem fmt (blockScaleOf fmt xs (e.2 / 32)) .rne (val32 e.1))) ++
      (List.range ((xs.length + 31) / 32)).flatMap fun b => toLe 1 (blockScaleOf fmt xs b)
  | _ => []

/-- Stored bytes widened back to FP32. -/
def widen (t : Tensor) (bs : List Byte) : List Byte :=
  let n := t.size / 4
  match t.code with
  | 1 => (List.range n).flatMap fun i => toLe 4 (fieldAt bs (2 * i) 2 * 65536)
  | 2 | 3 =>
    (List.range n).flatMap fun i =>
      toLe 4 (round32 (scaleElem (fieldAt bs (n + i / 32) 1) (decodeElem (mxOfCode t.code) (fieldAt bs i 1)))).toNat
  | _ => bs

/-! The record (R383) -/

def recordSize : Nat := 0x40000

/-- Where tensors start in a half: after the record, each on a 4 KiB boundary. -/
def tensorStarts : List Tensor → Nat → List (Tensor × Nat)
  | [], _ => []
  | t :: ts, off => (t, off) :: tensorStarts ts ((off + storedSize t + 0xFFF) / 0x1000 * 0x1000)

/-- Bytes of a whole copy. -/
def copyBytes (ts : List Tensor) : Nat := (tensorStarts ts recordSize).foldl (fun m e => max m (e.2 + storedSize e.1)) recordSize

/-- The 4 KiB head: 0 epoch, 4 tensors, 8 signature, 16 module, 20 COMPLETE. -/
def headBytes (epoch n module : Nat) (signature : Word) : List Byte :=
  toLe 4 epoch ++ toLe 4 n ++ toLe 8 signature.toNat ++ toLe 4 module ++ toLe 4 1 ++ List.replicate 4072 0

/-- The epoch of a half whose copy is COMPLETE. -/
def headEpoch (bs : List Byte) : Option Nat := if fieldAt bs 20 4 % 2 = 1 then some (fieldAt bs 0 4) else none

/-- The older of two halves: one without a COMPLETE copy first. -/
def olderHalf (es : List (Option Nat)) : Nat :=
  match (es[0]?).getD none, (es[1]?).getD none with
  | none, _ => 0
  | some _, none => 1
  | some a, some b => if b < a then 1 else 0

/-- The stored tensors, each from a 4 KiB boundary. -/
def storedTensors (s : State) (ts : List Tensor) : List (List Byte) := ts.map fun t => narrow t.code (readGlobal s t.addr t.size)

/-- A half's bytes from offset 4 KiB on (R383): the state table, the CRCs, zeros up to 256 KiB, and the tensors, each but the last filled
up to the next 4 KiB boundary. -/
def copyImage (ts : List Tensor) (stored : List (List Byte)) : List Byte :=
  padTo 0x20000 (ts.flatMap tensorBytes) ++ padTo 0x1F000 (stored.flatMap fun bs => toLe 8 (crc64 bs)) ++
    (stored.dropLast.flatMap (fun bs => padTo ((bs.length + 0xFFF) / 0x1000 * 0x1000) bs) ++ stored.getLastD [])

/-! CKPT_BUDDY (R385) -/

/-- Is a table's narrowing allowed: only FP32 tensors are narrowed (R384)? -/
def narrowingOk (ts : List Tensor) : Bool := ts.all fun t => t.code == 0 || t.code == 4 || (t.format == 0 && t.size % 4 == 0)

/-- The refusals of a copy, in order. -/
def copyCheck (s : State) (part epoch table : Nat) (found : BuddyFound) : Option (Status × Nat) :=
  match checkList s part table 32 1 with
  | some e => some e
  | none =>
    let ts := tableTensors s part table
    if !narrowingOk ts then some (.badLength, 0xC)
    else if !found.route then some (.buddyUnavailable, 1)
    else if !found.answers then some (.buddyUnavailable, 5)
    else if !found.partner then some (.buddyUnavailable, 2)
    else if found.halfBytes < copyBytes ts then some (.buddyUnavailable, 4)
    else if found.epochs.any (fun e => match e with | some x => decide (epoch ≤ x) | none => false) then some (.badLength, 0xA)
    else
      firstOf (ts.map fun t => checkList s part t.addr t.size 1)

/-- Starts a copy into the buddy's older half by DMA (R158, R385), or refuses it: the half from the state table on, then, once all of it is
acknowledged, the head with COMPLETE set. -/
def runCopy (c : Option Cmd) (part epoch buddy table : Nat) (signature : Word) (found : BuddyFound) (s : State) : State :=
  match copyCheck s part epoch table found with
  | some e => match c with | some c => finish c (ans e.1 e.2) s | none => s
  | none =>
    let a := buddy * 2 ^ 47 + found.base + olderHalf found.epochs * found.halfBytes
    let ts := tableTensors s part table
    startBuddy c part (a + 0x1000) (copyImage ts (storedTensors s ts)) (some (a, headBytes epoch ts.length (ownModule s) signature)) s

def modCkpt (part : Nat) (f : Ckpt → Ckpt) (s : State) : State := modPart part (fun p => { p with ckpt := f p.ckpt }) s

/-- CKPT_BUDDY. -/
def execCkptBuddy (c : Cmd) (epoch buddy table : Nat) (signature : BitVec 64) (found : BuddyFound) (s : State) : Result :=
  .next (runCopy (some c) c.part epoch buddy table signature found
    (modCkpt c.part (fun k => { k with last := some (c, epoch, buddy, table, signature), lastTime := s.time.now }) s))

/-- FOG_BUDDY_COPY (R386): after a fog warning and the next optimizer step, a copy with the last parameters and the next epoch; or
an INFO entry where none is taken. -/
def execFogBuddyCopy (part : Nat) (found : BuddyFound) (s : State) : Result :=
  let k := (partOf s part).ckpt
  let clear := modCkpt part fun k => { k with fogWaiting := false, holding := false }
  if !k.fogWaiting then .next s
  else
    match k.last with
    | none => .next (clear (note 0x0704 (fun e => { e with part := part, source := 0x0410, arg := BitVec.ofNat 64 part }) s))
    | some (c, epoch, buddy, table, signature) =>
      if !k.holding then .next s
      else if s.time.now.toNat < k.lastTime.toNat + k.minInterval * 1000000 then
        .next (clear (note 0x0704 (fun e => { e with part := part, source := 0x0410, arg := BitVec.ofNat 64 part }) s))
      else
        .next (modCkpt part (fun k => { k with
            fogWaiting := false, holding := false, last := some (c, epoch + 1, buddy, table, signature), lastTime := s.time.now })
          (runCopy none part (epoch + 1) buddy table signature found s))

/-! CKPT_POLICY (R384) -/

/-- Are the eight narrowing codes allowed? -/
def policyOk (codes : List Nat) : Bool :=
  let code := fun (k : Nat) => (codes[k]?).getD 0
  codes.all (· ≤ 4) && code 0 == 0 && code 4 == 0 && code 1 != 4 && code 2 != 4

/-- CKPT_POLICY. -/
def execCkptPolicy (c : Cmd) (codes : List Nat) (onFog : Bool) (minInterval : Nat) (s : State) : Result :=
  if !policyOk codes then done c (ans .badLength 0xC) s
  else done c (ans .ok) (modCkpt c.part (fun k => { k with codes := codes, onFog := onFog, minInterval := minInterval }) s)

/-! CKPT_RESTORE (R387) -/

/-- A half of this module's own buddy area whose COMPLETE copy has an epoch: its local address. -/
def ownHalfAt (s : State) (epoch : Nat) : Option Nat :=
  (List.range 2).findSome? fun h =>
    let a := s.pkg.buddyBase.toNat + h * (s.pkg.buddySize * 2 ^ 30 / 2)
    if headEpoch (mreadN a 32 s.mem.hbm) = some epoch then some a else none

/-- Reads of the copy a restore uses: none where there is no COMPLETE one. -/
def restoreSource (s : State) (source epoch : Nat) (copy : Option (List Byte)) : Option (Nat → Nat → List Byte) :=
  if source = ownModule s then (ownHalfAt s epoch).map fun a => fun off n => mreadN (a + off) n s.mem.hbm
  else copy.map fun bs => fun off n => bytesAt bs off n

/-- Do two tables agree in sizes and classes? -/
def sameTable (a b : List Tensor) : Bool := a.map (fun t => (t.size, t.cls)) == b.map fun t => (t.size, t.cls)

/-- Restores tensors in order: written, then checked; a mismatch ends the restore (R387 step 3). -/
def restoreTensors (read : Nat → Nat → List Byte) : List (Tensor × Nat) → Nat → State → Bool × State
  | [], _, s => (true, s)
  | (t, off) :: ts, i, s =>
    if t.code = 4 then restoreTensors read ts (i + 1) s
    else
      let bs := read off (storedSize t)
      let s1 := writeGlobal t.addr (if t.code = 0 then bs else widen t bs) s
      if crc64 bs = fieldAt (read (0x21000 + 8 * i) 8) 0 8 then restoreTensors read ts (i + 1) s1 else (false, s1)

/-- Writes a working copy converted from n restored master weights, MX blocks under their scales (R55, R56, R273). -/
def rebuildCopy (c : Cmd) (fmt dst n : Nat) (ws : List Lane) (s : State) : State :=
  let h : ComputeHead := { plan := 0, template := 0, sat := false, sr := false, srCounter := false, axisA := false, axisB := false }
  let t := (writeRows (outJob c (copyTemplate fmt n) h n 0 0) dst [(0, ws.map outVal)] s).1
  { s with mem := t.mem, out := t.out }

/-- Rebuilds the omitted working copies from the restored master weights, in table order (R384, R273). -/
def rebuildCopies (c : Cmd) (ts : List Tensor) (s : State) : State :=
  let weights := ts.filter (·.cls == 0)
  ((ts.filter (·.cls == 3)).zip weights).foldl (fun s e =>
    let n := e.2.size / 4
    if e.1.code = 4 then rebuildCopy c e.1.format e.1.addr n (readLanes s e.2.addr n) s else s) s

/-- CKPT_RESTORE. -/
def execCkptRestore (c : Cmd) (epoch source table : Nat) (signature : BitVec 64) (copy : Option (List Byte)) (s : State) : Result :=
  match checkList s c.part table 32 1, restoreSource s source epoch copy with
  | some e, _ => done c (ans e.1 e.2) s
  | none, none => done c (ans .buddyUnavailable 6) s
  | none, some read =>
    let n := fieldAt (read 4 4) 0 4
    let stored := tensorsFrom (fun i => read (0x1000 + 32 * i) 32) 0 (min n 4096)
    let wanted := tableTensors s c.part table
    if fieldAt (read 8 8) 0 8 ≠ signature.toNat ∨ !sameTable stored wanted then done c (ans .shapeMismatch) s
    else
      match firstOf (wanted.map fun t => checkOperand s c.part t.addr t.size 1) with
      | some e => done c (ans e.1 e.2) s
      | none =>
        let ts := (stored.zip wanted).map fun e => { e.1 with addr := e.2.addr, format := e.2.format }
        let r := restoreTensors read (tensorStarts ts recordSize) 0 s
        if r.1 then done c (ans .ok) (rebuildCopies c ts r.2) else done c (ans .buddyUnavailable 3) r.2

end Sys2Proof.Machine
end

