-- ==== Sys2Proof/Machine/Dma.lean ====
section
/-! DEFINITION. The meanings of the DMA commands, of the packets they send, and of the answers that return (R156 to R161,
R316, R318, R430, R431). -/

namespace Sys2Proof.Machine

/-- Runs a DMA command past its own first checks (R157, R431): a zero length completes at once; a failing check decides
the reply and nothing moves; otherwise the transfer joins its channel. -/
def runDma (c : Cmd) (d : DmaParams) (op : DmaOp) (len : Nat) (zero : Bool) (list : Check) (s : State) : State :=
  let none64 := words64 0 ++ words64 (2 ^ 64 - 1)
  if zero then finish c { status := .ok, words := none64 } s
  else
    match firstOf [checkStarts s c.part d.src d.dst op, list, checkExtents s c.part d.src d.dst len op] with
    | some e => finish c { status := e.1, detail := e.2, words := none64 } s
    | none =>
      match pickChannel s d.region d.channel with
      | none => finish c { status := .unitDark, words := none64 } s
      | some k =>
        startTransfer d.region k
          { purpose := .command c, part := c.part, op := op, src := d.src, dst := d.dst, length := len, clsSrc := d.classSrc
            clsDst := d.classDst, serial := 0 } s

/-- DMA_COPY (R431). -/
def execDmaCopy (c : Cmd) (d : DmaParams) (s : State) : Result :=
  .next (runDma c d .copy d.length (d.length == 0) none s)

/-- DMA_FILL (R431). -/
def execDmaFill (c : Cmd) (pattern : BitVec 64) (d : DmaParams) (s : State) : Result :=
  .next (runDma c d (.fill pattern) d.length (d.length == 0) none s)

/-- The checks GATHER and SCATTER share before R157's (R156, R434): ESIZE and COUNT in range, then LENGTH equal to their
product modulo 2^40. -/
def indexPre (d : DmaParams) (esize count : Nat) : Check :=
  if esize = 0 ∨ 65536 < esize ∨ 16777216 < count then some (.badLength, 0xE)
  else if d.length ≠ count * esize % 2 ^ 40 then some (.badLength, 4)
  else none

/-- DMA_GATHER (R156, R431). -/
def execDmaGather (c : Cmd) (d : DmaParams) (index esize count : Nat) (s : State) : Result :=
  match indexPre d esize count with
  | some e => done c { status := e.1, detail := e.2, words := words64 0 ++ words64 (2 ^ 64 - 1) } s
  | none =>
    .next (runDma c d (.gather (readIndices s index count) esize) (count * esize) (count == 0)
      (checkList s c.part index (count * 4) 0x10) s)

/-- DMA_SCATTER (R156, R431). -/
def execDmaScatter (c : Cmd) (d : DmaParams) (index esize count : Nat) (s : State) : Result :=
  match indexPre d esize count with
  | some e => done c { status := e.1, detail := e.2, words := words64 0 ++ words64 (2 ^ 64 - 1) } s
  | none =>
    .next (runDma c d (.scatter (readIndices s index count) esize) (count * esize) (count == 0)
      (checkList s c.part index (count * 4) 0x10) s)

/-- DMA_PAGE_WALK (R159, R240, R431). -/
def execDmaPageWalk (c : Cmd) (d : DmaParams) (srcPaged dstPaged : Bool) (srcList dstList srcEntries dstEntries : Nat)
    (s : State) : Result :=
  .next (runDma c d (.pageWalk srcPaged dstPaged srcList dstList srcEntries dstEntries) d.length (d.length == 0) none s)

/-- A channel issues its next packet (R158, R161). -/
def execDmaPacketIssue (region channel : Nat) (s : State) : Result :=
  if region < 8 ∧ channel < 16 then .next (issueNext region channel s) else .fault .noSuchUnit

/-- A packet neither acknowledged nor refused within 10 ms of its issue ends its transfer (R161); seq is its offset. -/
def execDmaPacketTimeout (region channel seq : Nat) (s : State) : Result :=
  if region < 8 ∧ channel < 16 then
    match (channelOf s region channel).transfers with
    | [] => .next s
    | t :: _ =>
      match t.out.find? fun e => e.2.1 == seq with
      | none => .next s
      | some e =>
        .next (settleTransfer region channel
          (modRunning region channel (fun t => failAt e.2.1 .timeout 0 { t with out := t.out.erase e, reads := t.reads.erase e.2.1 }) s))
  else .fault .noSuchUnit

/-- A write packet reaches its destination (R160, R187, R430). -/
def execWrite (w : WriteIn) (s : State) : Result :=
  if fenced s w.packet then .next (darkDrop w.packet s) else .next (writeArrives w.packet w.badLine s)

/-- A read request reaches its target (R316). -/
def execReadReq (p : Pkt) (s : State) : Result :=
  if fenced s p then .next (darkDrop p s) else .next (readArrives p s)

/-- A core's outstanding load at an address. -/
def takeLoad (core addr : Nat) (s : State) : Option (Nat × Nat × Nat) :=
  (coreOf s core).loads.find? fun l => l.2.1 % 2 ^ 47 == addr

/-- Completes a core's load. -/
def completeLoad (core : Nat) (l : Nat × Nat × Nat) (v : Nat) (bad : Bool) (s : State) : State :=
  setScalar core l.1 (BitVec.ofNat 64 v)
    (modCore core (fun c => { c with loads := c.loads.erase l, loadError := c.loadError || bad }) s)

/-- Read data return (R316): to a core's register, or on to the destination of the transfer that asked; poisoned data end
a transfer (R161) and leave a load's register zero. -/
def execReadData (p : Pkt) (poisoned : Bool) (s : State) : Result :=
  if p.dstUnit < 864 then
    match takeLoad p.dstUnit p.arg.toNat s with
    | some l => .next (completeLoad p.dstUnit l (if poisoned then 0 else leNat (p.data.take l.2.2)) poisoned s)
    | none => .next s
  else if isChannel p.dstUnit then
    let k := channelOfUnit p.dstUnit
    match answered s k.1 k.2 p with
    | some (t, 0) =>
      match t.out.find? fun e => e.2.1 == argCount p && t.reads.contains e.2.1 with
      | none => .next (dropAnswer k.1 k.2 s)
      | some e =>
        let s1 := modRunning k.1 k.2 (fun t => { t with reads := t.reads.erase e.2.1 }) s
        if poisoned then
          .next (settleTransfer k.1 k.2 (modRunning k.1 k.2 (fun t => failAt e.2.1 .poisoned 0 { t with out := t.out.erase e }) s1))
        else .next (sendBytes k.1 k.2 t e.1 e.2.1 p.data s1)
    | _ => .next (dropAnswer k.1 k.2 s)
  else .next s

/-- The answer to a lock operation this module awaits: its command or unit is answered, and a lock granted enters the
job's record (R172, R316, R351). ST_OWNER_LOST grants the lock where the answered owner is the acquirer, and not where a sweep released
a blocked one (R181). -/
def remoteAnswer (p : Pkt) (s : State) : State :=
  match s.remoteOps.find? fun o => o.module == p.src && (issuerId s o.who).unit == p.dstUnit with
  | none => s
  | some o =>
    let st := statusOf (p.status % 2 ^ 16)
    let s1 := { s with remoteOps := s.remoteOps.erase o }
    let taken := st == .ok || (st == .ownerLost && fieldAt p.data 0 8 == (lockValue (issuerId s o.who)).toNat)
    let s2 := if taken && o.acquire then recordLock o.who o.module o.handle s1
      else if st == .ok then unrecordLock o.who o.module o.handle s1
      else s1
    answer o.handle { who := o.who, status := st, detail := p.status / 2 ^ 16
                      value := BitVec.ofNat 64 (fieldAt p.data 0 8), word := BitVec.ofNat 64 (fieldAt p.data 8 8) } s2

/-- A unit is released with the status a packet carries. -/
def releaseBy (p : Pkt) (s : State) : State :=
  modOut (fun o => { o with releases := o.releases ++
    [{ unit := unitId s p.dstUnit, status := statusOf (p.status % 2 ^ 16), detail := p.status / 2 ^ 16 }] }) s

/-- A queue's engine answers a remote producer (R208, R210, R213): a refused open or push gives its credit back. -/
def queueAnswer (p : Pkt) (s : State) : State :=
  let q := fieldAt p.data 0 2
  let op := p.arg2.toNat / 2 ^ 16 % 2 ^ 8
  let ep := p.arg.toNat
  releaseBy p (if op = 2 then closeAnswered p.src q ep s else restoreCredit p.src q ep op (BitVec.ofNat 8 (fieldAt p.data 2 1)) s)

/-- Does an answer come from a queue's engine? -/
def fromQueue (p : Pkt) : Bool := p.data.length == 3

/-- An acknowledgement returns (R158, R161, R213): to a DMA channel, to the producer of a remote queue, or to a unit that awaits a remote
lock operation. -/
def execAck (p : Pkt) (s : State) : Result :=
  if isChannel p.dstUnit then .next (ackChannel p s)
  else if fromQueue p then .next (queueAnswer p s)
  else .next (remoteAnswer p s)

/-- A refusal returns (R161, R162): to a DMA channel; to a unit that awaits a remote lock operation; from a queue, to a producer
(R213; log entry 24); or to a core, whose outstanding load reads zero with a core error (R152) or whose posted-error record takes it. -/
def execRefusal (p : Pkt) (s : State) : Result :=
  if isChannel p.dstUnit then .next (refuseChannel p s)
  else if s.remoteOps.any fun o => o.module == p.src && (issuerId s o.who).unit == p.dstUnit then .next (remoteAnswer p s)
  else if fromQueue p then .next (queueAnswer p s)
  else if p.dstUnit < 864 then
    match takeLoad p.dstUnit p.arg.toNat s with
    | some l => .next (completeLoad p.dstUnit l 0 true s)
    | none => .next (postError p.dstUnit (p.src * 2 ^ 47 + p.arg.toNat) (refusalStatus p).1 s)
  else .next s

/-- A remote range check on this module's map (R157 check 5): checks 2 and 3, answered on P2. -/
def execRangeCheck (p : Pkt) (length : Nat) (s : State) : Result :=
  match checkOperand s p.part (ownModule s * 2 ^ 47 + p.arg.toNat) length p.status with
  | none => .next (send (replyTo s p .ack 0) s)
  | some e => .next (send (replyTo s p .refusal (statusCode e.1 + e.2 * 2 ^ 16)) s)

end Sys2Proof.Machine
end

