-- ==== Sys2Proof/Machine/Plans.lean ====
section
/-! DEFINITION. LOAD_PLAN and UNLOAD_PLAN (R46, R48, R49, R98, R110, R113 to R116, R119, R124, R127, R129,
R132, R134, R137 to R140, R350). -/

namespace Sys2Proof.Machine

/-- A section of an image: its type, offset and size (R138). -/
structure PlanSection where
  type : Nat
  offset : Nat
  size : Nat
  deriving DecidableEq, Repr

/-- The section table of an image. -/
def sectionsOf (img : List Byte) : List PlanSection :=
  (List.range (fieldAt img 16 4)).map fun i =>
    let o := fieldAt img (64 + 16 * i + 8) 8
    { type := fieldAt img (64 + 16 * i) 4, offset := o, size := fieldAt img o 8 }

/-- The image with its CHECKSUM field read as 0 (R138). -/
def withoutChecksum (img : List Byte) : List Byte := img.take 20 ++ [0, 0, 0, 0] ++ img.drop 24

/-- Check 0x01 of R139. A Birzu older than MIN_FW_VERSION does not run the image (log entry 39). -/
def headerOk (img : List Byte) (size running : Nat) : Bool :=
  let within := fun (lo hi n : Nat) => decide (lo ≤ n) && decide (n ≤ hi)
  decide (64 ≤ img.length) && fieldAt img 0 4 == 0x5A524942 && fieldAt img 4 2 == 1 && [8, 4].contains (fieldAt img 6 2) &&
    fieldAt img 8 8 == size && within 1 64 (fieldAt img 16 4) && fieldAt img 20 4 == crc32c (withoutChecksum img) &&
    decide (fieldAt img 24 4 ≤ running) && within 1 800 (fieldAt img 28 2) && fieldAt img 30 2 / 2 == 0 &&
    within 400 1350 (fieldAt img 32 4) && within 1 65535 (fieldAt img 36 4) && (bytesAt img 48 16).all (· == 0)

/-- Is a section in bounds, aligned and of a known type (check 0x02)? -/
def sectionOk (size count : Nat) (x : PlanSection) : Bool :=
  decide (1 ≤ x.type ∧ x.type ≤ 9) && x.offset % 64 == 0 && decide (64 + 16 * count ≤ x.offset ∧ 8 ≤ x.size ∧ x.offset + x.size ≤ size)

/-- Does a section share bytes or its type with an earlier one? -/
def sectionClash (earlier : List PlanSection) (x : PlanSection) : Bool :=
  earlier.any fun y => y.type == x.type || (decide (y.offset < x.offset + x.size) && decide (x.offset < y.offset + y.size))

/-- The first section that fails check 0x02. -/
def badSection (size : Nat) (xs : List PlanSection) : Option Nat :=
  (List.range xs.length).find? fun i =>
    match xs[i]? with
    | some x => !sectionOk size xs.length x || sectionClash (xs.take i) x
    | none => false

/-- The index of the section of a type, or 0xFF. -/
def sectionIndex (xs : List PlanSection) (type : Nat) : Nat :=
  match xs.findIdx? fun x => x.type == type with
  | some i => i
  | none => 0xFF

/-- Do a cheap point's ranges stay within their memories (R350)? -/
def cheapOk (p : CheapPoint) : Bool :=
  p.ranges.all fun r => decide ((r.2.2.1 + r.2.2.2) * 64 ≤ (if r.2.1 = 0 then paletteBytes else accBytes))

/-- Is a template one of GEMM, GEMM_BATCHED_PTR or CONV (R134)? -/
def isMatrixTemplate (t : Template) : Bool := t.isMatrix || t.isConv

/-- Is a candidate's tile legal at the largest buckets (check 0x07)? It is taken in the mode, and with the C and the bias, its template
declares for its commands (log entry 39). -/
def candidateLegal (t : Template) (c : Candidate) : Bool :=
  let bm := maxOf t.bucketsM
  let bn := maxOf t.bucketsN
  let bk := maxOf t.bucketsK
  let kc := min (chunkSize bk c.gk) bk
  let head : ComputeHead := { plan := 0, template := 0, sat := false, sr := false, srCounter := false, axisA := false, axisB := false }
  let d := baseDesc 0 t head (if t.shape = .auto then c.shape else t.shape) 0 0 0 0 0 0 t.exact (bn == 1 && bm != 1) t.beta t.bias
  legalTile { d with
    mt := min c.mt (min (partSize bm c.gm) bm), nt := min c.nt (min (partSize bn c.gn) bn), kt := min c.kt kc, lastK := decide (kc ≤ c.kt)
    chunks := if c.gk = 1 then 1 else ceilDiv bk kc, accContinue := decide (c.kt < kc) }

/-- The bucket combinations a template has lists for: of its own sizes, or of the plan's key/value lengths (R116, R134, R250). -/
def comboCount (b : PlanBody) (t : Template) : Nat :=
  if isMatrixTemplate t then t.bucketsM.length * t.bucketsN.length * t.bucketsK.length
  else if t.isAttn then b.kvBuckets.length else t.records.length

/-- Check 0x08 against the partition's layout: every bucket combination has a candidate whose grid fits. -/
def gridsOk (ls : List Nat) (b : PlanBody) : Bool :=
  b.templates.all fun t => (List.range (comboCount b t)).all fun i => (candidatesAt t i).any fun c => gridFits c ls

/-- The logical numbers a partition holds in a region, vacant ones included (R124, R368). -/
def heldIn (s : State) (part region : Nat) : Nat :=
  (s.units.home.filter fun e => e.1 / 100 == region && partOfBlock s e.2 == some part).length

/-- Do the multicast groups name members a region's count of logical numbers has (check 0x09)? -/
def masksOk (held : Nat → Nat) (b : PlanBody) : Bool :=
  b.multicast.all (fun g => decide (g.1 < 8) && decide (g.2.1 < 64) && g.2.2 != 0 && decide (g.2.2.toNat < 2 ^ min 100 (held g.1))) &&
    (List.range 8).all fun r => decide ((b.multicast.filter fun g => g.1 == r).length ≤ 64)

/-- Are a candidate's groups consecutive within 0 to 63 (R116)? -/
def mcastOk (c : Candidate) : Bool :=
  if c.mcastFirst = 0xFFFF then c.mcastCount == 0
  else decide (c.mcastFirst ≤ 63 ∧ 1 ≤ c.mcastCount ∧ c.mcastCount ≤ 64 ∧ c.mcastFirst + c.mcastCount ≤ 64)

/-- The templates of matrix commands with each of their candidates. -/
def matrixCandidates (b : PlanBody) : List (Template × Candidate) :=
  (b.templates.filter isMatrixTemplate).flatMap fun t => (candidates t).flatten.map fun c => (t, c)

/-- The first check of a list (passed, code, section index) that failed. -/
def firstFailed (xs : List (Bool × Nat × Nat)) : Option (Nat × Nat) := (xs.find? fun x => !x.1).map (·.2)

/-- Checks 0x01 and 0x02: the header and the section table. -/
def tableCheck (s : State) (img : List Byte) (size : Nat) (b : PlanBody) : Option (Nat × Nat) :=
  let xs := sectionsOf img
  if !headerOk img size s.keepers.runningVersion then some (1, 0xFF)
  else
    match badSection size xs with
    | some i => some (2, i)
    | none => firstFailed [(b.cheapPoints.all cheapOk, 2, sectionIndex xs 7)]

/-- The checks LOAD_PLAN repeats on its copy against the partition (R140), in order: the code and section index of the first that
fails. -/
def planCheck (s : State) (part : Nat) (img : List Byte) (size : Nat) (b : PlanBody) : Option (Nat × Nat) :=
  let at' := sectionIndex (sectionsOf img)
  match tableCheck s img size b with
  | some e => some e
  | none =>
    firstFailed [
      (b.templates.all (fun t => t.records.all recordsOk) && (matrixCandidates b).all (fun e => candidateLegal e.1 e.2), 7, at' 3),
      (decide (fieldAt img 28 2 ≤ (logicalsOf s part).length), 8, 0xFF),
      (gridsOk (logicalsOf s part) b, 8, at' 3),
      (b.templates.all (fun t => (candidates t).all fun cs => cs.all mcastOk), 9, at' 3),
      (masksOk (heldIn s part) b, 9, at' 6)]

/-! The loader's own verification (R139; log entry 39) -/

/-- Check 0x03: a buffer's placement is a multiple of its element size, or of 64 bytes for scales. -/
def bufferAligned (x : PlanBuffer) : Bool := x.offset % (if x.scales then 64 else max 1 (elemBits x.fmt / 8)) == 0

/-- Check 0x03: the buffers fit the partition's memory quota. -/
def buffersOk (s : State) (part : Nat) (b : PlanBody) : Bool :=
  b.buffers.all bufferAligned && decide ((b.buffers.map (·.size)).sum ≤ (partOf s part).quota.hbmMib * 0x100000)

/-- Check 0x04: format codes up to 0xC (R46), the canvases' pairings (R49), and the formats of C and the bias (R114). -/
def formatsOk (t : Template) : Bool :=
  [t.fmtA, t.fmtB, t.fmtOut, t.fmtC, t.fmtBias].all (fun x => decide (x ≤ 0xC)) &&
    (!(isMatrixTemplate t || t.isAttn) ||
      (decide (1 ≤ t.fmtA ∧ t.fmtA ≤ 0xB ∧ 1 ≤ t.fmtB ∧ t.fmtB ≤ 0xB) && isIntFmt t.fmtA == isIntFmt t.fmtB)) &&
    (!isMatrixTemplate t || ([0, 1, 2, 3, 4, 0xA].contains t.fmtC && decide (t.fmtBias ≤ 2)))

/-- Check 0x04 over the buffers and the programs of an image (R46). -/
def codesOk (b : PlanBody) : Bool := b.buffers.all (fun x => decide (x.fmt ≤ 0xC)) && b.programs.all fun p => p.all fun x => decide (x ≤ 0xC)

/-- Check 0x05: an MX operand is contracted along its blocks (R48), and an MX input's channels come in whole blocks (R98). Attention
contracts its values along the keys, across the blocks an MX key/value format has along the head. -/
def blocksOk (t : Template) : Bool :=
  (!(isMatrixTemplate t || t.isAttn) || t.blocksAlongK || !(isMx t.fmtA || isMx t.fmtB)) && (!t.isAttn || !isMx t.fmtB) &&
    (!(t.isConv && isMx t.fmtA) || t.bucketsC.all fun c => c % 32 == 0)

/-- Check 0x06: one to eight ascending nonzero sizes. -/
def bucketListOk (bs : List Nat) : Bool :=
  decide (1 ≤ bs.length ∧ bs.length ≤ 8) && bs.all (0 < ·) && (bs.zip (bs.drop 1)).all fun e => decide (e.1 < e.2)

/-- Check 0x06: a matrix template states M, N and K, and a CONV template its C (R134). -/
def bucketsOk (t : Template) : Bool :=
  !isMatrixTemplate t || ([t.bucketsM, t.bucketsN, t.bucketsK].all bucketListOk && (!t.isConv || bucketListOk t.bucketsC))

/-- Check 0x0A: PAD is 0 for an MX operand (R129). -/
def padsOk (t : Template) : Bool := (!isMx t.fmtA || t.padA == 0) && (!isMx t.fmtB || t.padB == 0)

/-- Check 0x0D: under ROW_STABLE the candidates of one N and K bucket agree in KT, GK and SHAPE (R137). -/
def rowStableOk (t : Template) : Bool :=
  let nk := t.bucketsN.length * t.bucketsK.length
  (List.range nk).all fun j =>
    let cs := ((List.range t.bucketsM.length).map fun i => candidatesAt t (i * nk + j)).flatten
    cs.all fun c => (cs.head?.map fun d => c.kt == d.kt && c.gk == d.gk && c.shape == d.shape).getD true

/-- Check 0x0E: HALO stands on a CONV of a K4_COMPAT image that states KH and DH, at most 48 rows deep, and its neighbours share a
region (R127). -/
def haloOk (target : Nat) (ls : List Nat) (e : Template × Candidate) : Bool :=
  let groups := gridOf e.2 ls
  let region := fun (i : Nat) => ((groups[i]?).bind (·.head?)).map (· / 100)
  !e.2.halo ||
    (target == 4 && e.1.isConv && (match e.1.staticKH, e.1.staticDH with
      | some kh, some dh => decide (dh * (kh - 1) ≤ 48)
      | _, _ => false) &&
      (List.range ((e.2.gm - 1) * e.2.gn)).all fun i => region i == region (i + e.2.gn))

/-- The loader's verification (R139), in order, on CORES_REQUIRED cores filled 100 a region: the code and section index of the first
check that fails. -/
def loaderCheck (s : State) (part : Nat) (img : List Byte) (size : Nat) (b : PlanBody) : Option (Nat × Nat) :=
  let at' := sectionIndex (sectionsOf img)
  let ls := List.range (fieldAt img 28 2)
  let cs := matrixCandidates b
  match tableCheck s img size b with
  | some e => some e
  | none =>
    firstFailed [
      (buffersOk s part b, 3, at' 5),
      (b.templates.all formatsOk && codesOk b, 4, at' 2),
      (b.templates.all blocksOk, 5, at' 2),
      (b.templates.all bucketsOk, 6, at' 4),
      (b.templates.all (fun t => t.records.all recordsOk) && cs.all (fun e => candidateLegal e.1 e.2), 7, at' 3),
      (b.templates.all (fun t => (candidates t).flatten.all fun c => gridFits c ls), 8, at' 3),
      (b.templates.all (fun t => (candidates t).all fun cs => cs.all mcastOk), 9, at' 3),
      (masksOk (fun _ => 100) b, 9, at' 6),
      (b.templates.all padsOk, 0xA, at' 2),
      (b.exactBounds.all (· ≤ 65536), 0xB, at' 2),
      (b.listCapacities.all (· ≤ 4096), 0xC, at' 2),
      (fieldAt img 30 2 % 2 == 0 || b.templates.all rowStableOk, 0xD, at' 3),
      (cs.all (haloOk (fieldAt img 6 2) ls), 0xE, at' 3)]

/-- The ranges of a partition's HBM Birzu has placed: its plans and its weight images (R140, R279). -/
def placedRanges (s : State) (part : Nat) : List (Nat × Nat) :=
  ((s.plans.filter fun e => e.2.part == part).map fun e => (e.2.addr, ceilDiv e.2.size 64 * 64)) ++
    (((partOf s part).gens.layers.flatMap fun e => [e.2.active, e.2.standby]).filter fun w => w.state != .empty).map fun w =>
      (w.addr, ceilDiv w.bytes 64 * 64)

/-- Bytes of the five save areas of a partition of so many cores (R345). -/
def saveBytes (cores : Nat) : Nat := 5 * (cores * 0x1B0000 + 0x100000)

/-- Bytes of a partition's allocation left beside its key/value pool, its save areas and what is placed (R140, R280, R344, R345). -/
def placeRoom (s : State) (part : Nat) : Nat :=
  let q := (partOf s part).quota
  (q.hbmMib - q.kvPoolMib) * 0x100000 - saveBytes (activeCores s part) - ((placedRanges s part).map (·.2)).sum

/-- Where Birzu puts bytes of its own in a partition's HBM: as high above the key/value pool as nothing else is placed (log
entry 21); none where no free range is long enough. -/
def placeFor (s : State) (part size : Nat) : Option Nat :=
  let p := partOf s part
  let n := ceilDiv size 64 * 64
  let low := p.hbmBase + p.quota.kvPoolMib * 0x100000
  let used := placedRanges s part
  let tops := hbmEnd p :: used.map (·.1)
  (tops.map fun t => t - n).find? fun a => decide (low ≤ a) && decide (a + n ≤ hbmEnd p) &&
    used.all fun u => decide (u.1 + u.2 ≤ a) || decide (a + n ≤ u.1)

/-- LOAD_PLAN: an image that passes the loader is copied, the copy checked, and a plan that passes gets an identifier. -/
def execLoadPlan (c : Cmd) (addr size : Nat) (body : PlanBody) (s : State) : Result :=
  match localRange s c.part addr size with
  | none => done c (ans .badLength 1) s
  | some r =>
    if readsPoison s r.1 r.2 size then done c (ans .poisoned) s
    else
      let img := readGlobal s addr size
      match loaderCheck s c.part img size body with
      | some e => done c (ans .planRejected (e.1 * 256 + e.2)) s
      | none =>
        match if placeRoom s c.part < size then none else placeFor s c.part size with
        | none => done c (ans .quota) s
        | some place =>
          let s1 := writeSpace .hbm place img s
          match planCheck s c.part img size body with
          | some e => done c (ans .planRejected (e.1 * 256 + e.2)) s1
          | none =>
            let p : Plan :=
              { part := c.part, addr := place, size := size, coresRequired := fieldAt img 28 2, rowStable := fieldAt img 30 2 % 2 == 1
                cclkNom := fieldAt img 32 4, hbmBwNom := fieldAt img 36 4, signature := BitVec.ofNat 64 (fieldAt img 40 8), body := body }
            done c { status := .ok, words := [BitVec.ofNat 32 s.nextPlan] } { s1 with nextPlan := s.nextPlan + 1, plans := tput s.nextPlan p s1.plans }

/-- Does a command of the plan run (R308)? -/
def planBusy (s : State) (id : Nat) : Bool :=
  s.jobs.any (fun e => e.2.plan == id) ||
    s.parts.any fun e => e.2.stage.run.isSome && ((e.2.stage.cfg.map fun g => g.plan) == some id)

/-- UNLOAD_PLAN. -/
def execUnloadPlan (c : Cmd) (plan : Nat) (s : State) : Result :=
  match tget plan s.plans with
  | none => done c (ans .planRejected 0x0F00) s
  | some p =>
    if p.part ≠ c.part then done c (ans .planRejected 0x0F00) s
    else if planBusy s plan then done c (ans .locked) s
    else done c (ans .ok) { s with plans := tdel plan s.plans }

end Sys2Proof.Machine
end

