-- ==== Sys2Proof/Machine/GenOps.lean ====
section
/-! DEFINITION. Weight generations' shared operations (R248, R278, R279, R284 to R288): a model's plan and layers, its generation,
and the repaint with the key/value policies. -/

namespace Sys2Proof.Machine

/-- The plan of a resident model: the model-th plan of the partition that holds layers, in the order of their identifiers (R238;
log entry 42). -/
def modelPlan (s : State) (part model : Nat) : Option Plan :=
  (((s.plans.filter fun e => e.2.part == part && e.2.body.layers != 0)[model]?)).map (·.2)

def modelLayers (s : State) (part model : Nat) : Nat :=
  match modelPlan s part model with
  | some p => p.body.layers
  | none => 0

def layerKey (model layer : Nat) : Nat := model * 65536 + layer

def layerAt (s : State) (part model layer : Nat) : Layer := tgetD (layerKey model layer) {} (partOf s part).gens.layers

def modGens (part : Nat) (f : Generations → Generations) (s : State) : State := modPart part (fun p => { p with gens := f p.gens }) s

def modLayer (part model layer : Nat) (f : Layer → Layer) (s : State) : State :=
  modGens part (fun g => { g with layers := tmod (layerKey model layer) {} f g.layers }) s

/-- The generations of a model's active layers; none where one has no ACTIVE slot (R285). -/
def activeGens (s : State) (part model : Nat) : Option (List (BitVec 16)) :=
  (List.range (modelLayers s part model)).mapM fun l =>
    let w := (layerAt s part model l).active
    if w.state = .active then some w.gen else none

/-- The oldest of some generations (R278). -/
def oldestGen (gs : List (BitVec 16)) : Option (BitVec 16) :=
  gs.foldl (fun o g => match o with | none => some g | some x => if genNewer x g then some g else some x) none

/-- The model generation (R286): that of its oldest active layer. -/
def modelGen (s : State) (part model : Nat) : Option (BitVec 16) := (activeGens s part model).bind oldestGen

/-- Do a model's active layers hold different generations? -/
def isMixed (s : State) (part model : Nat) : Bool :=
  match activeGens s part model with
  | some (g :: gs) => gs.any (· != g)
  | _ => false

/-- Does a batch step of the model run? -/
def stepRuns (s : State) (part model : Nat) : Bool :=
  match tget part s.serving.steps with
  | some b => b.model == model
  | none => false

/-- Is a generation of a model used by a step or a draining sequence (R279, R289)? -/
def genInUse (s : State) (part model : Nat) (g : BitVec 16) : Bool :=
  (match tget part s.serving.steps with | some b => b.model == model && b.gen == g | none => false) ||
    s.serving.seqs.any fun e => e.2.part == part && e.2.model == model && e.2.oldGen == some g

/-! Key/value policies (R287, R288) -/

/-- Switches a sequence to RECOMPUTE: it is in PREFILL until its committed positions are processed again; a swapped one starts at
its swap-in, and a shadow is refilled. -/
def recomputeSeq (q : Seq) : Seq :=
  match q.state with
  | .prefill | .decode => if q.length = 0 then { q with oldGen := none } else { q with state := .prefill, recompute := true, prefilled := 0, oldGen := none }
  | .swapped => if q.length = 0 then { q with oldGen := none } else { q with recompute := true, prefilled := 0, oldGen := none }
  | .shadow => { q with length := 0, prefilled := 0, oldGen := none }
  | _ => { q with oldGen := none }

/-- Is the oldest GEN_KV of a sequence 32,768 or more behind a generation (R288)? -/
def tooOld (g : BitVec 16) (q : Seq) : Bool := q.length != 0 && decide (32768 ≤ (g - q.oldestKv).toNat)

/-- The policy on one sequence at a flip from generation old to new. -/
def applyPolicy (policy : Nat) (old new : BitVec 16) (q : Seq) : Seq :=
  if tooOld new q then recomputeSeq q
  else if policy = 1 then recomputeSeq q
  else if policy = 2 then { q with oldGen := some (q.oldGen.getD old) }
  else q

/-- Applies the partition's policy to every live sequence of a model (R287). -/
def policyAtFlip (part model : Nat) (old : Option (BitVec 16)) (s : State) : State :=
  match old, modelGen s part model with
  | some o, some n =>
    if o = n then s
    else modServing (fun v => { v with seqs := v.seqs.map fun e =>
      if e.2.part == part && e.2.model == model then (e.1, applyPolicy (partOf s part).kvPolicy o n e.2) else e }) s
  | _, _ => s

/-! The repaint (R279, R284, R285) -/

/-- A layer whose COMPLETE slot becomes ACTIVE; a former active slot becomes PREVIOUS. -/
def flipLayer (l : Layer) : Layer :=
  { active := { l.standby with state := .active }
    standby := if l.active.state = .active then { l.active with state := .previous } else {}
    staging := none }

/-- Is a layer's standby slot COMPLETE with a generation? -/
def isComplete (s : State) (part model : Nat) (g : BitVec 16) (l : Nat) : Bool :=
  let w := (layerAt s part model l).standby
  w.state == .complete && w.gen == g

/-- Is a layer's standby slot COMPLETE with another generation? -/
def isOther (s : State) (part model : Nat) (g : BitVec 16) (l : Nat) : Bool :=
  let w := (layerAt s part model l).standby
  w.state == .complete && w.gen != g

/-- Flips layers of a model together, and applies the policy. -/
def flipLayers (part model : Nat) (ls : List Nat) (s : State) : State :=
  policyAtFlip part model (modelGen s part model) (ls.foldl (fun s l => modLayer part model l flipLayer s) s)

/-- The layers an ATOMIC flip flips together: every layer of the model (R284), or, while one has no ACTIVE slot, those it lists (R285; log entry
131). -/
def atomicLayers (s : State) (part : Nat) (f : FlipCmd) : List Nat :=
  if (activeGens s part f.model).isNone && !f.layers.isEmpty then f.layers else List.range (modelLayers s part f.model)

/-- What a boundary makes of one GEN_FLIP (R284): ATOMIC flips all of its layers or none, PER_LAYER each listed layer that
is COMPLETE; a flip with layers left waits on. -/
def flipOne (part : Nat) (s : State) (f : FlipCmd) : State :=
  let drop := modGens part (fun g => { g with flips := g.flips.filter (· != f) }) s
  let all := atomicLayers s part f
  if f.atomic then
    if all.any (isOther s part f.model f.gen) then finish f.cmd (ans .genMismatch 2) drop
    else if all.isEmpty || !all.all (isComplete s part f.model f.gen) then s
    else finish f.cmd (ans .ok) (flipLayers part f.model all drop)
  else
    let now := f.layers.filter (isComplete s part f.model f.gen)
    let left := f.layers.filter fun l => !now.contains l
    if left.isEmpty then finish f.cmd (ans .ok) (flipLayers part f.model now drop)
    else flipLayers part f.model now (modGens part (fun g => { g with flips := g.flips.map fun x => if x == f then { x with layers := left } else x }) s)

/-- A batch-step boundary of a model (R284): every waiting flip is tried, in order of arrival. -/
def boundary (part model : Nat) (s : State) : State :=
  if stepRuns s part model then s
  else ((partOf s part).gens.flips.filter fun f => f.model == model).foldl (flipOne part) s

/-! Retirement (R279, R289) -/

/-- Empties the PREVIOUS slots of a model that hold a generation. -/
def emptyPrevious (part model : Nat) (g : BitVec 16) (s : State) : State :=
  modGens part (fun x => { x with layers := x.layers.map fun e =>
    if e.1 / 65536 == model && e.2.standby.state == .previous && e.2.standby.gen == g then (e.1, { e.2 with standby := {} }) else e }) s

/-- Ends every GEN_RETIRE whose generation no step or draining sequence uses any more. -/
def tryRetires (part : Nat) (s : State) : State :=
  (partOf s part).gens.retires.foldl (fun s r =>
    if genInUse s part r.2.1 r.2.2 then s
    else finish r.1 (ans .ok) (emptyPrevious part r.2.1 r.2.2
      (modGens part (fun g => { g with retires := g.retires.filter (· != r) }) s))) s

end Sys2Proof.Machine
end

