-- ==== Sys2Proof/Machine/SeqOps.lean ====
section
/-! DEFINITION. The sequence table's shared operations (R233 to R245, R257, R258, R262): naming a sequence, its window's pages, the
prompt tree, client records and swapping. -/

namespace Sys2Proof.Machine

/-! Naming (R234) -/

/-- The entry a handle names: none for a stale reuse count, reserved bits or a free entry. -/
def seqRef (s : State) (h : BitVec 32) : Option (Nat × Seq) :=
  match tget (h.toNat % 0x4000) s.serving.seqs with
  | some q => if q.handle = h then some (h.toNat % 0x4000, q) else none
  | none => none

/-- Runs a command that names a sequence (R234). A shadow is Birzu's own: no command names it (log entry 47). -/
def onSeq (c : Cmd) (h : BitVec 32) (s : State) (f : Nat → Seq → State) : State :=
  match seqRef s h with
  | none => finish c (ans .badLength 6) s
  | some (i, q) =>
    if q.part ≠ c.part then finish c (ans .tenantViolation) (logTenant (.host c) q.part h s)
    else if q.state = .shadow then finish c (ans .badLength 6) s
    else f i q

/-- Is a sequence in its partition's running step (R249)? -/
def inStep (s : State) (q : Seq) (i : Nat) : Bool :=
  match tget q.part s.serving.steps with
  | some b => b.entries.any (·.seq == i)
  | none => false

/-- Holds a command until the running step commits (R249). -/
def holdUntilCommit (part : Nat) (h : Held) (s : State) : State :=
  modServing (fun v => { v with steps := tupd part (fun b => { b with held := b.held ++ [h] }) v.steps }) s

/-- Is a swap copy of a sequence in flight? -/
def swapping (s : State) (i : Nat) : Bool :=
  s.channels.any fun e => e.2.transfers.any fun t => match t.purpose with
    | .swapOut _ j => j == i
    | .swapIn _ j => j == i
    | _ => false

/-- The handle of an entry: its index, and its reuse count in bits [23:16]. -/
def seqHandle (s : State) (i : Nat) : BitVec 32 := BitVec.ofNat 32 (i + tgetD i 0 s.serving.reuse * 65536)

/-- A free entry, none where the table or the partition's quota is full (R233). -/
def freeSeqEntry (s : State) (part : Nat) : Option Nat :=
  if (partOf s part).quota.sequences ≤ s.serving.seqs.countP (·.2.part == part) then none
  else freeIndex (s.serving.seqs.map (·.1)) 0 16384

/-! Client records (R262) -/

def isClient (part client : Nat) (x : Client) : Bool := x.part == part && x.client == client

/-- Is there a record of a client, or room for one (R233, R262)? -/
def clientRoom (s : State) (part client : Nat) : Bool :=
  s.serving.clients.any (isClient part client) ||
    (decide (s.serving.clients.length < 4096) && decide (s.serving.clients.countP (·.part == part) < (partOf s part).quota.clients))

/-- Opens a client's record where it has none. -/
def openClient (part client : Nat) (s : State) : State :=
  if s.serving.clients.any (isClient part client) then s
  else modServing (fun v => { v with clients := v.clients ++ [{ part := part, client := client }] }) s

def modClient (part client : Nat) (f : Client → Client) (s : State) : State :=
  modServing (fun v => { v with clients := v.clients.map fun x => if isClient part client x then f x else x }) s

/-- Is a record clear, and without a live sequence? -/
def clientFree (v : Serving) (x : Client) : Bool :=
  x == { part := x.part, client := x.client } && !v.seqs.any fun e => e.2.part == x.part && e.2.client == x.client

/-- Frees the clear records no live sequence holds (R262). -/
def freeClients (s : State) : State := modServing (fun v => { v with clients := v.clients.filter fun x => !clientFree v x }) s

/-- Adds a sequence's figures to its client's record (R262); counts saturate. -/
def postClient (i : Nat) (s : State) : State :=
  match tget i s.serving.seqs with
  | none => s
  | some q =>
    modSeq i (fun q => { q with preemptsDue := 0 }) (modClient q.part q.client (fun x => { x with
      waitMax := max x.waitMax q.waitMax, preempts := satAdd 0xFFFFFFFF x.preempts q.preemptsDue }) s)

/-! Windows (R238, R239) -/

/-- Bytes of a block of 64 positions of a plan's model (R238). -/
def blockSize (p : Plan) : Nat := (64 * p.body.bptl * p.body.layers + 0x3FFF) / 0x4000 * 0x4000

def modelBlock (s : State) (part model : Nat) : Nat := match modelPlan s part model with | some p => blockSize p | none => 0

/-- Bytes a page list covers. -/
def coveredBytes (ps : List PageRef) : Nat := (ps.map pageBytes).sum

/-- The bytes of a window from off up to stop. -/
def readWindow (m : List Host.Cell) : List PageRef → Nat → Nat → Nat → List Byte
  | [], _, _, _ => []
  | p :: t, start, off, stop =>
    let lo := max off start
    let hi := min stop (start + pageBytes p)
    (if lo < hi then mreadN (p.page * 0x4000 + (lo - start)) (hi - lo) m else []) ++ readWindow m t (start + pageBytes p) off stop

/-- Writes bytes into a window from off. -/
def writeWindow : List PageRef → Nat → Nat → List Byte → State → State
  | [], _, _, _, s => s
  | p :: t, start, off, bs, s =>
    if off < start + pageBytes p then
      let n := start + pageBytes p - off
      writeWindow t (start + pageBytes p) (start + pageBytes p) (bs.drop n) (writeSpace .hbm (p.page * 0x4000 + (off - start)) (bs.take n) s)
    else writeWindow t (start + pageBytes p) off bs s

/-- Does a window range hold poison? -/
def windowPoisoned (s : State) : List PageRef → Nat → Nat → Nat → Bool
  | [], _, _, _ => false
  | p :: t, start, off, stop =>
    let lo := max off start
    let hi := min stop (start + pageBytes p)
    (decide (lo < hi) && readsPoison s .hbm (p.page * 0x4000 + (lo - start)) (hi - lo)) || windowPoisoned s t (start + pageBytes p) off stop

/-- A fresh page of at most a number of bytes for a window offset: the home region first, the largest size that is free (R241). -/
def pickWithin (s : State) (part home off most : Nat) : Option PageRef :=
  let regions := home :: (List.range 8).filter (· != home)
  regions.findSome? fun r =>
    ((sizesAt (partOf s part).pageMax off).filter fun k => decide (0x4000 * 2 ^ k ≤ most)).findSome? fun k =>
      (freeIn s part r k).map fun a => ⟨a, k, false⟩

/-- Fresh pages for the window from off up to stop exactly, each taken into use; none where the pool runs out. -/
def fillRange (part home : Nat) : Nat → Nat → Nat → List PageRef → State → Option (List PageRef × State)
  | 0, off, stop, acc, s => if stop ≤ off then some (acc, s) else none
  | n + 1, off, stop, acc, s =>
    if stop ≤ off then some (acc, s)
    else
      match pickWithin s part home off (stop - off) with
      | none => none
      | some p => fillRange part home n (off + pageBytes p) stop (acc ++ [p]) (takePage p s)

/-- Fuel for filling a range: one page of 16 KiB a step. -/
def fillFuel (bytes : Nat) : Nat := bytes / 0x4000 + 1

/-- Adds pages at a window's end until it covers a number of bytes, each the largest that is free (R241). -/
def growPages (part home need : Nat) : Nat → List PageRef → State → Option (List PageRef × State)
  | 0, ps, s => if need ≤ coveredBytes ps then some (ps, s) else none
  | n + 1, ps, s =>
    if need ≤ coveredBytes ps then some (ps, s)
    else
      match pickPage s part home (coveredBytes ps) with
      | none => none
      | some p => growPages part home need n (ps ++ [p]) (takePage p s)

/-- Does a page at a window offset hold a byte of positions a to b - 1 (R238)? -/
def holdsPositions (bptl layers block start size a b : Nat) : Bool :=
  (List.range ((start + size - 1) / block + 1 - start / block)).any fun k =>
    let blk := start / block + k
    let lo := max a (blk * 64) - blk * 64
    let hi := min b (blk * 64 + 64) - blk * 64
    decide (lo < hi) && (List.range layers).any fun l =>
      let x := blk * block + l * 64 * bptl + lo * bptl
      let y := blk * block + l * 64 * bptl + hi * bptl
      decide (x < start + size) && decide (start < y)

/-- Copies every SHARED page that a step's positions are written to into fresh private pages, dropping one reference (R242); none
where the pool runs out. -/
def unshare (part home bptl layers block a b : Nat) : List PageRef → Nat → List PageRef → State → Option (List PageRef × State)
  | [], _, acc, s => some (acc, s)
  | p :: t, start, acc, s =>
    if p.shared && holdsPositions bptl layers block start (pageBytes p) a b then
      match fillRange part home (fillFuel (pageBytes p)) start (start + pageBytes p) [] s with
      | none => none
      | some (fresh, s1) =>
        let s2 := writeWindow fresh start start (mreadN (p.page * 0x4000) (pageBytes p) s1.mem.hbm) s1
        unshare part home bptl layers block a b t (start + pageBytes p) (acc ++ fresh) (dropRef p s2)
    else unshare part home bptl layers block a b t (start + pageBytes p) (acc ++ [p]) s

/-- Sets a sequence's page list, and writes it out; a list that finds no place in Birzu's private area is none (log entry 21). -/
def setPages (i : Nat) (ps : List PageRef) (s : State) : Option State :=
  (placeList s i ps.length).map fun a =>
    let s1 := modSeq i (fun q => { q with pages := ps, pageListAddr := a }) s
    match tget i s1.serving.seqs with
    | some q => writePageList q s1
    | none => s1

/-- Makes room for a sequence's positions a to b - 1 (R241, R242): shared pages they are written to are copied, and the window
grows by whole blocks. None where the pool runs out. -/
def roomFor (i a b : Nat) (s : State) : Option State :=
  match tget i s.serving.seqs with
  | none => none
  | some q =>
    match modelPlan s q.part q.model with
    | none => none
    | some p =>
      let need := (b + 63) / 64 * blockSize p
      match unshare q.part q.homeRegion p.body.bptl p.body.layers (blockSize p) a b q.pages 0 [] s with
      | none => none
      | some (ps, s1) =>
        match growPages q.part q.homeRegion need (fillFuel need) ps s1 with
        | none => none
        | some (ps, s2) => if ps = q.pages then some s2 else setPages i ps s2

/-! Token records (R237) -/

/-- The 16 bytes of a token record. -/
def recordOf (token lp : BitVec 32) (genToken genKv : BitVec 16) (flags : Nat) : List Byte :=
  toLe 4 token.toNat ++ toLe 4 lp.toNat ++ toLe 2 genToken.toNat ++ toLe 2 genKv.toNat ++ toLe 2 flags ++ [0, 0]

def writeRecordAt (q : Seq) (p : Nat) (bs : List Byte) (s : State) : State := writeGlobal (q.tokenRec + 16 * p) bs s

/-- The records of prompt positions a to a + n - 1, made under a generation. -/
def writePromptRecords (q : Seq) (g : BitVec 16) : Nat → Nat → State → State
  | _, 0, s => s
  | a, n + 1, s =>
    writePromptRecords q g (a + 1) n
      (writeRecordAt q a (recordOf (BitVec.ofNat 32 (readNum s (q.promptAddr + 4 * a) 4)) 0 0 g 1) s)

/-- Rewrites GEN_KV of positions a to a + n - 1. -/
def writeGenKv (q : Seq) (g : BitVec 16) : Nat → Nat → State → State
  | _, 0, s => s
  | a, n + 1, s => writeGenKv q g (a + 1) n (writeGlobal (q.tokenRec + 16 * a + 10) (toLe 2 g.toNat) s)

/-! The prompt tree (R243, R244) -/

/-- The token identifiers of block b of a prompt. -/
def blockTokens (s : State) (prompt b : Nat) : List (BitVec 32) :=
  (List.range 64).map fun i => BitVec.ofNat 32 (readNum s (prompt + 4 * (64 * b + i)) 4)

/-- h_b out of h_(b-1) (R243). -/
def blockKey (prev : Word) (model : Nat) (g : BitVec 16) (toks : List (BitVec 32)) : Word :=
  BitVec.ofNat 64 (crc64 (toLe 8 prev.toNat ++ toLe 2 model ++ toLe 2 g.toNat ++ toks.flatMap fun t => toLe 4 t.toNat))

/-- The node of a partition's model with a key. -/
def nodeAt (s : State) (part model : Nat) (key : Word) : Option PromptNode :=
  s.serving.nodes.find? fun n => n.part == part && n.model == model && n.key == key

/-- Walks a prompt's full blocks (R243 steps 1, 2): the nodes matched, and whether a collision ended the walk. -/
def matchPrompt (s : State) (part model : Nat) (g : BitVec 16) (prompt : Nat) : Nat → Nat → Word → List PromptNode × Bool
  | 0, _, _ => ([], false)
  | n + 1, b, prev =>
    let toks := blockTokens s prompt b
    match nodeAt s part model (blockKey prev model g toks) with
    | none => ([], false)
    | some x =>
      if x.tokens = toks then
        let rest := matchPrompt s part model g prompt n (b + 1) x.key
        (x :: rest.1, rest.2)
      else ([], true)

/-- Marks matched nodes with the time of the match, and counts a collision. -/
def markMatched (xs : List PromptNode) (collided : Bool) (s : State) : State :=
  modServing (fun v => { v with
    stamp := v.stamp + 1
    collisions := if collided then v.collisions + 1 else v.collisions
    nodes := v.nodes.map fun n => if xs.contains n then { n with matched := v.stamp + 1 } else n }) s

/-- The pages of a node with their window offsets. -/
def placed : List PageRef → Nat → List (Nat × PageRef)
  | [], _ => []
  | p :: t, start => (start, p) :: placed t (start + pageBytes p)

/-- The pages of matched nodes that a new sequence may share (R243 step 3), with their window offsets: a page counts for the node of the
block its last byte lies in, since only that node's prompt is known to agree with all of it. -/
def sharable (block : Nat) (xs : List PromptNode) : List (Nat × PageRef) :=
  xs.zipIdx.flatMap fun x => (placed x.1.pages x.1.start).filter fun p => (p.1 + pageBytes p.2 - 1) / block == x.2

/-- The window bytes off to stop of matched blocks, each block's out of its own node's pages (R243 step 4). -/
def matchedBytes (m : List Host.Cell) (block : Nat) (xs : List PromptNode) (off stop : Nat) : List Byte :=
  xs.zipIdx.flatMap fun x => readWindow m x.1.pages x.1.start (max off (x.2 * block)) (min stop ((x.2 + 1) * block))

/-- Takes a page another holder has (R241): one more reference, or a private copy where it has 65,535 already. -/
def sharePage (part home start : Nat) (p : PageRef) (s : State) : Option (List PageRef × State) :=
  match tget p.page s.serving.refs with
  | some r =>
    if r.2 < 65535 then some ([{ p with shared := true }], addRef p s)
    else
      match fillRange part home (fillFuel (pageBytes p)) start (start + pageBytes p) [] s with
      | none => none
      | some (fresh, s1) => some (fresh, writeWindow fresh start start (mreadN (p.page * 0x4000) (pageBytes p) s1.mem.hbm) s1)
  | none => none

/-- Fresh pages from a window offset up to the next sharable page, or to the end of the matched bytes. -/
def ownPages (part home stop : Nat) (next : Option Nat) (ps : List PageRef) (s : State) : Option (List PageRef × State) :=
  match next with
  | some off => fillRange part home (fillFuel (off - coveredBytes ps)) (coveredBytes ps) off ps s
  | none => growPages part home stop (fillFuel stop) ps s

/-- Steps 3 and 4 of R243: the pages of a new window up to the end of the matched blocks, shared where a page lies wholly within them and
else fresh with a copy of the matched bytes. A pool that runs out ends the list. -/
def buildMatched (part home block : Nat) (xs : List PromptNode) : Nat → List PageRef → State → List PageRef × State
  | 0, ps, s => (ps, s)
  | n + 1, ps, s =>
    let off := coveredBytes ps
    let stop := xs.length * block
    if stop ≤ off then (ps, s)
    else
      let cands := sharable block xs
      match (cands.find? fun p => p.1 == off).bind fun p => sharePage part home off p.2 s with
      | some (fresh, s1) => buildMatched part home block xs n (ps ++ fresh) s1
      | none =>
        match ownPages part home stop (((cands.map (·.1)).filter fun x => decide (off < x)).min?) ps s with
        | none => (ps, s)
        | some (all, s1) =>
          buildMatched part home block xs n all (writeWindow all 0 off (matchedBytes s1.mem.hbm block xs off (coveredBytes all)) s1)

/-- Steps 3 and 4 of R243 for matched nodes: the list, and how many of their blocks it covers. -/
def takeMatched (part home block : Nat) (xs : List PromptNode) (s : State) : List PageRef × Nat × State :=
  let r := buildMatched part home block xs (fillFuel (xs.length * block)) [] s
  (r.1, min xs.length (coveredBytes r.1 / block), r.2)

/-- Has a node no child? -/
def isLeaf (v : Serving) (n : PromptNode) : Bool :=
  !v.nodes.any fun x => x.part == n.part && x.model == n.model && x.parent == n.key

/-- Does a live sequence use a page? -/
def pageLive (v : Serving) (page : Nat) : Bool :=
  v.seqs.any fun e => e.2.pages.any fun p => p.page == page && (p.shared || e.2.state != .swapped)

/-- The least recently matched leaf, of those a test allows, that holds no page a live sequence uses (R244). -/
def oldestLeaf (v : Serving) (ok : PromptNode → Bool) : Option PromptNode :=
  (v.nodes.filter fun n => ok n && isLeaf v n && !n.pages.any fun p => pageLive v p.page).foldl
    (fun b n => match b with
      | none => some n
      | some x => if n.matched < x.matched then some n else some x) none

/-- Evicts a node: its pages lose a reference. -/
def evictNode (n : PromptNode) (s : State) : State :=
  n.pages.foldl (fun s p => dropRef p s) (modServing (fun v => { v with nodes := v.nodes.erase n }) s)

/-- Room for one more node (R244): a free place, or an evicted leaf; none where the insertion is skipped. -/
def nodeRoom (s : State) : Option State :=
  if s.serving.nodes.length < 262144 then some s
  else (oldestLeaf s.serving fun _ => true).map fun n => evictNode n s

/-- The pages of a window that hold block b, with the offset of the first. -/
def blockPages (block : Nat) (ps : List PageRef) (b : Nat) : List (Nat × PageRef) :=
  (placed ps 0).filter fun p => decide (b * block < p.1 + pageBytes p.2) && decide (p.1 < (b + 1) * block)

/-- Do pages lie wholly within the first full blocks (R244)? -/
def withinBlocks (block full : Nat) (ps : List (Nat × PageRef)) : Bool := ps.all fun p => decide (p.1 + pageBytes p.2 ≤ full * block)

/-- Sets SHARED on the entries of a sequence that name given pages. -/
def markShared (ps : List PageRef) (q : Seq) : Seq :=
  { q with pages := q.pages.map fun p => if ps.any (·.page == p.page) then { p with shared := true } else p }

/-- The tree's references to a block's pages: a page that has 65,535 already gives it a private copy (R241). None where the pool has no
page for one. -/
def treePages (part home : Nat) : List (Nat × PageRef) → List PageRef → State → Option (List PageRef × State)
  | [], acc, s => some (acc, s)
  | p :: t, acc, s =>
    match sharePage part home p.1 p.2 s with
    | none => none
    | some (fresh, s1) => treePages part home t (acc ++ fresh) s1

/-- Inserts the node of a block of a sequence (R244); one that finds no room is skipped and counted. -/
def insertNode (i : Nat) (prev key : Word) (toks : List (BitVec 32)) (ps : List (Nat × PageRef)) (q : Seq) (s : State) : State :=
  match (nodeRoom s).bind fun s1 => treePages q.part q.homeRegion ps [] s1 with
  | none => modServing (fun v => { v with skippedInserts := v.skippedInserts + 1 }) s
  | some (held, s2) =>
    let s3 := modServing (fun v => { v with
      stamp := v.stamp + 1
      nodes := v.nodes ++ [{ part := q.part, model := q.model, key := key, parent := prev, tokens := toks
                             start := match ps with | p :: _ => p.1 | [] => 0
                             pages := held.map fun p => { p with shared := true }, matched := v.stamp + 1 }] }) s2
    modSeq i (markShared held) s3

/-- Inserts nodes for a sequence's complete prompt blocks from b on, each under its own generation, of full blocks in all (R243, R244). -/
def insertFrom (i block full : Nat) : List (BitVec 16) → Nat → Word → State → State
  | [], _, _, s => s
  | g :: gs, b, prev, s =>
    match tget i s.serving.seqs with
    | none => s
    | some q =>
      let toks := blockTokens s q.promptAddr b
      let key := blockKey prev q.model g toks
      let ps := blockPages block q.pages b
      let s1 := if (nodeAt s q.part q.model key).isSome || !withinBlocks block full ps then s else insertNode i prev key toks ps q s
      insertFrom i block full gs (b + 1) key s1

/-- The generations of a prompt's first complete blocks after a step of generation g made the keys and values of positions a to b - 1: a
block the step began is the step's, and one it only finished keeps the generation it was begun under (log entry 129). -/
def gensAfter (gs : List (BitVec 16)) (last g : BitVec 16) (prompt a b : Nat) : List (BitVec 16) :=
  (List.range (min b prompt / 64)).map fun k => if 64 * k + 64 ≤ a then gs.getD k last else if a ≤ 64 * k then g else last

/-- Inserts the nodes a commit allows (R244): a block of 64 committed prompt positions whose pages lie within complete blocks, and whose key
no node has. A recompute has made as many as it has processed (R287). -/
def insertNodes (i : Nat) (s : State) : State :=
  match tget i s.serving.seqs with
  | none => s
  | some q =>
    let block := modelBlock s q.part q.model
    let gs := q.blockGens
    if block = 0 then s
    else
      let s1 := insertFrom i block gs.length gs 0 0 s
      match tget i s1.serving.seqs with
      | some x => if x.pages = q.pages then s1 else writePageList x s1
      | none => s1

/-! Swapping (R258) -/

/-- The end of what swapped sequences of a partition hold in its swap area. -/
def swapUsed (s : State) (part : Nat) : Nat :=
  s.serving.seqs.foldl (fun m e =>
    if e.2.part == part && e.2.state == .swapped && decide (0x400000000000 + Config.swapBase part ≤ e.2.swapAddr) &&
        decide (e.2.swapAddr < 0x400000000000 + Config.swapBase part + Config.swapBytes part) then
      max m (e.2.swapAddr - 0x400000000000 - Config.swapBase part + coveredBytes (e.2.pages.filter fun p => !p.shared))
    else m) 0

/-- Bytes of a sequence's private pages. -/
def privateSize (q : Seq) : Nat := coveredBytes (q.pages.filter fun p => !p.shared)

/-- Would a sequence's private pages fit the partition's swap area? -/
def swapFits (s : State) (q : Seq) : Bool := swapUsed s q.part + privateSize q ≤ Config.swapBytes q.part

/-- A pre-emption counts in the sequence and, at the next posting, in its client's record (R258, R262). -/
def countPreempt (q : Seq) : Seq :=
  { q with preempts := satAdd 0xFFFF q.preempts 1, preemptsDue := q.preemptsDue + 1 }

/-- Copies the private pages of a list to host memory in order. -/
def pagesOut : List PageRef → Nat → State → State
  | [], _, s => s
  | p :: t, h, s => pagesOut t (h + pageBytes p) (writeSpace .host h (mreadN (p.page * 0x4000) (pageBytes p) s.mem.hbm) s)

/-- Birzu's own swap of a victim (R257, R258): its private pages go to the swap area and are freed; a poisoned one faults it. -/
def swapVictim (i : Nat) (s : State) : State :=
  match tget i s.serving.seqs with
  | none => s
  | some q =>
    let own := q.pages.filter fun p => !p.shared
    if own.any fun p => readsPoison s .hbm (p.page * 0x4000) (pageBytes p) then
      modSeq i (fun q => { countPreempt q with state := .faulted }) s
    else
      let h := Config.swapBase q.part + swapUsed s q.part
      own.foldl (fun s p => dropRef p s) (modSeq i (fun q => { countPreempt q with
        state := .swapped, swapAddr := 0x400000000000 + h }) (pagesOut own h s))

/-- Fresh pages in the place of the private ones of a swapped window, none where the pool runs out. -/
def refill (part home : Nat) : List PageRef → Nat → List PageRef → State → Option (List PageRef × State)
  | [], _, acc, s => some (acc, s)
  | p :: t, start, acc, s =>
    if p.shared then refill part home t (start + pageBytes p) (acc ++ [p]) s
    else
      match fillRange part home (fillFuel (pageBytes p)) start (start + pageBytes p) [] s with
      | none => none
      | some (fresh, s1) => refill part home t (start + pageBytes p) (acc ++ fresh) s1

/-- Where a sequence goes on after its swap-in. -/
def liveState (q : Seq) : SeqState := if q.recompute || q.prefilled < q.promptLength then .prefill else .decode

/-- Copies bytes from host memory into the private pages of a list in order. -/
def pagesIn : List PageRef → Nat → State → State
  | [], _, s => s
  | p :: t, h, s => pagesIn t (h + pageBytes p) (writeSpace .hbm (p.page * 0x4000) (mreadN h (pageBytes p) s.mem.host) s)

/-- Birzu's own swap-in before a step's first layer (R258); none where the pool runs out. -/
def swapBack (i : Nat) (s : State) : Option State :=
  match tget i s.serving.seqs with
  | none => none
  | some q =>
    match refill q.part q.homeRegion q.pages 0 [] s with
    | none => none
    | some (ps, s1) =>
      let s2 := pagesIn (ps.filter fun p => !p.shared) (q.swapAddr - 0x400000000000) s1
      setPages i ps (modSeq i (fun q => { q with state := liveState q, swapAddr := 0 }) s2)

/-! Ends (R236) -/

/-- Frees an entry: its page references drop, and its reuse count advances. A swapped window holds only its shared pages. -/
def freeEntry (i : Nat) (s : State) : State :=
  match tget i s.serving.seqs with
  | none => s
  | some q =>
    let held := if q.state = .swapped then q.pages.filter (·.shared) else q.pages
    modServing (fun v => { v with seqs := tdel i v.seqs, reuse := tmod i 0 (fun n => (n + 1) % 256) v.reuse })
      (held.foldl (fun s p => dropRef p s) s)

/-- Releases a sequence's shadow. -/
def freeShadow (i : Nat) (s : State) : State :=
  match tget i s.serving.seqs with
  | none => s
  | some q =>
    match seqRef s q.shadow with
    | some (j, _) => modSeq i (fun q => { q with shadow := 0xFFFFFFFF, fallbackEnabled := false }) (freeEntry j s)
    | none => modSeq i (fun q => { q with shadow := 0xFFFFFFFF, fallbackEnabled := false }) s

/-- Releases a sequence (R236): its figures are posted, and its shadow goes with it. A generation it drained may retire. -/
def releaseSeq (i : Nat) (s : State) : State := freeClients (freeEntry i (freeShadow i (postClient i s)))

end Sys2Proof.Machine
end

