-- ==== Sys2Proof/Machine/Serving.lean ====
section
/-! DEFINITION. The meanings of the sequence commands beside the batch step (R233 to R237, R243, R244, R255, R256, R258, R259, R262). -/

namespace Sys2Proof.Machine

/-! SEQ_CREATE and PREFIX_LOOKUP (R233, R243, R250) -/

/-- Numbers of SEQ_CREATE in range (R235, R434). -/
def seqNumbersOk (priority maxLength promptLength topK : Nat) : Bool :=
  decide (priority ≤ 7) && decide (2 ≤ maxLength) && decide (maxLength ≤ 2147483647) && decide (1 ≤ promptLength) &&
    decide (promptLength < maxLength) && decide (topK ≤ 1024)

/-- The largest key/value bucket of a plan (R134, R250). -/
def largestBucket (p : Plan) : Nat := p.body.kvBuckets.foldl max 0

/-- The refusals of SEQ_CREATE, in order. -/
def seqCreateCheck (s : State) (part : Nat) (model priority client maxLength promptLength prompt tokenRec topK : Nat) :
    Option (Status × Nat) :=
  match modelPlan s part model with
  | none => some (.planRejected, 0x0F00)
  | some p =>
    if !seqNumbersOk priority maxLength promptLength topK then some (.badLength, 0xE)
    else if largestBucket p < maxLength then some (.shapeExceedsPlan, 2)
    else
      firstOf [checkList s part prompt (4 * promptLength) 1, checkOperand s part tokenRec (16 * maxLength) 1,
        if (freeSeqEntry s part).isNone || !clientRoom s part client then some (.quota, 0) else none]

/-- The nodes a new prompt matches under a model's generation (R243); none without a generation. -/
def lookupPrompt (s : State) (part model prompt promptLength : Nat) : List PromptNode × Bool :=
  match modelGen s part model with
  | some g => matchPrompt s part model g prompt (promptLength / 64) 0 0
  | none => ([], false)

/-- Gives a new sequence what its prompt matched (R243 steps 3 to 5). -/
def adoptPrefix (i : Nat) (xs : List PromptNode) (g : BitVec 16) (s : State) : State :=
  match tget i s.serving.seqs with
  | none => s
  | some q =>
    let r := takeMatched q.part q.homeRegion (modelBlock s q.part q.model) xs s
    let n := min (64 * r.2.1) (q.promptLength - 1)
    match setPages i r.1 (modSeq i (fun q => { q with
      length := n, prefilled := n, sharedBlocks := r.2.1, oldestKv := g, gen := g, blockGens := List.replicate (n / 64) g }) r.2.2) with
    | none => s
    | some s1 => writePromptRecords q g 0 n s1

/-- SEQ_CREATE. -/
def execSeqCreate (c : Cmd) (model priority client maxLength promptLength : Nat) (lookup : Bool) (prompt tokenRec : Nat)
    (temperature : BitVec 32) (topK : Nat) (stop : BitVec 32) (seed : BitVec 64) (s : State) : Result :=
  match seqCreateCheck s c.part model priority client maxLength promptLength prompt tokenRec topK, freeSeqEntry s c.part with
  | some e, _ => done c (ans e.1 e.2) s
  | none, none => done c (ans .quota) s
  | none, some i =>
    let q : Seq :=
      { handle := seqHandle s i, state := .prefill, priority := priority, part := c.part, model := model, client := client
        maxLength := maxLength, promptLength := promptLength, promptAddr := prompt, pageListAddr := pageListPlace i
        tokenRec := tokenRec, temperature := temperature, topK := topK, seed := seed, arrival := s.time.now, stopTok := stop
        homeRegion := homeRegion s c.part }
    let s1 := openClient c.part client (modServing (fun v => { v with seqs := tput i q v.seqs }) s)
    let xs := if lookup then lookupPrompt s c.part model prompt promptLength else ([], false)
    let s2 := if lookup then markMatched xs.1 xs.2 s1 else s1
    let s3 := match modelGen s c.part model with
      | some g => if xs.1.isEmpty then s2 else adoptPrefix i xs.1 g s2
      | none => s2
    done c { status := .ok, words := [q.handle] } s3

/-- PREFIX_LOOKUP: how many blocks of a prompt the tree holds (R243 steps 1 and 2, R307). -/
def execPrefixLookup (c : Cmd) (model promptLength prompt : Nat) (s : State) : Result :=
  match checkList s c.part prompt (4 * promptLength) 1 with
  | some e => done c (ans e.1 e.2) s
  | none =>
    if (modelPlan s c.part model).isNone then done c (ans .planRejected 0x0F00) s
    else
      let xs := lookupPrompt s c.part model prompt promptLength
      done c { status := .ok, words := [BitVec.ofNat 32 xs.1.length] } (markMatched xs.1 xs.2 s)

/-! SEQ_VERIFY (R255) -/

/-- Attaches candidates to a DECODE sequence. -/
def attachVerify (c : Cmd) (i : Nat) (q : Seq) (toks : List (BitVec 32)) (external : Bool) (s : State) : State :=
  if q.state ≠ .decode then finish c (ans .badLength 0) s
  else finish c (ans .ok) (modSeq i (fun q => { q with verify := some (toks, external) }) s)

/-- SEQ_VERIFY. -/
def execSeqVerify (c : Cmd) (seq : BitVec 32) (count : Nat) (external : Bool) (cand : Nat) (s : State) : Result :=
  .next (onSeq c seq s fun i q =>
    if count = 0 ∨ 16 < count then finish c (ans .badLength 0) s
    else
      match checkList s c.part cand (4 * count) 1 with
      | some e => finish c (ans e.1 e.2) s
      | none =>
        let toks := (List.range count).map fun k => BitVec.ofNat 32 (readNum s (cand + 4 * k) 4)
        if inStep s q i then holdUntilCommit q.part (.verify c seq toks external) s else attachVerify c i q toks external s)

/-! SEQ_ROLLBACK (R256) -/

/-- Sets LENGTH and PENDING; the shadow goes back with its sequence (log entry 48). -/
def rollBack (c : Cmd) (i : Nat) (q : Seq) (n : Nat) (t : BitVec 32) (s : State) : State :=
  if n < q.promptLength ∨ q.length < n then finish c (ans .badLength 0) s
  else
    let flags := readNum s (q.tokenRec + 16 * n + 12) 2
    let s1 := writeGlobal (q.tokenRec + 16 * n + 12) (toLe 2 (flags ||| 8))
      (writeGlobal (q.tokenRec + 16 * n) (toLe 4 t.toNat) s)
    let s2 := modSeq i (fun q => { q with
      length := n, pendingTok := t, lag := 0, sharedBlocks := min q.sharedBlocks (n / 64)
      prefilled := if q.recompute then min q.prefilled n else q.prefilled }) s1
    let s3 := match seqRef s2 q.shadow with
      | some (j, _) => modSeq j (fun x => { x with length := min x.length n }) s2
      | none => s2
    finish c (ans .ok) s3

/-- SEQ_ROLLBACK. -/
def execSeqRollback (c : Cmd) (seq : BitVec 32) (n : Nat) (t : BitVec 32) (s : State) : Result :=
  .next (onSeq c seq s fun i q =>
    if inStep s q i then holdUntilCommit q.part (.rollback c seq n t) s else rollBack c i q n t s)

/-! SEQ_FORK (R244) -/

/-- The parent's list for its child: every page with one more reference, or a private copy where it has 65,535; none where the pool
runs out of copies. -/
def forkPages (part home : Nat) : List PageRef → Nat → List PageRef → State → Option (List PageRef × State)
  | [], _, acc, s => some (acc, s)
  | p :: t, start, acc, s =>
    match sharePage part home start p s with
    | none => none
    | some (ps, s1) => forkPages part home t (start + pageBytes p) (acc ++ ps) s1

/-- Positions whose records a sequence has: its committed ones and those emitted beyond (R237). -/
def recordCount (q : Seq) : Nat :=
  if q.pendingTok = 0xFFFFFFFF then q.length else min (q.length + q.lag + 1) q.maxLength

/-- Makes the child of a sequence. -/
def forkSeq (c : Cmd) (i : Nat) (q : Seq) (seed : BitVec 64) (tokenRec : Nat) (s : State) : State :=
  if q.state = .swapped ∨ swapping s i then finish c (ans .locked) s
  else
    match checkOperand s c.part tokenRec (16 * q.maxLength) 1, freeSeqEntry s c.part with
    | some e, _ => finish c (ans e.1 e.2) s
    | none, none => finish c (ans .quota) s
    | none, some j =>
      match forkPages q.part q.homeRegion q.pages 0 [] s with
      | none => finish c (ans .quota) s
      | some (ps, s1) =>
        let child : Seq := { q with
          handle := seqHandle s j, seed := seed, tokenRec := tokenRec, pageListAddr := pageListPlace j
          sharedBlocks := q.length / 64, shadow := 0xFFFFFFFF, fallbackEnabled := false, waitMax := 0, preempts := 0
          fallbackSteps := 0, waitTotal := 0, unbroken := 0, preemptsDue := 0 }
        let s2 := modServing (fun v => { v with seqs := tput j child v.seqs }) s1
        match (setPages i (q.pages.map fun p => { p with shared := p.shared || ps.any (·.page == p.page) }) s2).bind (setPages j ps) with
        | none => finish c (ans .quota) s
        | some s3 =>
          finish c { status := .ok, words := [child.handle] }
            (writeGlobal tokenRec (readGlobal s (q.tokenRec) (16 * recordCount q)) s3)

/-- SEQ_FORK. -/
def execSeqFork (c : Cmd) (parent : BitVec 32) (seed : BitVec 64) (tokenRec : Nat) (s : State) : Result :=
  .next (onSeq c parent s fun i q =>
    if inStep s q i then holdUntilCommit q.part (.fork c parent seed tokenRec) s else forkSeq c i q seed tokenRec s)

/-! SEQ_RELEASE (R236) -/

/-- SEQ_RELEASE. An entry whose swap copy is in flight is in use. -/
def execSeqRelease (c : Cmd) (seq : BitVec 32) (s : State) : Result :=
  .next (onSeq c seq s fun i q =>
    if swapping s i then finish c (ans .locked) s
    else if inStep s q i then holdUntilCommit q.part (.release c seq) s
    else tryRetires q.part (finish c (ans .ok) (releaseSeq i s)))

/-! DEADLINE_SET (R259) -/

/-- The refusals of a fall-back model: another resident model of the partition, whose buckets hold the window, and an entry for its
shadow. -/
def fallbackCheck (s : State) (q : Seq) (fallback : Nat) : Option (Status × Nat) :=
  match modelPlan s q.part fallback with
  | none => some (.badLength, 0xE)
  | some p =>
    if fallback = q.model then some (.badLength, 0xE)
    else if largestBucket p < q.maxLength then some (.shapeExceedsPlan, 2)
    else if (freeSeqEntry s q.part).isNone then some (.quota, 0)
    else none

/-- Creates the shadow of a sequence on a model: an empty window the next steps fill. -/
def makeShadow (i : Nat) (q : Seq) (fallback : Nat) (s : State) : State :=
  match freeSeqEntry s q.part with
  | none => s
  | some j =>
    let x : Seq := { q with
      handle := seqHandle s j, state := .shadow, model := fallback, fallbackEnabled := false, verify := none, length := 0
      prefilled := 0, pageListAddr := pageListPlace j, pages := [], sharedBlocks := 0, deadline := 0, interval := 0
      shadow := 0xFFFFFFFF, swapAddr := 0, waitMax := 0, preempts := 0, fallbackSteps := 0, waitTotal := 0, unbroken := 0
      oldGen := none, oldestKv := 0, recompute := false, lag := 0, preemptsDue := 0, blockGens := [], homeRegion := homeRegion s q.part }
    modSeq i (fun q => { q with shadow := x.handle, fallbackEnabled := true })
      (modServing (fun v => { v with seqs := tput j x v.seqs }) s)

/-- Sets a sequence's deadline and shadow; 0 removes both. A shadow of the same model stays. -/
def setDeadline (c : Cmd) (i : Nat) (q : Seq) (interval : Nat) (deadline : Word) (fallback : Nat) (s : State) : State :=
  let set := modSeq i fun q => { q with deadline := deadline, interval := interval }
  if deadline = 0 ∨ fallback = 0xFF then finish c (ans .ok) (freeShadow i (set s))
  else if ((seqRef s q.shadow).map fun e => e.2.model) = some fallback then finish c (ans .ok) (set s)
  else
    let s1 := freeShadow i s
    match fallbackCheck s1 q fallback with
    | some e => finish c (ans e.1 e.2) s
    | none => finish c (ans .ok) (set (makeShadow i q fallback s1))

/-- DEADLINE_SET. -/
def execDeadlineSet (c : Cmd) (seq : BitVec 32) (interval : Nat) (deadline : BitVec 64) (fallback : Nat) (s : State) : Result :=
  .next (onSeq c seq s fun i q =>
    if inStep s q i then holdUntilCommit q.part (.deadline c seq interval deadline fallback) s
    else setDeadline c i q interval deadline fallback s)

/-! ACCOUNT_READ (R235, R262, R276, R279) -/

/-- STATE as the entry encodes it (R235). -/
def seqStateCode : SeqState → Nat
  | .prefill => 1 | .decode => 2 | .swapped => 3 | .finished => 4 | .faulted => 5 | .shadow => 6

/-- The 128 bytes of a sequence entry (R235). -/
def seqBytes (s : State) (q : Seq) : List Byte :=
  let flags := (if q.fallbackEnabled then 1 else 0) + (match q.verify with | some (_, e) => if e then 6 else 2 | none => 0)
  toLe 4 q.handle.toNat ++ toLe 1 (seqStateCode q.state) ++ toLe 1 q.priority ++ toLe 1 q.part ++ toLe 1 q.model ++ toLe 2 q.client ++
    toLe 2 flags ++ toLe 4 q.length ++ toLe 4 q.maxLength ++ toLe 4 q.promptLength ++ toLe 4 q.prefilled ++ toLe 4 q.pendingTok.toNat ++
    toLe 8 (ownModule s * 2 ^ 47 + q.pageListAddr) ++ toLe 4 q.pages.length ++ toLe 4 q.sharedBlocks ++ toLe 8 q.tokenRec ++ toLe 4 q.temperature.toNat ++
    toLe 2 q.topK ++ toLe 2 q.gen.toNat ++ toLe 8 q.seed.toNat ++ toLe 8 q.deadline.toNat ++ toLe 4 q.interval ++
    toLe 4 q.shadow.toNat ++ toLe 8 q.arrival.toNat ++ toLe 8 q.swapAddr ++ toLe 4 q.waitMax ++ toLe 2 q.preempts ++
    toLe 2 q.fallbackSteps ++ toLe 8 q.waitTotal ++ toLe 4 q.stopTok.toNat ++ toLe 4 0

/-- The 64 bytes of a client record (R262). -/
def clientBytes (x : Client) : List Byte :=
  toLe 2 x.client ++ toLe 1 x.part ++ toLe 1 0 ++ toLe 4 x.waitMax ++ toLe 8 x.waitTotal ++ toLe 8 x.tokens ++ toLe 4 x.fallbackTokens ++
    toLe 4 x.preempts ++ toLe 4 x.deadlineMisses ++ List.replicate 28 0

def slotCode : SlotState → Nat
  | .empty => 0 | .staging => 1 | .complete => 2 | .active => 3 | .previous => 4

/-- A layer's 8 bytes in the generation table: both slots' states and generations (R279; log entry 49). -/
def layerBytes (l : Layer) : List Byte :=
  toLe 1 (slotCode l.active.state) ++ toLe 1 (slotCode l.standby.state) ++ toLe 2 l.active.gen.toNat ++ toLe 2 l.standby.gen.toNat ++ [0, 0]

/-- What ACCOUNT_READ returns, none where it names nothing. -/
def accountBytes (s : State) (c : Cmd) (what client : Nat) (x : BitVec 32) : List Byte :=
  match what with
  | 0 => match seqRef s x with | some (_, q) => seqBytes s q | none => []
  | 1 => clientBytes ((s.serving.clients.find? (isClient c.part client)).getD { part := c.part, client := client })
  | 2 => (List.range (modelLayers s c.part x.toNat)).flatMap fun l => layerBytes (layerAt s c.part x.toNat l)
  | _ => (List.range 65536).flatMap fun e => toLe 4 (tgetD e 0 (partOf s c.part).experts.drops)

/-- What CLEAR clears: a client's record, or the expert statistics. -/
def accountClear (c : Cmd) (what client : Nat) (s : State) : State :=
  if what = 1 then
    freeClients (modClient c.part client (fun x => { part := x.part, client := x.client }) s)
  else if what = 3 then modPart c.part (fun p => { p with experts := { p.experts with drops := [] } }) s
  else s

/-- The refusals of ACCOUNT_READ. -/
def accountCheck (s : State) (c : Cmd) (what : Nat) (x : BitVec 32) (dest n : Nat) : Option (Status × Nat) :=
  let named : Option (Status × Nat) :=
    if what = 0 then
      match seqRef s x with
      | none => some (.badLength, 6)
      | some (_, q) => if q.part = c.part then none else some (.tenantViolation, 0)
    else if what = 2 ∧ (modelPlan s c.part x.toNat).isNone then some (.badLength, 0xE)
    else none
  firstOf [named, checkOperand s c.part dest n 1]

/-- ACCOUNT_READ. -/
def execAccountRead (c : Cmd) (what : Nat) (clear : Bool) (client : Nat) (seqOrModel : BitVec 32) (dest : Nat) (s : State) : Result :=
  let bs := accountBytes s c what client seqOrModel
  match accountCheck s c what seqOrModel dest bs.length with
  | some e =>
    let s1 := match seqRef s seqOrModel with
      | some (_, q) => if e.1 = .tenantViolation then logTenant (.host c) q.part seqOrModel s else s
      | none => s
    done c (ans e.1 e.2) s1
  | none =>
    let s1 := writeGlobal dest bs s
    done c (ans .ok) (if clear then accountClear c what client s1 else s1)

/-! SWAP_OUT and SWAP_IN (R258) -/

/-- The (address, bytes) pieces of a list's private pages. -/
def privatePieces (s : State) (q : Seq) : List (Nat × Nat) :=
  (q.pages.filter fun p => !p.shared).map fun p => (ownModule s * 2 ^ 47 + p.page * 0x4000, pageBytes p)

/-- Nothing was copied (R307). -/
def noBytes : List (BitVec 32) := words64 0 ++ words64 (2 ^ 64 - 1)

/-- Runs a swap's DMA on the home region's engine, or answers at once where there is nothing to copy. -/
def runSwap (c : Cmd) (q : Seq) (purpose : DmaFor) (src dst : List (Nat × Nat)) (ended : State → State) (s : State) : State :=
  let n := (src.map (·.2)).sum
  if n = 0 then finish c { status := .ok, words := noBytes } (ended s)
  else
    match pickChannel s q.homeRegion 255 with
    | none => finish c { status := .unitDark, words := noBytes } s
    | some k =>
      startTransfer q.homeRegion k
        { purpose := purpose, part := q.part, op := .pieces src dst, src := 0, dst := 0, length := n, clsDst := .normal, serial := 0 }
        (ended s)

/-- Starts a swap-out of a sequence that is in no step. -/
def swapSeqOut (c : Cmd) (i : Nat) (q : Seq) (host : Nat) (s : State) : State :=
    if swapping s i then finish c { status := .locked, words := noBytes } s
    else if q.state ≠ .prefill ∧ q.state ≠ .decode then finish c { status := .ok, words := noBytes } s
    else
      match checkOperand s c.part (ownModule s * 2 ^ 47 + 0x400000000000 + host) (privateSize q) 1 with
      | some e => finish c { status := e.1, detail := e.2, words := noBytes } s
      | none =>
        runSwap c q (.swapOut (some c) i) (privatePieces s q) [(ownModule s * 2 ^ 47 + 0x400000000000 + host, privateSize q)]
          (modSeq i fun q => { countPreempt q with state := .swapped, swapAddr := 0x400000000000 + host }) s

/-- SWAP_OUT: the private pages go to the host address given, and are freed when the copy has ended. One of a sequence in the running step
is held until the commit (R249). -/
def execSwapOut (c : Cmd) (seq : BitVec 32) (host : Nat) (s : State) : Result :=
  .next (onSeq c seq s fun i q =>
    if inStep s q i then holdUntilCommit q.part (.swapOut c seq host) s else swapSeqOut c i q host s)

/-- Starts a swap-in of a sequence that is in no step. -/
def swapSeqIn (c : Cmd) (i : Nat) (q : Seq) (s : State) : State :=
    if swapping s i then finish c { status := .locked, words := noBytes } s
    else if q.state ≠ .swapped then finish c { status := .ok, words := noBytes } s
    else
      match refill q.part q.homeRegion q.pages 0 [] s with
      | none => finish c { status := .quota, words := noBytes } s
      | some (ps, s1) =>
        let src := [(ownModule s * 2 ^ 47 + q.swapAddr, privateSize q)]
        if privateSize q = 0 then
          finish c { status := .ok, words := noBytes } (modSeq i (fun q => { q with state := liveState q, swapAddr := 0 }) s)
        else
          match pickChannel s q.homeRegion 255 with
          | none => finish c { status := .unitDark, words := noBytes } s
          | some _ =>
            match setPages i ps s1 with
            | none => finish c { status := .quota, words := noBytes } s
            | some s2 => runSwap c q (.swapIn (some c) i) src (privatePieces s { q with pages := ps }) id s2

/-- SWAP_IN: fresh pages, and the data copied back. One of a sequence in the running step is held until the commit (R249). -/
def execSwapIn (c : Cmd) (seq : BitVec 32) (s : State) : Result :=
  .next (onSeq c seq s fun i q => if inStep s q i then holdUntilCommit q.part (.swapIn c seq) s else swapSeqIn c i q s)

end Sys2Proof.Machine
end

