-- ==== Sys2Proof/Machine/Batch.lean ====
section
/-! DEFINITION. Composing a batch step (R246 to R249, R257, R258, R260, R261, R287). -/

namespace Sys2Proof.Machine

/-- Has a sequence work left: prompt positions, positions to recompute, or a PENDING token (R246, R287)? -/
def hasWork (q : Seq) : Bool :=
  decide (q.prefilled < q.promptLength) || (q.recompute && decide (q.prefilled < q.length)) || q.pendingTok != 0xFFFFFFFF

/-- Is a sequence ready for a step of a model (R246)? One whose swap copy is in flight is not. -/
def isReady (s : State) (part model i : Nat) (q : Seq) : Bool :=
  q.part == part && q.model == model && (q.state == .prefill || q.state == .decode || q.state == .swapped) && hasWork q &&
    !swapping s i

/-- Orders sequences by class, then arrival, then entry. -/
def before (x y : Nat × Seq) : Bool :=
  decide (x.2.priority < y.2.priority) || (x.2.priority == y.2.priority &&
    (decide (x.2.arrival.toNat < y.2.arrival.toNat) || (x.2.arrival == y.2.arrival && decide (x.1 ≤ y.1))))

/-- Inserts into a list in order. -/
def insertBefore (x : Nat × Seq) : List (Nat × Seq) → List (Nat × Seq)
  | [] => [x]
  | y :: t => if before x y then x :: y :: t else y :: insertBefore x t

/-- The ready sequences of a model, by class and ascending arrival. -/
def readyList (s : State) (part model : Nat) : List (Nat × Seq) :=
  (s.serving.seqs.filter fun e => isReady s part model e.1 e.2).foldl (fun acc e => insertBefore e acc) []

/-- The generation a step uses among its ready sequences (R287): the oldest one drained, or none for the model's own. -/
def drainedGen (rs : List (Nat × Seq)) : Option (BitVec 16) := oldestGen (rs.filterMap fun e => e.2.oldGen)

/-- The predicted end of a step (R260): now plus the plan's estimate times the measured ratio of the last 16 steps. -/
def predictedEnd (s : State) (part model predictNs : Nat) : Nat :=
  let rs := tgetD (part * 256 + model) [] s.serving.ratios
  let p := (rs.map (·.2)).sum
  if p = 0 then s.time.now.toNat + predictNs else s.time.now.toNat + predictNs * (rs.map (·.1)).sum / p

/-- The shadow of a sequence when its keys and values are current (R259) and its model has its weights. -/
def currentShadow (s : State) (q : Seq) : Option Nat :=
  match seqRef s q.shadow with
  | some (j, x) => if x.state = .shadow ∧ x.length = q.length + q.lag ∧ (modelGen s x.part x.model).isSome then some j else none
  | none => none

/-- Does a sequence run this step on its fall-back (R260)? -/
def fallsBack (s : State) (end_ : Nat) (q : Seq) : Bool :=
  (q.state == .decode || (q.state == .swapped && liveState q == .decode)) && !q.recompute && q.deadline != 0 &&
    decide (q.deadline.toNat < end_) && (currentShadow s q).isSome

/-- Candidates of an armed verify a step takes (R246): k cut so that the window holds them. -/
def verifyTake (q : Seq) : Nat :=
  match q.verify with
  | some (ts, _) => min ts.length (q.maxLength - (q.length + q.lag + 1))
  | none => 0

/-- Tokens a ready sequence takes out of what is left of the budget, none where it is skipped (R246). Tokens a fall-back emitted
that the main model has not processed come first, as a chunk (R260). -/
def stepShare (s : State) (end_ chunk left i : Nat) (q : Seq) : Option StepEntry :=
  if q.recompute then
    some { seq := i, count := min (min chunk (q.length - q.prefilled)) left, prefill := true }
  else if q.prefilled < q.promptLength then
    some { seq := i, count := min (min chunk (q.promptLength - q.prefilled)) left, prefill := true }
  else if fallsBack s end_ q then some { seq := i, count := 1, prefill := false, fallback := true }
  else if q.verify.isSome then
    if left < 1 + q.lag + verifyTake q then none else some { seq := i, count := 1 + q.lag + verifyTake q, prefill := false }
  else some { seq := i, count := min (1 + q.lag) left, prefill := false }

/-- The composition loop of R246. -/
def compose (s : State) (end_ chunk : Nat) : Nat → Nat → List (Nat × Seq) → List StepEntry
  | _, _, [] => []
  | cap, left, (i, q) :: t =>
    if cap = 0 ∨ left = 0 then []
    else
      match stepShare s end_ chunk left i q with
      | none => compose s end_ chunk cap left t
      | some e => e :: compose s end_ chunk (cap - 1) (left - e.count) t

/-! Pages of a step (R241, R242, R257) -/

/-- The positions an entry writes: from its first unprocessed one. -/
def entryRange (q : Seq) (e : StepEntry) : Nat × Nat :=
  if e.prefill then (q.prefilled, q.prefilled + e.count) else (q.length, q.length + e.count)

/-- Makes room for a sequence and its shadow. The shadow catches up with every position of the sequence (R259). -/
def roomForEntry (e : StepEntry) (s : State) : Option State :=
  match tget e.seq s.serving.seqs with
  | none => none
  | some q =>
    let r := entryRange q e
    let main := if e.fallback then some s else roomFor e.seq r.1 r.2 s
    match main, seqRef s q.shadow with
    | some s1, some (j, x) => roomFor j x.length (max x.length (if e.fallback then q.length + q.lag + 1 else r.2)) s1
    | m, _ => m

/-- Swaps an entry's sequence in where it has to be, and makes its room; none where the pool runs out. -/
def admitEntry (e : StepEntry) (s : State) : Option State :=
  match tget e.seq s.serving.seqs with
  | none => none
  | some q =>
    if q.state = .swapped then
      match swapBack e.seq s with
      | some s1 => roomForEntry e s1
      | none => none
    else roomForEntry e s

/-- May a sequence be pre-empted for one that needs pages (R257, R258)? -/
def isVictim (s : State) (ready : List Nat) (i : Nat) (need q : Seq) (j : Nat) : Bool :=
  j != i && ready.contains j && decide (need.priority ≤ q.priority) && (q.state == .prefill || q.state == .decode) &&
    !(q.priority == need.priority && decide (q.arrival.toNat < need.arrival.toNat)) && decide (0 < privateSize q) && swapFits s q

/-- The victim: the lowest class first and, within a class, the latest arrival. -/
def pickVictim (s : State) (ready : List Nat) (i : Nat) (need : Seq) : Option Nat :=
  ((s.serving.seqs.filter fun e => isVictim s ready i need e.2 e.1).foldl (fun (b : Option (Nat × Seq)) e =>
    match b with
    | none => some e
    | some x => if before x e then some e else some x) none).map (·.1)

/-- Reclaims once (R257): a leaf of the partition's tree that no live sequence uses, else a victim, which is named. -/
def reclaimOnce (part : Nat) (ready : List Nat) (i : Nat) (s : State) : Option (State × Option Nat) :=
  match oldestLeaf s.serving fun n => n.part == part with
  | some n => some (evictNode n s, none)
  | none =>
    match tget i s.serving.seqs with
    | none => none
    | some q => (pickVictim s ready i q).map fun j => (swapVictim j s, some j)

/-- Admits one entry, reclaiming as long as it needs pages (R257): the state, whether it was admitted, and the victims. -/
def takeIn (part : Nat) (ready : List Nat) (e : StepEntry) : Nat → List Nat → State → State × Bool × List Nat
  | 0, vs, s => (s, false, vs)
  | n + 1, vs, s =>
    match admitEntry e s with
    | some s1 => (s1, true, vs)
    | none =>
      match reclaimOnce part ready e.seq s with
      | none => (s, false, vs)
      | some (s1, v) => takeIn part ready e n (vs ++ v.toList) s1

/-- Is a sequence's window in place? -/
def isResident (s : State) (i : Nat) : Bool :=
  match tget i s.serving.seqs with
  | some q => q.state == .prefill || q.state == .decode
  | none => false

/-- The allocation phase over the composed entries in order: the entries kept, and the included ones swapped out. -/
def admitAll (part : Nat) (ready : List Nat) : List StepEntry → List StepEntry → List Nat → State → List StepEntry × List Nat × State
  | [], kept, outs, s => (kept.filter fun e => isResident s e.seq, outs, s)
  | e :: t, kept, outs, s =>
    if outs.contains e.seq then admitAll part ready t kept outs s
    else
      let r := takeIn part ready e (s.serving.nodes.length + s.serving.seqs.length + 1) [] s
      admitAll part ready t (if r.2.1 then kept ++ [e] else kept) (outs ++ r.2.2) r.1

/-! The step's attention (R249, R250) -/

/-- The new positions a step processes for an entry (R250, R259): its own unless its fall-back runs, and those its shadow catches up with.
Each is a sequence, its KV_LEN and its Q_COUNT. -/
def entryWork (s : State) (e : StepEntry) : List (Nat × Seq × Nat × Nat) :=
  match tget e.seq s.serving.seqs with
  | none => []
  | some q =>
    let r := entryRange q e
    let main := if e.fallback then [] else [(e.seq, q, r.1, e.count)]
    let top := if e.fallback then q.length + q.lag + 1 else r.2
    match seqRef s q.shadow with
    | some (j, x) => if x.length < top then main ++ [(j, x, x.length, top - x.length)] else main
    | none => main

/-- The work of a model folded into one M extent (R249): one row per token, each piece with its first row. -/
def foldRows : Nat → List (Nat × Seq × Nat × Nat) → List (Nat × Nat × Seq × Nat × Nat)
  | _, [] => []
  | row, w :: t => (row, w) :: foldRows (row + w.2.2.2) t

/-- Orders pointer-list entries by KV_LEN + Q_COUNT, then handle (R250). -/
def attnBefore (x y : Nat × Nat × Seq × Nat × Nat) : Bool :=
  let n := fun (z : Nat × Nat × Seq × Nat × Nat) => z.2.2.2.1 + z.2.2.2.2
  decide (n x < n y) || (n x == n y && decide (x.2.2.1.handle.toNat ≤ y.2.2.1.handle.toNat))

def insertAttn (x : Nat × Nat × Seq × Nat × Nat) : List (Nat × Nat × Seq × Nat × Nat) → List (Nat × Nat × Seq × Nat × Nat)
  | [] => [x]
  | y :: t => if attnBefore x y then x :: y :: t else y :: insertAttn x t

/-- The 64 bytes of an entry (R250): CAUSAL, its page list, and its rows of the staging buffer, whose place the spec leaves open (log entry
130). -/
def attnBytes (s : State) (x : Nat × Nat × Seq × Nat × Nat) : List Byte :=
  let q := x.2.2.1
  toLe 4 q.handle.toNat ++ toLe 4 x.1 ++ toLe 2 x.2.2.2.2 ++ toLe 2 1 ++ toLe 4 x.2.2.2.1 ++ toLe 8 (ownModule s * 2 ^ 47 + q.pageListAddr) ++
    toLe 8 (Config.stagingRow q.part x.1) ++ List.replicate 32 0

/-- The ATTN_FWDs a step issues in each layer of a model: one per nonempty bucket, its entries in order (R250). -/
def attnOf (s : State) (part : Nat) (work : List (Nat × Seq × Nat × Nat)) (model : Nat) : List StepAttn :=
  let ks := match modelPlan s part model with | some p => p.body.kvBuckets | none => []
  let es := (foldRows 0 (work.filter fun w => w.2.1.model == model)).foldl (fun acc x => insertAttn x acc) []
  let group := fun b => es.filter fun x => (bucketFor ks (x.2.2.2.1 + x.2.2.2.2)).map (·.1) == some b
  ((List.range ks.length).filter fun b => !(group b).isEmpty).map fun b => { model := model, bucket := b, entries := (group b).map (attnBytes s) }

/-- A step with its commands: M of its projections and experts, and the pointer lists of its attention, model by model (R249, R250). -/
def issueStep (s : State) (b : BatchStep) : BatchStep :=
  let work := b.entries.flatMap (entryWork s)
  { b with
    rows := ((work.filter fun w => w.2.1.model == b.model).map fun w => w.2.2.2).sum
    attn := (work.map fun w => w.2.1.model).eraseDups.flatMap (attnOf s b.cmd.part work) }

/-- An included sequence's wait ends (R261): its run is compared with WAIT_MAX and cleared. -/
def endWait (i : Nat) (s : State) : State :=
  modSeq i (fun q => { q with waitMax := max q.waitMax (min (q.unbroken / 1000) 0xFFFFFFFF), unbroken := 0 }) s

/-! SEQ_STEP -/

/-- The refusals of SEQ_STEP. -/
def seqStepCheck (s : State) (c : Cmd) (model chunk budget result cap : Nat) : Option (Status × Nat) :=
  if (modelPlan s c.part model).isNone then some (.planRejected, 0x0F00)
  else if budget = 0 ∨ 65536 < budget ∨ chunk % 64 ≠ 0 ∨ 8192 < chunk then some (.badLength, 0xE)
  else if (tget c.part s.serving.steps).isSome then some (.locked, 0)
  else if (modelGen s c.part model).isNone then some (.genMismatch, 4)
  else checkOperand s c.part result (16 * cap) 1

/-- SEQ_STEP: composes the step, pins its generation, finds its pages, swaps its sequences in and issues its commands. The step then runs
until its commit. A CHUNK of 0 takes the default of 512. -/
def execSeqStep (c : Cmd) (model chunk budget result resultEntries : Nat) (predictNs : Nat) (s : State) : Result :=
  let cap := min resultEntries 4096
  match seqStepCheck s c model chunk budget result cap, modelGen s c.part model with
  | some e, _ => done c (ans e.1 e.2) s
  | none, none => done c (ans .genMismatch 4) s
  | none, some g =>
    let all := readyList s c.part model
    let old := drainedGen all
    let ready := all.filter fun e => e.2.oldGen == old
    let es := compose s (predictedEnd s c.part model predictNs) (if chunk = 0 then 512 else chunk) cap budget ready
    if es.isEmpty then done c (ans .emptyShape) s
    else
      let r := admitAll c.part (all.map (·.1)) es [] [] s
      let kept := r.1.map (·.seq)
      let b : BatchStep :=
        { cmd := c, model := model, gen := old.getD g, mixed := old.isNone && isMixed s c.part model, entries := r.1
          leftOut := (all.map (·.1)).filter fun i => !kept.contains i, result := result, predictNs := predictNs
          swappedOut := r.2.1.filter fun i => es.any (·.seq == i) }
      let s1 := kept.foldl (fun s i => endWait i s) r.2.2
      .next (modServing (fun v => { v with steps := tput c.part (issueStep s1 b) v.steps }) s1)

end Sys2Proof.Machine
end

