-- ==== Sys2Proof/Machine/CommitOps.lean ====
section
/-! DEFINITION. Sampling (R245) and what a batch step's commit does to each sequence (R236, R237, R254, R255, R259 to R262). -/

namespace Sys2Proof.Machine

/-! Sampling (R245) -/

/-- The index of the largest logit, the lower identifier on a tie. -/
def argmaxFrom : List Lane → Nat → Nat → Lane → Nat
  | [], _, b, _ => b
  | x :: t, i, b, v => if ltV (val32 v) (val32 x) then argmaxFrom t (i + 1) i x else argmaxFrom t (i + 1) b v

def argmax (row : List Lane) : Nat :=
  match row with
  | [] => 0
  | x :: t => argmaxFrom t 1 0 x

/-- Logits divided by the temperature (step 1). -/
def scaledLogits (temperature : Lane) (row : List Lane) : List Lane := row.map fun x => div32 (val32 x) (val32 temperature)

/-- The softmax (step 2). -/
def softmax (xs : List Lane) : List Lane := (List.range xs.length).map (Config.softmaxFn xs)

/-- The probabilities kept (step 3), each with its token, in ascending token order: all of them, or the TOP_K largest, ties at the
cut going to the lower identifier, renormalised. -/
def keptProbs (topK : Nat) (ps : List Lane) : List (Nat × Lane) :=
  let all := ps.zipIdx.map fun e => (e.2, e.1)
  if topK = 0 then all
  else
    let kept := all.filter fun e => decide (all.countP (fun x => ltV (val32 e.2) (val32 x.2) || (eqV (val32 e.2) (val32 x.2) && decide (x.1 < e.1))) < topK)
    let ks := kept.map (·.2)
    kept.zipIdx.map fun e => (e.1.1, Config.renormFn ks e.2)

/-- Step 5: the first token at which the running FP32 sum exceeds u, else the last one kept. -/
def chooseFrom (u : FVal) : List (Nat × Lane) → Lane → Nat → Nat
  | [], _, last => last
  | (i, p) :: t, sum, _ =>
    let sum1 := round32 (addV (val32 sum) (val32 p))
    if ltV u (val32 sum1) then i else chooseFrom u t sum1 i

/-- Is the temperature 0: greedy? -/
def isGreedy (q : Seq) : Bool := eqV (val32 q.temperature) (.fin false 0 0)

/-- The natural logarithm of a token's probability in the distribution it was drawn from (R245). -/
def tokenLogprob (q : Seq) (row : List Lane) (token : Nat) : Lane :=
  if isGreedy q then Config.lnFn (Config.softmaxFn row token)
  else
    Config.lnFn (match (keptProbs q.topK (softmax (scaledLogits q.temperature row))).find? fun e => e.1 == token with
      | some e => e.2
      | none => 0)

/-- The token a logits row selects at a position of the sequence with an entry index. -/
def sampleToken (q : Seq) (i pos : Nat) (row : List Lane) : Nat :=
  if isGreedy q then argmax row
  else
    let draw := counterDraw q.seed (BitVec.ofNat 32 pos) (BitVec.ofNat 32 i) 0x5350 0
    chooseFrom (.fin false draw.toNat (-32)) (keptProbs q.topK (softmax (scaledLogits q.temperature row))) 0 0

/-! What a step emits (R255) -/

/-- An emitted token: identifier, LOGPROB and the SPECULATIVE flag. -/
abbrev Emitted := BitVec 32 × BitVec 32 × Nat

def emitAs (q : Seq) (row : List Lane) (token flags : Nat) : Emitted := (BitVec.ofNat 32 token, tokenLogprob q row token, flags)

/-- GREEDY: candidates are accepted while they equal the samples; the first other sample ends the run. pos is the position decided. -/
def emitGreedy (q : Seq) (i : Nat) : Nat → List (BitVec 32) → List (List Lane) → List Emitted
  | _, _, [] => []
  | pos, [], row :: _ => [emitAs q row (sampleToken q i pos row) 0]
  | pos, t :: ts, row :: rows =>
    let x := sampleToken q i pos row
    if BitVec.ofNat 32 x = t then emitAs q row x 4 :: emitGreedy q i (pos + 1) ts rows else [emitAs q row x 0]

/-- EXTERNAL: every candidate is committed, and the token after them is sampled. -/
def emitExternal (q : Seq) (i : Nat) : Nat → List (BitVec 32) → List (List Lane) → List Emitted
  | _, _, [] => []
  | pos, [], row :: _ => [emitAs q row (sampleToken q i pos row) 0]
  | pos, t :: ts, row :: rows => (t, tokenLogprob q row t.toNat, 4) :: emitExternal q i (pos + 1) ts rows

/-- Is a token the one that ends a sequence? -/
def isStop (q : Seq) (t : BitVec 32) : Bool := q.stopTok != 0xFFFFFFFF && t == q.stopTok

/-- Tokens up to the first that ends the sequence. -/
def cutAtStop (q : Seq) : List Emitted → List Emitted
  | [] => []
  | e :: t => if isStop q e.1 then [e] else e :: cutAtStop q t

/-- What a decode entry emits after its last known position: cut at STOP_TOKEN and where LENGTH + 1 reaches MAX_LENGTH (R236; an
EXTERNAL verify commits its candidates whatever they are, log entry 50). -/
def emits (q : Seq) (e : StepEntry) (i : Nat) (rows : List (List Lane)) : List Emitted :=
  let l := q.length + q.lag
  let ts := match q.verify with
    | some (ts, ext) =>
      if e.fallback then cutAtStop q (emitGreedy q i (l + 1) [] rows)
      else if ext then emitExternal q i (l + 1) (ts.take (verifyTake q)) rows
      else cutAtStop q (emitGreedy q i (l + 1) (ts.take (verifyTake q)) rows)
    | none => cutAtStop q (emitGreedy q i (l + 1) [] rows)
  ts.take (q.maxLength - 1 - l)

/-- Logits rows an entry's commit needs. -/
def rowsNeeded (q : Seq) (e : StepEntry) : Nat :=
  if e.prefill then if !q.recompute && q.prefilled + e.count == q.promptLength then 1 else 0
  else if e.fallback then 1
  else if e.count < 1 + q.lag then 0
  else 1 + verifyTake q

/-- The rows a step's logits hold for a sequence. -/
def rowsOf (logits : List StepLogits) (q : Seq) : List (List Lane) :=
  match logits.find? fun x => x.seq == q.handle with
  | some x => x.rows
  | none => []

/-- The staging rows of a step's new positions, by layer (R254). -/
def stagedOf (logits : List StepLogits) (q : Seq) : List (List Byte) :=
  match logits.find? fun x => x.seq == q.handle with
  | some x => x.kv
  | none => []

/-- Has every scatter of a sequence's new positions completed (R254): the rows of every layer are there? -/
def scattered (s : State) (logits : List StepLogits) (w : Nat × Seq × Nat × Nat) : Bool :=
  match modelPlan s w.2.1.part w.2.1.model with
  | some p => (stagedOf logits w.2.1).map List.length == List.replicate p.body.layers (w.2.2.2 * p.body.bptl)
  | none => true

/-- Has the step produced what its commit needs: the logits of every entry, and the completion of every scatter? -/
def logitsOk (s : State) (b : BatchStep) (logits : List StepLogits) : Bool :=
  (b.entries.all fun e => match tget e.seq s.serving.seqs with
    | some q =>
      let rows := (rowsOf logits q).take (rowsNeeded q e)
      rows.length == rowsNeeded q e && rows.all fun r => !r.isEmpty
    | none => true) && (b.entries.flatMap (entryWork s)).all (scattered s logits)

/-! The append (R254) -/

/-- The scatter of a layer's staging rows: row i to offset(KV_LEN + i, l) of the window (R238). -/
def scatterLayer (block bptl l : Nat) (ps : List PageRef) : Nat → Nat → List Byte → State → State
  | _, 0, _, s => s
  | pos, n + 1, bs, s =>
    scatterLayer block bptl l ps (pos + 1) n (bs.drop bptl)
      (writeWindow ps 0 (pos / 64 * block + l * 64 * bptl + pos % 64 * bptl) (bs.take bptl) s)

/-- The append of a sequence's new keys and values, layer by layer. -/
def appendRows (logits : List StepLogits) (s : State) (w : Nat × Seq × Nat × Nat) : State :=
  match modelPlan s w.2.1.part w.2.1.model with
  | some p => (stagedOf logits w.2.1).zipIdx.foldl (fun s x => scatterLayer (blockSize p) p.body.bptl x.2 w.2.1.pages w.2.2.1 w.2.2.2 x.1 s) s
  | none => s

/-! Deadlines (R260, R262) -/

/-- The deadline after a number of emitted tokens. -/
def deadlineAfter (q : Seq) (n : Nat) : Word := if q.deadline = 0 then 0 else q.deadline + BitVec.ofNat 64 (n * (q.interval * 1000))

/-- Of n tokens emitted now, how many come after their deadline. -/
def missesOf (now : Word) (q : Seq) (n : Nat) : Nat :=
  (List.range n).countP fun k => q.deadline != 0 && decide ((deadlineAfter q k).toNat < now.toNat)

/-! The commit of one entry (R254) -/

/-- The records of emitted tokens from a position on (R237, R248). -/
def writeEmitted (q : Seq) (g : BitVec 16) (extra : Nat) : Nat → List Emitted → State → State
  | _, [], s => s
  | pos, e :: t, s =>
    writeEmitted q g extra (pos + 1) t (writeRecordAt q pos (recordOf e.1 e.2.1 g g (e.2.2 + extra)) s)

/-- The state a sequence goes on in after emitting up to a last known position (R236). -/
def stateAfter (q : Seq) (last : Option (BitVec 32)) (known : Nat) : SeqState :=
  match last with
  | some t => if isStop q t || decide (q.maxLength ≤ known + 1) then .finished else .decode
  | none => q.state

/-- Brings a sequence's shadow up to its positions (R259). -/
def catchUpShadow (i : Nat) (s : State) : State :=
  match tget i s.serving.seqs with
  | none => s
  | some q =>
    match seqRef s q.shadow with
    | some (j, _) => modSeq j (fun x => { x with
        length := q.length + q.lag, prefilled := min (q.length + q.lag) q.promptLength, pendingTok := q.pendingTok
        gen := (modelGen s x.part x.model).getD x.gen
        oldestKv := if x.length = 0 then (modelGen s x.part x.model).getD 0 else x.oldestKv }) s
    | none => s

/-- A recompute chunk (R287): GEN_KV is rewritten, and the other record fields stay. -/
def commitRecompute (g : BitVec 16) (e : StepEntry) (q : Seq) (s : State) : State :=
  let n := q.prefilled + e.count
  let gens := gensAfter q.blockGens q.gen g q.promptLength q.prefilled n
  modSeq e.seq (fun q =>
    if n < q.length then { q with prefilled := n, gen := g, blockGens := gens, oldestKv := if q.prefilled = 0 then g else q.oldestKv }
    else { q with
      blockGens := gens
      prefilled := min q.length q.promptLength, gen := g, recompute := false
      oldestKv := if q.prefilled = 0 then g else q.oldestKv
      state := if q.length < q.promptLength then .prefill else .decode }) (writeGenKv q g q.prefilled e.count s)

/-- A prompt chunk: its records, and at the prompt's end the first token. -/
def commitPrefill (g : BitVec 16) (e : StepEntry) (q : Seq) (ts : List Emitted) (s : State) : State :=
  let n := q.prefilled + e.count
  let s1 := writeEmitted q g 0 n ts (writePromptRecords q g q.prefilled e.count s)
  modSeq e.seq (fun q => { q with
    prefilled := n, length := n, gen := g, blockGens := gensAfter q.blockGens q.gen g q.promptLength q.prefilled n
    oldestKv := if q.length = 0 then g else q.oldestKv
    pendingTok := match ts.getLast? with | some t => t.1 | none => q.pendingTok
    deadline := deadlineAfter q ts.length
    state := stateAfter q (ts.getLast?.map (·.1)) n }) s1

/-- A decode entry on its main model: the tokens a fall-back emitted first, then PENDING and its candidates. -/
def commitDecode (g : BitVec 16) (e : StepEntry) (q : Seq) (ts : List Emitted) (s : State) : State :=
  if e.count < 1 + q.lag then
    modSeq e.seq (fun q => { q with length := q.length + e.count, lag := q.lag - e.count, gen := g }) (writeGenKv q g q.length e.count s)
  else
    let l := q.length + q.lag
    let s1 := writeEmitted q g 0 (l + 1) ts (writeGenKv q g q.length (1 + q.lag) s)
    modSeq e.seq (fun q => { q with
      length := l + ts.length, lag := 0, gen := g, verify := none
      pendingTok := match ts.getLast? with | some t => t.1 | none => q.pendingTok
      deadline := deadlineAfter q ts.length
      state := stateAfter q (ts.getLast?.map (·.1)) (l + ts.length) }) s1

/-- A decode entry on its fall-back model (R260): the main window does not grow. -/
def commitFallback (g : BitVec 16) (e : StepEntry) (q : Seq) (ts : List Emitted) (s : State) : State :=
  let l := q.length + q.lag
  let fg := match seqRef s q.shadow with | some (_, x) => (modelGen s x.part x.model).getD g | none => g
  modSeq e.seq (fun q => { q with
    lag := q.lag + ts.length, gen := g, verify := none, fallbackSteps := satAdd 0xFFFF q.fallbackSteps 1
    pendingTok := match ts.getLast? with | some t => t.1 | none => q.pendingTok
    deadline := deadlineAfter q ts.length
    state := stateAfter q (ts.getLast?.map (·.1)) (l + ts.length) }) (writeEmitted q fg 2 (l + 1) ts s)

/-- The tokens an entry emits. -/
def entryEmits (q : Seq) (e : StepEntry) (rows : List (List Lane)) : List Emitted :=
  if e.prefill then
    match rows with
    | row :: _ => if rowsNeeded q e = 1 then [emitAs q row (sampleToken q e.seq q.promptLength row) 0] else []
    | [] => []
  else if rowsNeeded q e = 0 then []
  else emits q e e.seq rows

/-- A client's record after a commit: tokens, those of a fall-back, and misses. -/
def countTokens (n misses : Nat) (fallback : Bool) (x : Client) : Client :=
  { x with
    tokens := x.tokens + n, fallbackTokens := if fallback then satAdd 0xFFFFFFFF x.fallbackTokens n else x.fallbackTokens
    deadlineMisses := satAdd 0xFFFFFFFF x.deadlineMisses misses }

/-- Commits one entry, in one update: records, fields, prompt nodes and figures. Answers how many tokens it emitted. -/
def commitEntry (b : BatchStep) (logits : List StepLogits) (acc : State × List (Nat × Nat)) (e : StepEntry) : State × List (Nat × Nat) :=
  let s := acc.1
  match tget e.seq s.serving.seqs with
  | none => acc
  | some q =>
    let ts := entryEmits q e (rowsOf logits q)
    let s1 :=
      if e.prefill then if q.recompute then commitRecompute b.gen e q s else commitPrefill b.gen e q ts s
      else if e.fallback then commitFallback b.gen e q ts s
      else commitDecode b.gen e q ts s
    let s2 := catchUpShadow e.seq (insertNodes e.seq s1)
    (postClient e.seq (modClient q.part q.client (countTokens ts.length (missesOf s.time.now q ts.length) e.fallback) s2),
      acc.2 ++ [(e.seq, ts.length)])

/-- A step's result record (R254; log entry 51). -/
def resultBytes (q : Seq) (st : Status) (tokens : Nat) (g : BitVec 16) : List Byte :=
  toLe 4 q.handle.toNat ++ toLe 2 (statusCode st) ++ toLe 2 tokens ++ toLe 4 q.length ++ toLe 2 g.toNat ++ [0, 0]

/-- The result records of a step: its entries, then the sequences it swapped out. -/
def writeResults (b : BatchStep) (emitted : List (Nat × Nat)) (s : State) : State :=
  let one := fun (i : Nat) (st : Status) => match tget i s.serving.seqs with
    | some q => resultBytes q st (tgetD i 0 emitted) b.gen
    | none => List.replicate 16 0
  writeGlobal b.result
    (b.entries.flatMap (fun e => one e.seq (if e.fallback then .deadlineFallback else .ok)) ++
      b.swappedOut.flatMap fun i => one i .swappedOut) s

/-- Adds a step's duration to the sequences it left out (R261). -/
def addWaits (b : BatchStep) (ns : Nat) (s : State) : State :=
  b.leftOut.foldl (fun s i => match tget i s.serving.seqs with
    | none => s
    | some q =>
      modClient q.part q.client (fun x => { x with waitTotal := x.waitTotal + ns })
        (modSeq i (fun q => { q with waitTotal := q.waitTotal + ns, unbroken := q.unbroken + ns }) s)) s

/-- The last 16 steps' durations, measured and predicted (R260). -/
def addRatio (part : Nat) (b : BatchStep) (ns : Nat) (s : State) : State :=
  modServing (fun v => { v with
    ratios := tmod (part * 256 + b.model) [] (fun l => ((ns, b.predictNs) :: l).take 16) v.ratios }) s

/-- Applies a command the step held back (R249). -/
def applyHeld (h : Held) (s : State) : State :=
  match h with
  | .release c seq => onSeq c seq s fun i q => tryRetires q.part (finish c (ans .ok) (releaseSeq i s))
  | .rollback c seq n t => onSeq c seq s fun i q => rollBack c i q n t s
  | .fork c parent seed tokenRec => onSeq c parent s fun i q => forkSeq c i q seed tokenRec s
  | .verify c seq toks external => onSeq c seq s fun i q => attachVerify c i q toks external s
  | .deadline c seq interval deadline fallback => onSeq c seq s fun i q => setDeadline c i q interval deadline fallback s
  | .swapOut c seq host => onSeq c seq s fun i q => swapSeqOut c i q host s
  | .swapIn c seq => onSeq c seq s fun i q => swapSeqIn c i q s

/-- Ends a step with its answer: the step is gone, its ring has a boundary due (R300), waiting repaints apply (R284), held commands
run in order, and retirements that waited end. -/
def endBatch (part : Nat) (b : BatchStep) (a : Answer) (s : State) : State :=
  let s1 := modServing (fun v => { v with steps := tdel part v.steps }) (finish b.cmd a s)
  let s2 := modRing b.cmd.fn b.cmd.ring (fun r => { r with due := r.due ++ [b.cmd.idx] }) s1
  let s3 := boundary part b.model s2
  tryRetires part (b.held.foldl (fun s h => applyHeld h s) s3)

/-- A step whose command failed (R254): nothing commits, and the sequences that command named fault. -/
def failBatch (part : Nat) (b : BatchStep) (st : Status) (named : List (BitVec 32)) (s : State) : State :=
  let s1 := b.entries.foldl (fun s e => match tget e.seq s.serving.seqs with
    | some q => if named.contains q.handle then modSeq e.seq (fun q => { q with state := .faulted }) s else s
    | none => s) s
  endBatch part b (ans st) s1

/-- A step that commits: its scatters have completed, and every sequence is brought up in one update. -/
def commitBatch (part : Nat) (b : BatchStep) (logits : List StepLogits) (ns : Nat) (s : State) : State :=
  let s0 := (b.entries.flatMap (entryWork s)).foldl (appendRows logits) s
  let r := b.entries.foldl (commitEntry b logits) (s0, [])
  let s1 := writeResults b r.2 r.1
  let s2 := if b.mixed then modPart part (fun p => { p with mixedSteps := p.mixedSteps + 1 }) s1 else s1
  endBatch part b { status := .ok, words := [BitVec.ofNat 32 b.entries.length, BitVec.ofNat 32 ((r.2.map (·.2)).sum), b.gen.setWidth 32] }
    (addRatio part b ns s2)

end Sys2Proof.Machine
end

