-- ==== Sys2Proof/Machine/Generations.lean ====
section
/-! DEFINITION. The commands and events of weight generations (R278 to R290): staging, its checksums and stalls, the pre-pass,
flips, retirement and the drain timeout. -/

namespace Sys2Proof.Machine

/-- The bytes of a chunk of a standby image (R280): 2 MiB, the last one partial. -/
def chunkBytes : Nat := 0x200000
def chunkLen (g : Staging) (i : Nat) : Nat := min chunkBytes (g.bytes - i * chunkBytes)

/-! GEN_STAGE (R280, R290) -/

/-- One entry of a layer list: layer, image bytes, CRC table. -/
def layerEntry (bs : List Byte) : Nat × Nat × Nat := (fieldAt bs 0 2, fieldAt bs 2 6, fieldAt bs 8 8)

/-- Removes a GEN_STAGE: its STAGING layers become EMPTY (R280, R282, R283). -/
def closeStaging (part : Nat) (g : StageCmd) (s : State) : State :=
  modGens part (fun x => { x with
    stagings := x.stagings.filter (· != g)
    layers := x.layers.map fun e =>
      if e.1 / 65536 == g.model && g.layers.contains (e.1 % 65536) && e.2.standby.state == .staging && e.2.standby.gen == g.gen then
        (e.1, { e.2 with standby := {}, staging := none })
      else e }) s

/-- Ends a GEN_STAGE early. -/
def abandonStage (part : Nat) (g : StageCmd) (a : Answer) (s : State) : State := finish g.cmd a (closeStaging part g s)

/-- Layers of a GEN_STAGE that are COMPLETE. -/
def stagedCount (s : State) (part : Nat) (g : StageCmd) : Nat := (g.layers.filter (isComplete s part g.model g.gen)).length

/-- A GEN_STAGE that ends early for its stall, with the count of layers COMPLETE. -/
def stageAnswer (s : State) (part : Nat) (g : StageCmd) (st : Status) (detail : Nat) : Answer :=
  { status := st, detail := detail, words := [BitVec.ofNat 32 (stagedCount s part g)] }

/-- May a partition stage from a source address: streamed, its own memory, or that of a partition management linked to it? -/
def sourceOk (s : State) (part source bytes : Nat) : Bool :=
  source == 0 || (localRange s part source bytes).isSome ||
    (List.range 16).any fun k => (partOf s part).link.getLsbD k && (localRange s k source bytes).isSome

/-- Opens one layer's standby slot, where there is a place for it. -/
def openLayer (part model : Nat) (gen : BitVec 16) (e : Nat × Nat × Nat) (s : State) : Option State :=
  (placeFor s part e.2.1).map fun addr =>
    let w : WeightSlot := { state := .staging, gen := gen, addr := addr, bytes := e.2.1 }
    dropVectors part w (modLayer part model e.1 (fun l => { l with
      standby := w, staging := some { bytes := e.2.1, crcTable := e.2.2, chunks := ceilDiv e.2.1 chunkBytes } }) s)

/-- GEN_STAGE's refusals in order. -/
def stageCheck (s : State) (c : Cmd) (gen stallMs layerList layers : Nat) (notice : BitVec 32) (model source : Nat) (es : List (Nat × Nat × Nat)) : Option (Status × Nat) :=
  let part := c.part
  let g := BitVec.ofNat 16 gen
  let bytes := (es.map fun e => ceilDiv e.2.1 64 * 64).sum
  let freed := (es.map fun e => ceilDiv (layerAt s part model e.1).standby.bytes 64 * 64).sum
  if stallMs = 0 ∨ 60000 < stallMs ∨ layers = 0 then some (.badLength, 0xE)
  else if handleRef notice = .bad then some (.badLength, 4)
  else if !operandOk s part layerList (24 * layers) then some (.badLength, 1)
  else if globalPoisoned s layerList (16 * layers) then some (.poisoned, 0)
  else if es.any fun e => !operandOk s part e.2.2 (8 * ceilDiv e.2.1 chunkBytes) then some (.badLength, 1)
  else if es.any fun e =>
      let w := (layerAt s part model e.1).active
      w.state == .active && !genNewer g w.gen then some (.genMismatch, 1)
  else if es.any fun e =>
      let w := (layerAt s part model e.1).standby
      w.state == .previous && genInUse s part model w.gen then some (.locked, 0)
  else if !sourceOk s part source (es.map fun e => e.2.1).sum then some (.tenantViolation, 0)
  else if placeRoom s part + freed < bytes then some (.quota, 0)
  else none

/-- GEN_STAGE. -/
def execGenStage (c : Cmd) (gen stallMs layerList layers : Nat) (notice : BitVec 32) (noticeModule model source : Nat) (s : State) : Result :=
  let es := (List.range layers).map fun i => layerEntry (readGlobal s (layerList + 16 * i) 16)
  match stageCheck s c gen stallMs layerList layers notice model source es with
  | some e => done c (ans e.1 e.2) s
  | none =>
    let g : StageCmd :=
      { cmd := c, model := model, gen := BitVec.ofNat 16 gen, layers := es.map (·.1), notice := notice, noticeModule := noticeModule, source := source }
    let hit := (partOf s c.part).gens.stagings.filter fun x => x.model == model && x.layers.any fun l =>
      g.layers.contains l && (layerAt s c.part model l).standby.state == .staging
    let s1 := hit.foldl (fun s x => abandonStage c.part x (ans .genMismatch 3) s) s
    let s2 := es.foldl (fun s e => modLayer c.part model e.1 (fun l => { l with standby := {}, staging := none }) s) s1
    match es.foldl (fun o e => o.bind (openLayer c.part model g.gen e)) (some s2) with
    | none => done c (ans .quota) s
    | some s3 =>
      let s4 := es.zipIdx.foldl (fun s e =>
        writeGlobal (layerList + 16 * layers + 8 * e.2) (toLe 8 (ownModule s * 2 ^ 47 + (layerAt s c.part model e.1.1).standby.addr)) s) s3
      .next (modGens c.part (fun x => { x with stagings := x.stagings ++ [g] }) s4)

/-! Chunks (R281, R282, R290) -/

/-- The GEN_STAGE that stages a layer. -/
def stageOf (s : State) (part model layer : Nat) : Option StageCmd :=
  (partOf s part).gens.stagings.find? fun g => g.model == model && g.layers.contains layer

/-- The chunk checked next (R281): in order, and then the lowest one marked missing (log entry 43). -/
def nextChunkOf (g : Staging) : Option Nat :=
  if g.next < g.chunks then some g.next else (List.range g.chunks).find? fun i => !g.verified.contains i

/-- Where a layer's image starts in the source buffer: the images follow one another in list order (R290). -/
def sourceOffset (s : State) (part : Nat) (g : StageCmd) (layer : Nat) : Nat :=
  ((g.layers.takeWhile (· != layer)).map fun l => (layerAt s part g.model l).standby.bytes).sum

/-- Copies a chunk out of the source buffer (R290). -/
def copyChunk (part : Nat) (g : StageCmd) (layer i : Nat) (t : Staging) (s : State) : State :=
  if g.source = 0 then s
  else
    writeSpace .hbm ((layerAt s part g.model layer).standby.addr + i * chunkBytes)
      (readGlobal s (g.source + sourceOffset s part g layer + i * chunkBytes) (chunkLen t i)) s

/-- Does a chunk's CRC-64 equal its table entry? -/
def chunkOk (s : State) (part model layer i : Nat) (t : Staging) : Bool :=
  crc64 (readGlobal s ((layerAt s part model layer).standby.addr + i * chunkBytes) (chunkLen t i)) == readNum s (t.crcTable + 8 * i) 8

def modStaging (part model layer : Nat) (f : Staging → Staging) (s : State) : State :=
  modLayer part model layer (fun l => { l with staging := l.staging.map f }) s

/-- A chunk that fails its check (R282): missing, the counter decremented, the sender notified; a third failure ends the
command. -/
def chunkFails (part : Nat) (g : StageCmd) (layer i : Nat) (t : Staging) (s : State) : State :=
  let fails := tgetD i 0 t.fails + 1
  let s1 := raiseAny part 0x0410 g.notice g.noticeModule (BitVec.ofNat 64 (layer * 2 ^ 32 + i))
    (modStaging part g.model layer (fun t => { t with counter := t.counter - 1, fails := tput i fails t.fails }) s)
  if 3 ≤ fails then abandonStage part g (ans .genChecksum layer) s1 else s1

/-- STAGING_CHUNK: an increment of a layer's staging counter, and the check of its next chunk. -/
def execStagingChunk (part model layer : Nat) (s : State) : Result :=
  match stageOf s part model layer, (layerAt s part model layer).staging with
  | some g, some t =>
    if (layerAt s part model layer).standby.state ≠ .staging then .next s
    else if t.chunks < t.counter + 1 then .next (abandonStage part g (ans .genChecksum 2) s)
    else
      match nextChunkOf t with
      | none => .next (modStaging part model layer (fun t => { t with counter := t.counter + 1 }) s)
      | some i =>
        let s1 := copyChunk part g layer i t (modStaging part model layer (fun t => { t with counter := t.counter + 1, next := max t.next (i + 1) }) s)
        if chunkOk s1 part model layer i t then .next (modStaging part model layer (fun t => { t with verified := t.verified ++ [i] }) s1)
        else .next (chunkFails part g layer i t s1)
  | _, _ => .next s

/-- STAGING_STALL_TIMEOUT (R283): the model's oldest staging ends. -/
def execStagingStallTimeout (part model : Nat) (s : State) : Result :=
  match (partOf s part).gens.stagings.find? fun g => g.model == model with
  | some g => .next (abandonStage part g (stageAnswer s part g .timeout 0) s)
  | none => .next s

/-- LAYER_PRE_PASS (R61, R283): the pre-pass of a layer whose chunks are all verified, which becomes COMPLETE; the command ends when every listed layer
is. -/
def execLayerPrePass (part model layer : Nat) (s : State) : Result :=
  match stageOf s part model layer, (layerAt s part model layer).staging with
  | some g, some t =>
    if (layerAt s part model layer).standby.state ≠ .staging ∨ t.verified.length < t.chunks then .next s
    else
      let s0 := prePassLayer part (layerAt s part model layer) s
      let s1 := modLayer part model layer (fun l => { l with standby := { l.standby with state := .complete }, staging := none }) s0
      if g.layers.all (isComplete s1 part model g.gen) then
        let s2 := finish g.cmd (stageAnswer s1 part g .ok 0) (modGens part (fun x => { x with stagings := x.stagings.filter (· != g) }) s1)
        .next (boundary part model s2)
      else .next (boundary part model s1)
  | _, _ => .next s

/-! GEN_FLIP, REPAINT and their timeouts (R284, R285) -/

/-- GEN_FLIP: it waits for its boundary, which is now while no step of the model runs. -/
def execGenFlip (c : Cmd) (model : Nat) (atomic : Bool) (gen _timeout : Nat) (layers : List Nat) (s : State) : Result :=
  let f : FlipCmd := { cmd := c, model := model, atomic := atomic, gen := BitVec.ofNat 16 gen, layers := layers }
  if atomic ∧ (atomicLayers s c.part f).any (isOther s c.part model f.gen) then done c (ans .genMismatch 2) s
  else .next (boundary c.part model (modGens c.part (fun g => { g with flips := g.flips ++ [f] }) s))

/-- REPAINT: a boundary of a model. -/
def execRepaint (part model : Nat) (s : State) : Result := .next (boundary part model s)

/-- GEN_FLIP_TIMEOUT: the model's oldest waiting flip ends; layers not flipped stay. -/
def execGenFlipTimeout (part model : Nat) (s : State) : Result :=
  match (partOf s part).gens.flips.find? fun f => f.model == model with
  | some f => .next (finish f.cmd (ans .timeout) (modGens part (fun g => { g with flips := g.flips.filter (· != f) }) s))
  | none => .next s

/-! GEN_RETIRE and the drain timeout (R287, R289) -/

/-- GEN_RETIRE: it waits while a step or a draining sequence uses the generation. -/
def execGenRetire (c : Cmd) (model gen _timeout : Nat) (s : State) : Result :=
  .next (tryRetires c.part (modGens c.part (fun g => { g with retires := g.retires ++ [(c, model, BitVec.ofNat 16 gen)] }) s))

/-- GEN_RETIRE_TIMEOUT: the model's oldest waiting retirement ends; its slots stay PREVIOUS. -/
def execGenRetireTimeout (part model : Nat) (s : State) : Result :=
  match (partOf s part).gens.retires.find? fun r => r.2.1 == model with
  | some r => .next (finish r.1 (ans .timeout) (modGens part (fun g => { g with retires := g.retires.filter (· != r) }) s))
  | none => .next s

/-- DRAIN_TIMEOUT: sequences still on an old generation are switched to RECOMPUTE. -/
def execDrainTimeout (part model : Nat) (s : State) : Result :=
  .next (tryRetires part (modServing (fun v => { v with seqs := v.seqs.map fun e =>
    if e.2.part == part && e.2.model == model && e.2.oldGen.isSome then (e.1, recomputeSeq e.2) else e }) s))

end Sys2Proof.Machine
end

