-- ==== Sys2Proof/Machine/HostOps.lean ====
section
/-! DEFINITION. The host interface's shared operations (R296 to R307, R347): rings, intake checks, which job may start,
replies and completion signals. -/

namespace Sys2Proof.Machine

/-- Entries of a ring (R296). -/
def ringSize (r : Ring) : Nat := 2 ^ r.log2Size

/-- Is the ring pair serving: enabled, without error (R301)? -/
def ringLive (r : Ring) : Bool := r.enabled && !r.ringError

/-- Replies written and not yet consumed (R299). -/
def unconsumed (r : Ring) : Nat := (r.completed - r.consumed).toNat

/-- Is the completion ring full (R299)? -/
def ringFull (r : Ring) : Bool := ringSize r ≤ unconsumed r

/-- A discarded doorbell or window write (R192, R193, R295, R297, R300). -/
def discardBell (fn ring offset : Nat) (s : State) : State :=
  note 0x0606 (fun e => { e with source := fnUnit fn, part := if fn = 16 then 0xFF else fn, arg := BitVec.ofNat 64 offset })
    (modRing fn ring (fun r => { r with discards := satAdd 0xFFFFFFFF r.discards 1 }) s)

/-- The count a doorbell of an epoch stands for: as it is at this epoch, less the last realignment at the one before,
none at any other, or with bits [63:48] set (R297, R300; log entry 27). -/
def bellCount (r : Ring) (value : Word) (realign : BitVec 32) : Option (BitVec 32) :=
  let epoch : BitVec 16 := (value >>> 32).truncate 16
  let count : BitVec 32 := value.truncate 32
  if value.toNat / 2 ^ 48 ≠ 0 then none else
  if epoch = r.epoch then some count
  else if epoch = r.epoch - 1 then some (count - realign)
  else none

/-! The completion record (R299) -/

/-- The 64 bytes of a completion record. -/
def recordBytes (now : Word) (r : Ring) : List Byte :=
  toLe 4 r.completed.toNat ++ toLe 4 r.fetched.toNat ++ toLe 2 r.epoch.toNat ++ toLe 2 (if r.ringError then 1 else 0) ++
    toLe 4 r.discards ++ toLe 8 now.toNat ++ toLe 4 r.realign.toNat ++ toLe 4 r.realignCpl.toNat ++ List.replicate 32 0

/-- Writes a ring's completion record to host memory. -/
def writeRecord (fn ring : Nat) (s : State) : State :=
  let r := ringOf s fn ring
  writeSpace .host r.recordAddr.toNat (recordBytes s.time.now r) s

/-! Commands out of packets -/

/-- The command a packet is: a virtual function's acts for its own partition, whatever PARTITION a refused packet names (R179, R305). -/
def cmdOf (fn ring : Nat) (p : Packet) : Cmd :=
  { fn := fn, ring := ring, idx := p.idx, tag := p.tag, part := if fn = 16 then p.part.toNat else fn, trueColour := p.flags.getLsbD 0
    msix := p.flags.getLsbD 2, lane := p.flags.toNat / 16, completion := p.completion }

/-- Does the packet carry its block by pointer (R303)? -/
def usesPtr (p : Packet) : Bool := p.flags.getLsbD 1

/-- The pointer of a packet's block. -/
def blockPtr (p : Packet) : Nat := fieldAt p.params 0 8

/-- A packet's parameter block: inline, from the partition's HBM, or as host memory answers (R304). -/
def blockOf (s : State) (p : Packet) (hostBlock : List Byte) : List Byte :=
  if usesPtr p then
    match place s (blockPtr p) with
    | .mem .host _ => bytesAt hostBlock 0 (p.plen.toNat * 16)
    | _ => readGlobal s (blockPtr p) (p.plen.toNat * 16)
  else p.params

/-- Check 4 of R305. -/
def lengthOk (i : OpInfo) (p : Packet) : Bool :=
  p.plen.toNat == (i.size + 15) / 16 && (usesPtr p || decide (p.plen.toNat ≤ 3))

/-- Check 5 of R305: alignment and range of a pointer block. -/
def pointerCheck (s : State) (p : Packet) : Option (Status × Nat) :=
  if !usesPtr p then none
  else if blockPtr p % 16 ≠ 0 then some (.badAlign, 8)
  else
    match localRange s p.part.toNat (blockPtr p) (p.plen.toNat * 16) with
    | some (.hbm, k) => if readsPoison s .hbm k (p.plen.toNat * 16) then some (.poisoned, 0) else none
    | some (.host, _) => none
    | _ => some (.badLength, 9)

/-- Check 6 of R305: the completion handle. -/
def completionCheck (s : State) (p : Packet) : Option (Status × Nat) :=
  match handleRef p.completion with
  | .none => none
  | .bad => some (.badLength, 4)
  | .object i => if objPart s i = some p.part.toNat then none else some (.tenantViolation, 0)
  | .flag n _ =>
    if ((physOf s n).bind (partOfCore s)) = some p.part.toNat then none else some (.tenantViolation, 0)
  | .hostWord e => if (tget (hostWordKey p.part.toNat e) s.hostWords).isSome then none else some (.tenantViolation, 0)

/-- Check 7 of R305: reserved bits and bytes, and listed fields. -/
def fieldsOk (i : OpInfo) (p : Packet) (block : List Byte) : Bool :=
  !p.flags.getLsbD 3 && (!usesPtr p || (p.params.drop 8).all (· == 0)) && blockOk i p.plen.toNat block

/-- The intake checks in order (R305): the first that fails, with whether the completion object is still signalled. -/
def intake (s : State) (fn : Nat) (p : Packet) (hostBlock : List Byte) : Option (Status × Nat × Bool) :=
  match opInfo p.opcode.toNat with
  | none => some (.badOpcode, 0, true)
  | some i =>
    if i.pfOnly ∧ fn ≠ 16 then some (.badOpcode, 1, true)
    else if 16 ≤ p.part.toNat ∨ (fn ≠ 16 ∧ p.part.toNat ≠ fn) then some (.tenantViolation, 1, true)
    else if !lengthOk i p then some (.badLength, 8, true)
    else
      match pointerCheck s p with
      | some e => some (e.1, e.2, true)
      | none =>
        match completionCheck s p with
        | some e => some (e.1, e.2, false)
        | none => if fieldsOk i p (blockOf s p hostBlock) then none else some (.badLength, 7, true)

/-! Which job may start (R298, R347, R348) -/

/-- Is a packet's class one that starts only while its job holds the cores (R347)? -/
def needsCores (p : Packet) : Bool :=
  let k := p.opcode.toNat / 256
  k == 1 || k == 2 || (decide (4 ≤ k) && decide (k ≤ 9))

/-- The rings whose packets belong to a job of a partition (R346). -/
def ringsOfJob (part j : Nat) : List (Nat × Nat) :=
  if j = 4 then (List.range 4).map fun r => (16, r) else [(part, j)]

/-- Does a job have a command waiting to start? -/
def jobWaits (s : State) (part j : Nat) : Bool :=
  (ringsOfJob part j).any fun r => (ringOf s r.1 r.2).packets.any fun p => p.part.toNat == part

/-- Does a job have a started command? -/
def jobStarted (s : State) (part j : Nat) : Bool :=
  (ringsOfJob part j).any fun r => (ringOf s r.1 r.2).started.any fun c => c.part == part

/-- Does a job want the cores: it has a restore that waits, or a waiting command and no stop (R348, R356)? -/
def jobWants (s : State) (part j : Nat) : Bool :=
  let x := jobOf (partOf s part) j
  x.restoring.isSome || (jobWaits s part j && !x.stopped)

/-- Does a job run: it has a started command and is not stopped? -/
def jobRuns (s : State) (part j : Nat) : Bool := jobStarted s part j && !(jobOf (partOf s part) j).stopped

/-- The next job after one, counting upward and wrapping from 4 to 0, that wants the cores (R348). -/
def nextJobAfter (s : State) (part h : Nat) : Option Nat := ((List.range 5).map fun k => (h + 1 + k) % 5).find? fun j => jobWants s part j

/-- Is a job done with the cores: it runs nothing, and its save has completed or it wants them no more? -/
def jobDone (s : State) (part j : Nat) : Bool :=
  let x := jobOf (partOf s part) j
  !jobRuns s part j && !x.saving && (x.stopped || !jobWants s part j)

/-- May a job take or keep the cores now (R347, R348): it holds them, no job does, or the holder is done with them and the job is
next? -/
def mayHold (s : State) (part j : Nat) : Bool :=
  match (partOf s part).holder with
  | none => true
  | some h => h == j || (jobDone s part h && nextJobAfter s part h == some j)

/-- Does the fence mask hold a packet (R298)? -/
def fenceHolds (r : Ring) (p : Packet) : Bool := r.started.any fun c => p.fence.getLsbD c.lane

/-- Does a running buddy copy hold learning and compute commands back (R386)? -/
def copyHolds (s : State) (p : Packet) : Bool :=
  (partOf s p.part.toNat).ckpt.holding && (p.opcode.toNat / 256 == 2 || p.opcode.toNat / 256 == 7)

/-- Does ALTERNATE hold a packet back (R290): a learning command while a batch step runs, or a batch step while a reduction or a
norm runs? A partition runs one batch step at a time (R246). -/
def alternateHolds (s : State) (p : Packet) : Bool :=
  let k := p.part.toNat
  let l := (partOf s k).learning
  let isStep := p.opcode == 0x0602
  let isLearning := decide (0x0701 ≤ p.opcode.toNat ∧ p.opcode.toNat ≤ 0x0705)
  (isStep && (tget k s.serving.steps).isSome) ||
    ((partOf s k).mode == 1 && ((isLearning && (tget k s.serving.steps).isSome) || (isStep && (l.reductions.any (fun e => !e.2.isEmpty) || l.norm.isSome))))

/-- Does the head keeper take commands: it is not restarting, and no FATAL event has stopped the module (R363, R376)? -/
def serves (s : State) : Bool := !s.keepers.headRestarting && s.pkg.state != 4

/-- May the oldest unstarted packet of a ring start (R290, R298, R299, R347, R354, R361, R376, R386)? One that needs the cores of a partition
that is not enabled waits until it is (log entry 134). -/
def mayStart (s : State) (fn ring : Nat) (p : Packet) : Bool :=
  let r := ringOf s fn ring
  let j := if fn = 16 then 4 else ring
  ringLive r && !ringFull r && decide (r.started.length < 256) && !fenceHolds r p && !(jobOf (partOf s p.part.toNat) j).stopped &&
    !copyHolds s p && !alternateHolds s p && serves s && (!needsCores p || ((partOf s p.part.toNat).enabled && mayHold s p.part.toNat j))

/-! Replies (R299, R306, R307) -/

/-- The 32 bytes of a reply. -/
def replyBytes (r : Reply) : List Byte :=
  toLe 4 r.cmd.tag.toNat ++ toLe 2 (statusCode r.answer.status) ++ toLe 2 r.answer.detail ++ toLe 8 r.time.toNat ++
    bytesAt (r.answer.words.flatMap fun w => toLe 4 w.toNat) 0 16

/-- Is a completion handle a counter, a flag, or none (R306)? -/
def completionKind (s : State) (part : Nat) (h : BitVec 32) : Option ObjKind :=
  match handleRef h with
  | .object i => (tget i s.objects).map (·.kind)
  | .flag _ f => some (flagKind s part f)
  | .hostWord e => (tget (hostWordKey part e) s.hostWords).map fun w => if w.counter then .counter else .flag
  | _ => none

/-- Applies a command's completion signal (R306): 1 to a counter, else the composed value. -/
def signalCompletion (c : Cmd) (st : Status) (s : State) : State :=
  match completionKind s c.part c.completion with
  | none => s
  | some k => raiseSignal c.part 0x0410 c.completion (if k = .counter then 1 else completionValue c.tag st) s

/-- Step 4 of R299 for a reply: a final one raises its signal, an interim one withholds it (R354). -/
def signalReply (r : Reply) (s : State) : State :=
  if r.final && r.isSignalled then signalCompletion r.cmd r.answer.status s else s

/-- The MSI-X message a packet requested (R299). -/
def sendMsix (fn ring : Nat) (c : Cmd) (s : State) : State :=
  if c.msix then modOut (fun o => { o with msix := o.msix ++ [(fn, (ringOf s fn ring).vector)] }) s else s

/-- A final status other than ST_OK of a command that was pre-empted, without an object that records it, is logged
(R354). -/
def logPreempted (r : Reply) (s : State) : State :=
  if r.final && (ringOf s r.cmd.fn r.cmd.ring).interims.contains r.cmd.idx && r.answer.status != .ok &&
      completionKind s r.cmd.part r.cmd.completion != some .flag then
    note 0x0608 (fun e => { e with
      status := statusCode r.answer.status, part := r.cmd.part, source := fnUnit r.cmd.fn
      arg := BitVec.ofNat 64 (r.cmd.tag.toNat + statusCode r.answer.status * 2 ^ 32) }) s
  else s

/-- Writes a reply and the record after it, sends its message and raises its signal, in that order (R299). -/
def writeReply (fn ring : Nat) (p : Reply) (s : State) : State :=
  let r := ringOf s fn ring
  let s1 := writeSpace .host (r.cplBase.toNat + r.cplPtr * 32) (replyBytes p) s
  let s2 := modRing fn ring (fun r => { r with
    replies := r.replies.drop 1, completed := r.completed + 1, cplPtr := (r.cplPtr + 1) % ringSize r
    unfinished := if p.final then r.unfinished.erase p.cmd.idx else r.unfinished
    interims := if p.final then r.interims else r.interims ++ [p.cmd.idx] }) (logPreempted p s1)
  signalReply p (sendMsix fn ring p.cmd (writeRecord fn ring s2))

/-! Realignment (R300) -/

/-- The replies written for a ring's packets up to one: a final one each, and the interim ones (R300). -/
def repliesUpTo (r : Ring) (b : Nat) : Nat := b - r.base + r.interims.countP (· ≤ b)

/-- Does a boundary qualify (R300)? -/
def qualifies (r : Ring) (b : Nat) : Bool :=
  r.unfinished.all (fun i => b < i) && decide (repliesUpTo r b ≤ r.completed.toNat) && decide (repliesUpTo r b ≤ r.consumed.toNat)

/-- Applies a realignment at a boundary (R300). -/
def applyRealign (b : Nat) (r : Ring) : Ring :=
  let n := BitVec.ofNat 32 (b - r.base)
  let m := BitVec.ofNat 32 (repliesUpTo r b)
  { r with
    fetched := r.fetched - n, submit := r.submit - n, completed := r.completed - m, consumed := r.consumed - m
    epoch := r.epoch + 1, realign := n, realignCpl := m, base := b
    interims := r.interims.filter (b < ·), due := r.due.filter (b < ·) }

end Sys2Proof.Machine
end

