-- ==== Sys2Proof/Machine/Host.lean ====
section
/-! DEFINITION. The meanings of the host interface's events (R295 to R301): doorbells, fetching, starting, replies,
realignment and ring errors. -/

namespace Sys2Proof.Machine

/-- The ring a doorbell write names: 8 bytes at the offset of its kind (R295). -/
def bellRing (offset size at_ : Nat) : Option Nat :=
  if size = 8 ∧ offset % 64 = at_ ∧ offset / 64 < 4 then some (offset / 64) else none

/-- The ring a discarded write is counted at. -/
def nearRing (offset : Nat) : Nat := offset / 64 % 4

/-- SUBMIT_DOORBELL (R295, R297, R300). -/
def execSubmitDoorbell (fn offset size : Nat) (value : Word) (s : State) : Result :=
  match bellRing offset size 0 with
  | none => .next (discardBell fn (nearRing offset) offset s)
  | some k =>
    let r := ringOf s fn k
    if !ringLive r then .next (discardBell fn k offset s)
    else
      match bellCount r value r.realign with
      | none => .next (discardBell fn k offset s)
      | some n =>
        let new := (n - r.fetched).toNat
        if ringSize r < new then .next (discardBell fn k offset s)
        else .next (modRing fn k (fun r => { r with submitBell := value, submit := if new = 0 then r.submit else n }) s)

/-- COMPLETION_DOORBELL (R295, R299, R300). A count that takes back consumed replies, or passes COMPLETED, is discarded
(log entry 27). -/
def execCompletionDoorbell (fn offset size : Nat) (value : Word) (s : State) : Result :=
  match bellRing offset size 8 with
  | none => .next (discardBell fn (nearRing offset) offset s)
  | some k =>
    let r := ringOf s fn k
    if !ringLive r then .next (discardBell fn k offset s)
    else
      match bellCount r value r.realignCpl with
      | none => .next (discardBell fn k offset s)
      | some n =>
        if unconsumed r < (r.completed - n).toNat then .next (discardBell fn k offset s)
        else .next (modRing fn k (fun r => { r with completionBell := value, consumed := n }) s)

/-- COMMAND_FETCH (R297): the packet of the slot at the fetch pointer, read once, while packets are there to take. -/
def execCommandFetch (fn ring : Nat) (packet : List Byte) (s : State) : Result :=
  onRing fn ring
    (let r := ringOf s fn ring
     if ringLive r && r.submit != r.fetched && serves s then
       modRing fn ring (fun r => { r with
         packets := r.packets ++ [parsePacket (r.count + 1) packet], unfinished := r.unfinished ++ [r.count + 1]
         count := r.count + 1, fetched := r.fetched + 1, fetchPtr := (r.fetchPtr + 1) % ringSize r }) s
     else s)

/-- Answers a packet refused at intake (R305). -/
def refusePacket (fn ring : Nat) (p : Packet) (e : Status × Nat × Bool) (s : State) : State :=
  modRing fn ring (fun r => { r with
    replies := r.replies ++ [{ cmd := cmdOf fn ring p, answer := ans e.1 e.2.1, time := s.time.now, isSignalled := e.2.2 }] }) s

/-- Starts a packet's command; a class that needs the cores gives its job the cores (R347). -/
def startPacket (fn ring : Nat) (p : Packet) (s : State) : State :=
  let s1 := modRing fn ring (fun r => { r with started := r.started ++ [cmdOf fn ring p] }) s
  if needsCores p then modPart p.part.toNat (fun q => { q with holder := some (if fn = 16 then 4 else ring) }) s1 else s1

/-- COMMAND_START (R298, R305): the oldest unstarted packet, past its fences and limits, through its intake checks. -/
def execCommandStart (fn ring : Nat) (hostBlock : List Byte) (s : State) : Result :=
  onRing fn ring
    (match (ringOf s fn ring).packets with
     | [] => s
     | p :: rest =>
       if mayStart s fn ring p then
         let s1 := modRing fn ring (fun r => { r with packets := rest }) s
         match intake s fn p hostBlock with
         | some e => refusePacket fn ring p e s1
         | none => startPacket fn ring p s1
       else s)

/-- REPLY_WRITE (R299, R301, R306): the oldest held reply, once the ring has room. A pair in error or disabled writes
none, but its commands still signal their objects. -/
def execReplyWrite (fn ring : Nat) (s : State) : Result :=
  onRing fn ring
    (let r := ringOf s fn ring
     if s.keepers.headRestarting then s
     else if ringLive r then
       match r.replies with
       | [] => s
       | p :: _ => if ringFull r then s else writeReply fn ring p s
     else
       r.replies.foldl (fun s p => signalReply p s)
         (modRing fn ring (fun r => { r with replies := r.replies.map fun p => { p with isSignalled := false } }) s))

/-- REALIGNMENT (R300): the latest qualifying boundary. -/
def execRealignment (fn ring : Nat) (s : State) : Result :=
  onRing fn ring
    (let r := ringOf s fn ring
     match (r.due.filter (qualifies r)).max? with
     | none => s
     | some b => writeRecord fn ring (modRing fn ring (applyRealign b) s))

/-- RING_ERROR (R301): the pair stops fetching, the record says so where it can be written, and the event is logged. -/
def execRingError (fn ring : Nat) (recordWritable : Bool) (s : State) : Result :=
  onRing fn ring
    (let s1 := modRing fn ring (fun r => { r with ringError := true }) s
     let s2 := if recordWritable then writeRecord fn ring s1 else s1
     note 0x0607 (fun e => { e with
       source := fnUnit fn, part := if fn = 16 then 0xFF else fn, arg := BitVec.ofNat 64 ring }) s2)

end Sys2Proof.Machine
end

