-- ==== Sys2Proof/Machine/Blocks.lean ====
section
/-! DEFINITION. Blocks and their power domains (R343, R361, R402): clearing a block, and switching its domain. -/

namespace Sys2Proof.Machine

/-- A core whose registers, local flags and accumulator flags are zero; its random lanes go on. -/
def clearedCore (c : Core) : Core := { c with brush := { rng := c.brush.rng }, flags := [], accFlags := [] }

/-- Clears a block (R361): palettes, accumulator memories, local flags, brush registers and block barriers read zero. -/
def clearBlock (b : Nat) (s : State) : State :=
  { s with
    mem := { s.mem with
      palette := s.mem.palette.filter fun c => c.1 / 0x200000 / 9 != b
      acc := s.mem.acc.filter fun c => c.1 / 0x20000 / 9 != b
      poisonPalette := s.mem.poisonPalette.filter fun u => u * 64 / 0x200000 / 9 != b }
    cores := s.cores.map fun e => if e.1 / 9 = b then (e.1, clearedCore e.2) else e
    barriers := s.barriers.filter fun e => e.1 / 8 != b }

/-- Clears several blocks. -/
def clearBlocks (bs : List Nat) (s : State) : State := bs.foldl (fun s b => clearBlock b s) s

/-- The blocks of a mask, lowest first. -/
def maskBlocks (mask : BitVec 96) : List Nat := (List.range 96).filter fun b => mask.getLsbD b

/-- Is a block's domain on? -/
def blockOn (s : State) (b : Nat) : Bool := s.power.domains.getLsbD b

/-- Switches domains off. -/
def domainsOff (ds : List Nat) (s : State) : State :=
  modPower (fun p => { p with domains := ds.foldl (fun m d => m &&& ~~~(BitVec.ofNat 128 (2 ^ d))) p.domains }) s

/-- Switches domains on. -/
def domainsOn (ds : List Nat) (s : State) : State :=
  modPower (fun p => { p with domains := ds.foldl (fun m d => m ||| BitVec.ofNat 128 (2 ^ d)) p.domains }) s

/-- Does a block hold a core with a pending wait (R188, R402)? -/
def blockWaits (s : State) (b : Nat) : Bool := s.cores.any fun e => e.1 / 9 == b && e.2.waiting

/-- The blocks PWR_IDLE_OFF switches off now (R402): set for it, in no enabled partition, without a unit that waits, and on. -/
def idleBlocks (s : State) : List Nat :=
  (maskBlocks s.power.idleOff).filter fun b => (partOfBlock s b).isNone && !blockWaits s b && blockOn s b

/-- Switches idle blocks off; a domain off loses its contents. -/
def idleOff (s : State) : State := let bs := idleBlocks s; domainsOff bs (clearBlocks bs s)

/-- The host I/O domain goes off while PERST_N is low with PWR_HOST_OFF set (R402). -/
def hostIoOff (s : State) : State := if s.supplies.perstHeld && s.power.hostOff then domainsOff [126] s else s

end Sys2Proof.Machine
end

