-- ==== Sys2Proof/Machine/LanternOps.lean ====
section
/-! DEFINITION. The shared operations of the lantern ports (R312 to R334, R340): frames and credits, link words, replay,
spare lanes, port loss and routing. -/

namespace Sys2Proof.Machine

/-- Updates a count of a list by index. -/
def addAt (i n : Nat) (l : List Nat) : List Nat := lmod i (· + n) l

/-- The buffer a class and sub-channel uses: P1 SUBCH 0, P1 SUBCH 1, P2 ..., in the order of the CREDITS field (R324,
R330). -/
def bufferOf (cls subch : Nat) : Nat := (cls - 1) * 2 + subch % 2

def nthNat (l : List Nat) (i : Nat) : Nat := (l[i]?).getD 0

/-- Index arithmetic modulo 4,096 within a window of 2,048 (R324): a at or before b. -/
def idxLe (a b : Nat) : Bool := decide ((b + 4096 - a) % 4096 < 2048)

/-! Frames -/

/-- The crossbar input a frame came from: the die of its first packet's source, 10 for one in transit (R36). -/
def frameInput (own : Nat) (f : Frame) : Nat :=
  match f.packets with
  | q :: _ => if q.src = own then dieInput (dieOf q.srcUnit) else 10
  | [] => 10

/-- The waiting frames of a class with a credit for their sub-channel (R330). -/
def readyFrames (p : Port) (cls : Nat) : List Frame :=
  p.frames.filter fun f => f.cls == cls && decide (0 < nthNat p.credits (bufferOf cls f.subch))

/-- The frame of a class that is granted next: the oldest of the input its round-robin pointer picks (R36). -/
def readyFrame (own : Nat) (p : Port) (cls : Nat) : Option Frame :=
  let ready := readyFrames p cls
  (pickInput p.arb cls (ready.map (frameInput own))).bind fun i => ready.find? fun f => frameInput own f == i

/-- Grants one frame for one lane (R35, R36, R39, R330), with the arbiter and the credit after it. -/
def grantFrame (own : Nat) (p : Port) : Option Frame × Port :=
  let w := fun c => !(readyFrames p c).isEmpty
  match grantClass p.arb false (w 1) (w 2) (w 3) with
  | none => (none, p)
  | some g =>
    match readyFrame own p g with
    | none => (none, p)
    | some f =>
      (some f, { p with
        frames := dropFirst (· == f) p.frames
        credits := lmod (bufferOf g f.subch) (· - 1) p.credits
        arb := movePointer g (frameInput own f) (afterGrant p.arb false (w 1) (w 2) (w 3) g) })

/-- The frames of one slot, one per logical lane (R315, R319). -/
def grantFrames (own : Nat) : Nat → Port → List Frame × Port
  | 0, p => ([], p)
  | n + 1, p =>
    match grantFrame own p with
    | (none, q) => ([], q)
    | (some f, q) =>
      let r := grantFrames own n q
      (f :: r.1, r.2)

/-- The frames a marker slot carries (R320): waiting P2 frames of sub-channel 0 that have a credit, the oldest first. -/
def markerFrames : Nat → Port → List Frame × Port
  | 0, p => ([], p)
  | n + 1, p =>
    match (readyFrames p 2).find? fun f => f.subch == 0 with
    | none => ([], p)
    | some f =>
      let r := markerFrames n { p with frames := dropFirst (· == f) p.frames, credits := lmod (bufferOf 2 0) (· - 1) p.credits }
      (f :: r.1, r.2)

/-! Link words (R324) -/

/-- The CREDITS field of cumulative counts. -/
def creditField (c : List Nat) : Nat := ((c.take 6).zipIdx.map fun e => e.1 % 256 * 2 ^ (33 + 8 * e.2)).sum

/-- A link word: the fresh fields of the port and the bound fields of a slot. A map change names the transmitting lane (R321, R328). -/
def linkWord (p : Port) (t : SentSlot) : BitVec 128 :=
  let r := p.mapRequest.getD (0, 0, 0)
  let m := (r.1, (tgetD r.2.1 {} p.lanes).peer, r.2.2)
  BitVec.ofNat 128
    ((p.rxNext + 4095) % 4096 * 2 ^ 116 + bitW p.nak 115 + t.index % 4096 * 2 ^ 103 + bitW p.mapRequest.isSome 102 +
      m.1 % 16 * 2 ^ 98 + m.2.1 % 32 * 2 ^ 93 + m.2.2 % 4096 * 2 ^ 81 + creditField t.credits + t.p0.toNat)

/-- A field of a link word. -/
def linkField (w : BitVec 128) (lo n : Nat) : Nat := w.toNat / 2 ^ lo % 2 ^ n

/-! Replay (R326) -/

/-- Frees the slots an ACK_INDEX covers. -/
def ackSlots (ack : Nat) (p : Port) : Port := { p with replay := p.replay.filter fun t => !idxLe t.index ack }

/-- Starts resending from an index, when the sender still keeps it and does not ignore this start. -/
def startResend (start : Nat) (p : Port) : Port :=
  let ignored := match p.nakFrom with | some n => n.1 == start && decide (0 < n.2) | none => false
  if ignored || !(p.replay.any fun t => t.index == start) then p
  else
    { p with
      resending := some start, nakFrom := some (start, 64)
      sameResends := if (p.nakFrom.map (·.1)) = some start then p.sameResends + 1 else 1 }

/-- A slot of the port's own count passes: the NAK hold-off runs down. -/
def holdOff (p : Port) : Port := { p with nakFrom := p.nakFrom.map fun n => (n.1, n.2 - 1) }

/-! Lanes (R322, R328, R329) -/

def laneLocked (x : Lane18) : Bool := match x.lock with | .locked _ _ => !x.retired | _ => false

/-- Locked spares of the receive direction, lowest first. -/
def sparesRx (p : Port) : List Nat :=
  (List.range 18).filter fun l => !p.laneRx.contains l && (match tget l p.lanes with | some x => laneLocked x | none => false)

/-- The logical lane a physical receive lane carries. -/
def logicalRx (p : Port) (phys : Nat) : Option Nat := p.laneRx.findIdx? (· == phys)

/-- Asks for a failing logical lane to move to the lowest-numbered locked spare, 64 slots from now (R328). -/
def requestMap (logical : Nat) (p : Port) : Port :=
  match sparesRx p with
  | l :: _ => { p with mapRequest := some (logical, l, (p.slotClock + 64) % 4096) }
  | [] => p

/-! Port loss (R327, R333, R334) -/

/-- Does a dropped or lost packet return a REFUSAL: writes, signals and requests (R334, R340)? -/
def isRefused (t : PktType) : Bool :=
  match t with
  | .write | .signal | .readReq | .queueOp | .lockOp | .rangeCheck | .fenceProbe | .streamOpen => true
  | _ => false

/-- The REFUSAL of a packet that cannot go on; of a stream's write, with the length of its range. -/
def refusePkt (p : Pkt) (s : State) : State :=
  let r := replyTo s p .refusal 0x45
  if p.type = .write ∧ p.status = 1 then
    send { r with arg2 := BitVec.ofNat 64 (argSerial p * 2 ^ 40), data := toLe 2 p.data.length } s
  else if isRefused p.type then send r s
  else s

/-- What becomes of a packet of this module in an unacknowledged slot of a lost port (R333): a DMA write is refused to its
channel, a posted store or signal recorded in its issuer, a read completed with poisoned data. -/
def losePacket (p : Pkt) (s : State) : State :=
  if p.src ≠ ownModule s then refusePkt p s
  else
    match p.type with
    | .readReq => send { replyTo s p .readData 0x44 with dst := ownModule s, cls := 3 } s
    | .write => if isChannel p.srcUnit then refusePkt p s
        else if p.srcUnit < 864 then postError p.srcUnit (p.dst * 2 ^ 47 + p.arg.toNat) .remoteWriteFailed s else s
    | .signal => if p.srcUnit < 864 then postError p.srcUnit (p.dst * 2 ^ 47 + p.arg.toNat) .remoteWriteFailed s else s
    | _ => refusePkt p s

/-! Routing (R331, R340) -/

/-- The member of a port's bond that carries a packet (R332): the one that holds its stream; for a STREAM_OPEN the next in turn; else by
the hash of source unit, destination module and plane over the members that are UP. -/
def bondMember (s : State) (port : Nat) (p : Pkt) : Nat :=
  let members := upMembers s port
  if members.isEmpty then port
  else
    match members.find? fun k => p.type == .write && holdsStream p (portOf s k) with
    | some k => k
    | none =>
      let n := if p.type = .streamOpen then (portOf s port).turn else Config.bondHash p.srcUnit p.dst p.plane
      (members[n % members.length]?).getD port

/-- The sub-channel a packet takes as it leaves a port (R331). -/
def subchAt (s : State) (inPort : Option Nat) (out : Nat) (p : Pkt) : Nat :=
  let o := portOf s out
  let base := match inPort with
    | none => 0
    | some i => if (portOf s i).axis = o.axis then p.subch % 2 else 0
  if o.dateline then 1 else base

/-- Drops a packet at a port: counted, and refused to its source (R340). -/
def dropPacket (inPort : Option Nat) (p : Pkt) (s : State) : State :=
  refusePkt p (modPort (inPort.getD 0) (fun q => { q with routeDrops := q.routeDrops + 1 }) s)

/-- Forwards a packet (R340): delivered to this module's fabric, queued at its outgoing port, or dropped. -/
def forwardPacket (inPort : Option Nat) (p : Pkt) (s : State) : State :=
  if p.dst = ownModule s then send p s
  else if 1023 ≤ p.hops ∧ inPort.isSome then dropPacket inPort p s
  else
    match routePort s p with
    | none => dropPacket inPort p s
    | some r =>
      let o := bondMember s r p
      let q := { p with hops := p.hops + 1, subch := subchAt s inPort o p, port := none }
      let s1 := if p.type = .streamOpen then modPort r (fun x => { x with turn := x.turn + 1 }) s else s
      modPort o (enqueue q) s1

/-- The port's serving state emptied, as when it leaves UP. -/
def clearPort (p : Port) : Port :=
  { p with
    state := 0, frames := [], replay := [], resending := none, nakFrom := none, nak := false, mapRequest := none
    mapTransmit := none, p0Out := [], p0In := [], lostWords := 0, sameResends := 0, streamsOut := [], heldOpens := [], streamsIn := [] }

/-- The ports whose unacknowledged slots are lost when one goes DOWN without a surviving member: it, and those of its bond that wait for a
survivor's answer (R333). -/
def lostPorts (s : State) (port : Nat) : List Nat :=
  port :: (List.range 6).filter fun k =>
    k != port && (portOf s port).bond.getLsbD k && !isUp (portOf s k) && !((portOf s k).replay.isEmpty && (portOf s k).frames.isEmpty)

/-- Loses a port's unacknowledged slots; its waiting packets take their alternate route, and those in transit are refused (R333, R334). -/
def losePort (port : Nat) (s : State) : State :=
  let p := portOf s port
  let s1 := (framePackets (p.replay.flatMap (·.frames))).foldl (fun s q => losePacket q s) (modPort port clearPort s)
  (waitingPackets p).foldl (fun s q =>
    if q.src = ownModule s then forwardPacket none { q with hops := q.hops - 1 } s else refusePkt q s) s1

/-- A port leaves UP and goes DOWN (R327, R333, R334, R337): a bonded port asks a survivor for the partner's last index;
else its unacknowledged slots are lost and its waiting packets take their alternate route. -/
def takeDown (port cause : Nat) (s : State) : State :=
  let p := portOf s port
  if !isUp p then modPort port (fun p => { p with state := 0 }) s
  else
    let s0 := note 0x0403 (fun e => { e with source := 0x0700 + port / 3, arg := BitVec.ofNat 64 (port + cause * 2 ^ 8) }) s
    let s1 := if s.time.source = 2 ∧ s.time.parent = port then { s0 with time := { s0.time with holdover := true } } else s0
    let s2 := modPort port (fun q => { q with state := 0, resending := none, mapRequest := none, mapTransmit := none, sameResends := 0, lostWords := 0 }) s1
    match survivors s port with
    | k :: _ => modPort k (fun q => { q with p0Out := q.p0Out ++ [0x00000102, BitVec.ofNat 32 port] }) s2
    | [] => (lostPorts s port).foldl (fun s k => losePort k s) s2

/-- A port that lost 4,096 link words, or resent one index 64 times, goes DOWN (R327). -/
def checkLoss (port : Nat) (s : State) : State :=
  let p := portOf s port
  if isUp p && decide (4096 ≤ p.lostWords) then takeDown port 0 s
  else if isUp p && decide (64 ≤ p.sameResends) then takeDown port 1 s
  else s

/-- Is the port's power domain on: enabled and its cage present (R402)? -/
def portDomain (p : Port) : Bool := p.enable && !p.noAssembly

/-- Switches a port's power domain to what its enable and cage ask for. -/
def switchPort (port : Nat) (s : State) : State :=
  let bit : BitVec 128 := BitVec.ofNat 128 (2 ^ (120 + port))
  modPower (fun w => { w with domains := if portDomain (portOf s port) then w.domains ||| bit else w.domains &&& ~~~bit }) s

end Sys2Proof.Machine
end

