-- ==== Sys2Proof/Machine/RegOps.lean ====
section
/-! DEFINITION. Writing the management registers (R20 to R22, R417 to R428): access rules, field types, locks and clamps,
then one register at a time by its offset. -/

namespace Sys2Proof.Machine

/-- A write applied to an aligned 8-byte word: which halves it touches, and its bits in place (R417). -/
structure RegW where
  lo : Bool
  hi : Bool
  v : Nat
  deriving DecidableEq, Repr

/-- The write of a width at an offset, or none where R417 refuses it. -/
def regWrite (off width v : Nat) : Option RegW :=
  if width = 8 ∧ off % 8 = 0 then some ⟨true, true, v % 2 ^ 64⟩
  else if width = 4 ∧ off % 8 = 0 then some ⟨true, false, v % 2 ^ 32⟩
  else if width = 4 ∧ off % 8 = 4 then some ⟨false, true, v % 2 ^ 32 * 2 ^ 32⟩
  else none

/-- A word with the halves a write touches replaced. -/
def mergeW (w : RegW) (old : Nat) : Nat :=
  (if w.lo then w.v % 2 ^ 32 else old % 2 ^ 32) + (if w.hi then w.v / 2 ^ 32 else old / 2 ^ 32 % 2 ^ 32) * 2 ^ 32

/-- The writer's code in a lock violation's entry (R422). -/
def writerCode : RegPath → Nat
  | .pf => 0x0610 | .smbus => 0x0620 | .i3c => 0x0621 | .mctp => 0x0622 | .keeper u => u | .vf n => 0x0600 + n

/-- The SYNC_DBG_ copy of a path (R428). -/
def dbgPath : RegPath → Nat
  | .pf => 0 | .smbus => 1 | .i3c => 2 | .mctp => 3 | _ => 4

/-- ACCESS_ERROR (R417). -/
def accessError (s : State) : State := setErr 2 s

/-- A write to a locked or written-once field (R21, R422). -/
def lockViolation (path : RegPath) (off : Nat) (s : State) : State :=
  note 0x0F01 (fun e => { e with source := 0x0410, other := writerCode path, arg := BitVec.ofNat 64 off }) (setErr 0 s)

/-- A write of an RWL field (R20, R21). -/
def writeRwl (path : RegPath) (off lock : Nat) (s : State) (f : State) : State :=
  if blockLocked s lock then lockViolation path off s else f

/-- The value a field takes in a range (R423). -/
def clampTo (lo hi v : Nat) : Nat := max lo (min hi v)

/-- Stores a clamped value; VALUE_CLAMPED says the field took another (R423). -/
def storeClamped (asked took : Nat) (f : Nat → State → State) (s : State) : State :=
  f took (if asked = took then s else setErr 3 s)

def modThermal (f : Thermal → Thermal) (s : State) : State := { s with thermal := f s.thermal }

/-! Rings (R425) -/

/-- A ring pair as enabling it leaves it (R296): pointers, counts and epoch 0; replies held from before stay (R301). -/
def enableRing (r : Ring) : Ring :=
  { r with
    enabled := true, enableHeld := false, ringError := false, fetchPtr := 0, cplPtr := 0, submit := 0, fetched := 0
    completed := 0, consumed := 0, epoch := 0, realign := 0, realignCpl := 0, count := 0, base := 0, submitBell := 0
    completionBell := 0, packets := [], unfinished := [], interims := [], due := [] }

/-- Are a ring's fields in the ranges of R296? -/
def ringOk (fn : Nat) (r : Ring) : Bool :=
  decide (6 ≤ r.log2Size) && decide (r.log2Size ≤ 16) && r.cmdBase.toNat % 4096 == 0 && r.cplBase.toNat % 4096 == 0 &&
    r.recordAddr.toNat % 64 == 0 && decide (r.vector < if fn = 16 then 64 else 16)

def ringOn (r : Ring) : Bool := r.enabled || r.enableHeld

/-- A write of CMD_BASE, CPL_BASE or RECORD_ADDR (R425): only while ENABLE is 0. -/
def writeRingField (fn ring : Nat) (w : RegW) (get : Ring → Word) (set : Word → Ring → Ring) (s : State) : State :=
  let r := ringOf s fn ring
  let v := BitVec.ofNat 64 (mergeW w (get r).toNat)
  if ringOn r then (if v = get r then s else accessError s) else modRing fn ring (set v) s

/-- A write of CTRL (R425, R394): size and vector only while ENABLE is 0; an enable with a field out of range is refused;
one written before READY is held. -/
def writeRingCtrl (fn ring : Nat) (w : RegW) (s : State) : State :=
  if !w.lo then s
  else
    let r := ringOf s fn ring
    let size := w.v / 2 % 32
    let vec := w.v / 2 ^ 16 % 2 ^ 10
    let en := w.v % 2 == 1
    if ringOn r then
      let s1 := if size = r.log2Size ∧ vec = r.vector then s else accessError s
      if en then s1 else modRing fn ring (fun r => { r with enabled := false, enableHeld := false }) s1
    else
      let r1 := { r with log2Size := size, vector := vec }
      if !en then modRing fn ring (fun _ => r1) s
      else if !ringOk fn r1 then modRing fn ring (fun _ => r1) (accessError s)
      else modRing fn ring (fun _ => if s.pkg.state = 1 then enableRing r1 else { r1 with enableHeld := true }) s

/-- A write of word k of a HOST_RING_ entry (R425). -/
def writeRing (fn ring k : Nat) (w : RegW) (s : State) : State :=
  match k with
  | 0 => writeRingField fn ring w (·.cmdBase) (fun v r => { r with cmdBase := v }) s
  | 1 => writeRingField fn ring w (·.cplBase) (fun v r => { r with cplBase := v }) s
  | 2 => writeRingField fn ring w (·.recordAddr) (fun v r => { r with recordAddr := v }) s
  | 3 => writeRingCtrl fn ring w s
  | _ => accessError s

/-! Package, error and time registers -/

/-- PKG_MODULE_ID (R396): written once. -/
def writeModuleId (path : RegPath) (w : RegW) (s : State) : State :=
  if !w.lo then s
  else if s.pkg.moduleId.isSome then lockViolation path 0x10 s
  else modPkg (fun p => { p with moduleId := some (w.v % 2 ^ 17) }) s

/-- PKG_LOCK (R422): a bit already set is a written-once field; 0 is no write of a bit. -/
def writeLock (path : RegPath) (w : RegW) (s : State) : State :=
  if !w.lo then s
  else
    let v := BitVec.ofNat 7 w.v
    let s1 := if v &&& s.pkg.lock = 0 then s else lockViolation path 0x20 s
    modPkg (fun p => { p with lock := p.lock ||| v }) s1

/-- PKG_ERR_STATUS: RW1C but for FATAL. -/
def writeErrStatus (w : RegW) (s : State) : State :=
  if !w.lo then s
  else modPkg (fun p => { p with errStatus := p.errStatus &&& ~~~(BitVec.ofNat 7 w.v &&& 0x6F) }) s

/-- PKG_ARB_CLEAR (R37). -/
def writeArbClear (w : RegW) (s : State) : State :=
  if w.lo && w.v % 2 == 1 then
    modOut (fun o => { o with arbs := o.arbs.map fun e => (e.1, { e.2 with urgentHeld := 0 }) })
      (modPkg (fun p => { p with arbStats := [0, 0, 0, 0, 0] }) s)
  else s

/-- PKG_BUDDY_BASE: a multiple of 1 GiB (R423). -/
def writeBuddyBase (w : RegW) (s : State) : State :=
  let v := mergeW w s.pkg.buddyBase.toNat
  storeClamped v (v / 2 ^ 30 * 2 ^ 30) (fun n => modPkg fun p => { p with buddyBase := BitVec.ofNat 64 n }) s

/-- PKG_BUDDY_SIZE: 0 to 256 GiB (R423). -/
def writeBuddySize (w : RegW) (s : State) : State :=
  if !w.lo then s
  else storeClamped (w.v % 512) (clampTo 0 256 (w.v % 512)) (fun n => modPkg fun p => { p with buddySize := n }) s

/-- ERR_POSTED_RECORD's third word (R424): CLEAR empties the record, a 1 clears ARMED. -/
def writePosted (core : Nat) (w : RegW) (s : State) : State :=
  if w.hi && w.v / 2 ^ 63 == 1 then modCore core (fun c => { c with posted := {} }) s
  else if w.lo && w.v / 2 ^ 31 % 2 == 1 then modCore core (fun c => { c with posted := { c.posted with armed := false } }) s
  else s

/-- TIME_SOURCE (R335, R337, R423): code 3 is taken as PORT and port 6 or 7 as 5. Source PORT holds over while its port is
not UP; FREE runs without a rate correction. -/
def writeTimeSource (w : RegW) (s : State) : State :=
  if !w.lo then s
  else
    let src := min 2 (w.v % 4)
    let par := min 5 (w.v / 16 % 8)
    let s1 := if src = w.v % 4 ∧ par = w.v / 16 % 8 then s else setErr 3 s
    { s1 with time := { s1.time with
        source := src, parent := par, holdover := src == 2 && !isUp (portOf s par), lastPps := s.time.now
        rate := if src = 0 then 0 else s.time.rate } }

/-! Power and thermal registers -/

/-- PWR_STATUS: its RW1C bits. -/
def writePwrStatus (w : RegW) (s : State) : State :=
  if !w.lo then s
  else
    let off := fun (b : Bool) (i : Nat) => b && w.v / 2 ^ i % 2 == 0
    modPower (fun p => { p with
      uv := off p.uv 0, ov := off p.ov 1, capClamped := off p.capClamped 2, brakeSeen := off p.brakeSeen 4 }) s

/-- May a path write PWR_CAP: management or the physical function (R403)? -/
def mayCap : RegPath → Bool
  | .pf | .smbus | .i3c | .mctp => true
  | _ => false

/-- PWR_CAP (R5, R403). -/
def writeCap (path : RegPath) (w : RegW) (s : State) : State :=
  if !w.lo then s
  else if !mayCap path then accessError s
  else
    let asked := w.v % 2 ^ 16
    let took := clampTo 1200 (fusedMax s) asked
    modPower (fun p => { p with cap := took, capClamped := p.capClamped || asked != took }) s

/-- PWR_CCLK_MHZ (R401, R423): 400 to 1,350 in steps of 25. -/
def writeCclk (w : RegW) (s : State) : State :=
  if !w.lo then s
  else
    let asked := w.v % 2 ^ 11
    storeClamped asked (clampTo 400 1350 asked / 25 * 25) (fun n => modPower fun p => { p with cclk := n }) s

/-- A clamped field of a word's low half. -/
def writeField (w : RegW) (bits lo hi : Nat) (f : Nat → State → State) (s : State) : State :=
  if !w.lo then s else storeClamped (w.v % 2 ^ bits) (clampTo lo hi (w.v % 2 ^ bits)) f s

/-- PWR_IDLE_OFF: bits 0 to 95 over two words; blocks it covers that no partition holds go off (R402). -/
def writeIdleOff (w : RegW) (second : Bool) (s : State) : State :=
  idleOff <| modPower (fun p =>
    let old := p.idleOff.toNat
    let n := if second then old % 2 ^ 64 + mergeW w (old / 2 ^ 64) * 2 ^ 64 else old / 2 ^ 64 * 2 ^ 64 + mergeW w (old % 2 ^ 64)
    { p with idleOff := BitVec.ofNat 96 n }) s

/-- THERM_STATUS: its RW1C bits. -/
def writeThermStatus (w : RegW) (s : State) : State :=
  if !w.lo then s
  else
    let off := fun (b : Bool) (i : Nat) => b && w.v / 2 ^ i % 2 == 0
    modThermal (fun t => { t with
      junctionAlert := off t.junctionAlert 0, hbmAlert := off t.hbmAlert 1, tripSeen := off t.tripSeen 3 }) s

/-! Ports -/

/-- LP_CTRL (R314, R331, R402): clearing ENABLE takes the port DOWN and switches its domain off. -/
def writeLpCtrl (port : Nat) (w : RegW) (s : State) : State :=
  if !w.lo then s
  else
    let en := w.v % 2 == 1
    let s1 := if en then s else takeDown port 4 s
    switchPort port (modPort port (fun p => { p with
      enable := en, loopback := w.v / 2 % 2 == 1, axis := w.v / 4 % 8, dateline := w.v / 32 % 2 == 1 }) s1)

/-- May these ports be bonded: two or three, this one among them, all UP to one partner (R332)? -/
def bondOk (s : State) (port : Nat) (m : BitVec 6) : Bool :=
  let members := (List.range 6).filter fun k => m.getLsbD k
  (members.length == 2 || members.length == 3) && members.contains port &&
    members.all (fun k => isUp (portOf s k) && (portOf s k).peerModule == (portOf s port).peerModule)

/-- LP_BOND (R332): all members hold the same value; ports that leave the bond hold 0. A refused bond keeps its value. -/
def writeLpBond (port : Nat) (w : RegW) (s : State) : State :=
  if !w.lo then s
  else
    let m := BitVec.ofNat 6 w.v
    let old := (portOf s port).bond
    let clear := fun (b : BitVec 6) (s : State) =>
      (List.range 6).foldl (fun s k => if b.getLsbD k then modPort k (fun p => { p with bond := 0 }) s else s) s
    if m = 0 then clear old s
    else if bondOk s port m then
      let all := (List.range 6).foldl (fun b k => if m.getLsbD k then b ||| (portOf s k).bond else b) old
      (List.range 6).foldl (fun s k => if m.getLsbD k then modPort k (fun p => { p with bond := m }) s else s) (clear all s)
    else accessError s

/-! Partitions (R148, R290, R426) -/

/-- PART_WAY_MASK (R148): zero is refused. -/
def writeWayMask (part region : Nat) (w : RegW) (s : State) : State :=
  if !w.lo then s
  else if w.v % 2 ^ 16 = 0 then accessError s
  else modPart part (fun p => { p with wayMask := lset region (BitVec.ofNat 16 w.v) p.wayMask }) s

/-- Starts a flush of a partition's range (R362, R426): refused while one runs, or where the range is not wholly in the
partition's HBM or no multiple of 128 bytes. -/
def startFlush (part : Nat) (purge : Bool) (base len : Nat) (s : State) : State :=
  let p := partOf s part
  if p.flushBusy.isSome then accessError s
  else if base < p.hbmBase ∨ hbmEnd p < base + len ∨ len % 128 ≠ 0 then accessError s
  else modPart part (fun p => { p with flushBusy := some (purge, base, len) }) s

/-- PART_FLUSH (R426). -/
def writeFlush (part : Nat) (w : RegW) (s : State) : State :=
  let p := partOf s part
  let op := if w.hi then w.v / 2 ^ 62 else 0
  if p.flushBusy.isSome then accessError s
  else if op = 1 ∨ op = 2 then startFlush part (op == 2) p.flushBase.toNat p.flushLen.toNat s
  else s

/-- A write of word k of a partition's block. -/
def writePart (part k : Nat) (w : RegW) (s : State) : State :=
  if 4 ≤ k ∧ k < 12 then writeWayMask part (k - 4) w s
  else if k = 12 then (if w.lo then modPart part (fun p => { p with link := BitVec.ofNat 16 w.v }) s else s)
  else if k = 14 then writeFlush part w s
  else if k = 15 then modPart part (fun p => { p with flushBase := BitVec.ofNat 64 (mergeW w p.flushBase.toNat) }) s
  else if k = 16 then modPart part (fun p => { p with flushLen := BitVec.ofNat 64 (mergeW w p.flushLen.toNat) }) s
  else if (partWord s part k).isSome then s
  else accessError s

/-! Queues and the debugger view (R427, R428) -/

/-- QUEUE_ CLEAR (R222, R427); a queue that does not exist ignores it. -/
def writeQueueReg (region q k : Nat) (w : RegW) (s : State) : State :=
  if 5 ≤ k ∨ 1024 ≤ q then accessError s
  else if k = 0 ∧ w.hi ∧ w.v / 2 ^ 63 = 1 then modQueue region q clearQueue s
  else s

/-- The view SNAP copies (R428): zeros for a handle that R166 refuses or that names no object. -/
def snapView (s : State) (h : BitVec 32) : List Byte :=
  match handleRef h with
  | .object i => match tget i s.objects with | some o => viewOf (issuerId s) o | none => List.replicate 64 0
  | .flag n f =>
    match physOf s n with
    | some p => viewOf (issuerId s) (flagObj s ((partOfCore s p).getD 0) f (flagOf s p f))
    | none => List.replicate 64 0
  | _ => List.replicate 64 0

/-- SYNC_DBG_SELECT (R428). -/
def writeDbg (path : RegPath) (w : RegW) (s : State) : State :=
  let k := dbgPath path
  let v := mergeW w ((s.pkg.dbgSelect[k]?).getD 0).toNat
  let keep := v % 2 ^ 32 + v / 2 ^ 63 % 2 * 2 ^ 63
  modPkg (fun p => { p with
    dbgSelect := lset k (BitVec.ofNat 64 keep) p.dbgSelect
    dbgView := if w.hi && v / 2 ^ 63 % 2 == 1 then lset k (snapView s (BitVec.ofNat 32 v)) p.dbgView else p.dbgView }) s

/-! The map -/

/-- Registers below 0x04_0000. -/
def writeLow (path : RegPath) (off : Nat) (w : RegW) (s : State) : Option State :=
  if off = 0x10 then some (writeModuleId path w s)
  else if off = 0x20 then some (writeLock path w s)
  else if off = 0x28 then some (writeErrStatus w s)
  else if off = 0x30 then
    some (modPkg (fun p => { p with errMask := if w.lo then BitVec.ofNat 64 (w.v % 2 ^ 7) else p.errMask }) s)
  else if off = 0x40 then
    some (if w.lo then writeRwl path off 0 s (modPkg (fun p => { p with buddyPartner := BitVec.ofNat 64 (w.v % 2 ^ 17 + w.v / 2 ^ 31 % 2 * 2 ^ 31) }) s) else s)
  else if off = 0x48 then some (writeRwl path off 0 s (writeBuddyBase w s))
  else if off = 0x50 then some (if w.lo then writeRwl path off 0 s (writeBuddySize w s) else s)
  else if off = 0xA8 then some (writeArbClear w s)
  else if off = 0x10000 then
    some (if w.lo then modPkg (fun p => { p with fog := p.fog &&& ~~~(BitVec.ofNat 10 w.v) }) s else s)
  else if 0x11000 ≤ off ∧ off < 0x11000 + 864 * 0x20 then
    match (off - 0x11000) % 0x20 / 8 with
    | 0 => some s
    | 1 => some s
    | 2 => some (writePosted ((off - 0x11000) / 0x20) w s)
    | _ => none
  else if off = 0x30008 then some (if w.lo then writeRwl path off 1 s (writeTimeSource w s) else s)
  else if off = 0x200000 then some (writeDbg path w s)
  else none

/-- Registers of 0x04_0000 to 0x06_FFFF. DESIGN CHOICE (log entry 120): the entry of a locked write of the upper word of PWR_IDLE_OFF
records the word's own offset 0x04_0038. -/
def writeMid (path : RegPath) (off : Nat) (w : RegW) (s : State) : Option State :=
  let rwl := fun (lock : Nat) (f : State) => some (if w.lo then writeRwl path off lock s f else s)
  if off = 0x40000 then some (writePwrStatus w s)
  else if off = 0x40010 then some (writeCap path w s)
  else if off = 0x40018 then rwl 2 (writeField w 16 1200 (fusedMax s) (fun n => modPower fun p => { p with brakeLevel := n }) s)
  else if off = 0x40020 then some (writeCclk w s)
  else if off = 0x40028 then rwl 2 (writeField w 4 0 8 (fun n => modPower fun p => { p with clkCtrl := n }) s)
  else if off = 0x40030 then some (writeRwl path off 2 s (writeIdleOff w false s))
  else if off = 0x40038 then rwl 2 (writeIdleOff w true s)
  else if off = 0x40040 then rwl 2 (hostIoOff (modPower (fun p => { p with hostOff := w.v % 2 == 1 }) s))
  else if off = 0x50000 then some (writeThermStatus w s)
  else if off = 0x50008 then rwl 3 (writeField w 8 70 100 (fun n => modThermal fun t => { t with throttle := n }) s)
  else if off = 0x50010 then rwl 3 (writeField w 8 70 95 (fun n => modThermal fun t => { t with hbmThrottle := n }) s)
  else if off = 0x50018 then rwl 3 (writeField w 8 70 109 (fun n => modThermal fun t => { t with alert := n }) s)
  else if off = 0x50020 then rwl 3 (writeField w 8 70 104 (fun n => modThermal fun t => { t with hbmAlertAt := n }) s)
  else if off = 0x60000 then
    rwl 4 (writeField w 4 0 8 (fun n s => { s with repair := { s.repair with reserveMin := n } }) s)
  else none

/-- Registers from 0x07_0000. -/
def writeHigh (path : RegPath) (off : Nat) (w : RegW) (s : State) : Option State :=
  if 0x70000 ≤ off ∧ off < 0x76000 then
    let n := (off - 0x70000) / 0x1000
    if off % 0x1000 = 0 then some (if w.lo then writeRwl path off 5 s (writeLpCtrl n w s) else s)
    else if off % 0x1000 = 0x30 then some (if w.lo then writeRwl path off 5 s (writeLpBond n w s) else s)
    else none
  else if 0x81000 ≤ off ∧ off < 0x81100 then some (writeRing 16 ((off - 0x81000) / 0x40) (off % 0x40 / 8) w s)
  else if 0x100000 ≤ off ∧ off < 0x200000 then
    let n := (off - 0x100000) / 0x10000
    let o := off % 0x10000
    if 0x8000 ≤ o ∧ o < 0x8100 then some (writeRing n ((o - 0x8000) / 0x40) (o % 0x40 / 8) w s)
    else some (writePart n (o / 8) w s)
  else if 0x300000 ≤ off ∧ off < 0x380000 then
    some (writeQueueReg ((off - 0x300000) / 0x10000) (off % 0x10000 / 0x40) (off % 0x40 / 8) w s)
  else none

/-- The first of the three parts of the map that has the register. -/
def writeWord (path : RegPath) (off : Nat) (w : RegW) (s : State) : Option State :=
  match writeLow path off w s with
  | some t => some t
  | none =>
    match writeMid path off w s with
    | some t => some t
    | none => writeHigh path off w s

/-- A write of the full space (R417): read-only registers ignore it, and where no register lies it is an access error. -/
def writeSpaceReg (path : RegPath) (off width v : Nat) (s : State) : State :=
  match regWrite off width v with
  | none => accessError s
  | some w =>
    match writeWord path (off / 8 * 8) w s with
    | some t => t
    | none => if (regWord s (off / 8 * 8) 0).isSome then s else accessError s

/-- A write in a virtual function's window (R420): its HOST_RING_ registers; its PART_ registers are read-only. -/
def writeVfWindow (n off width v : Nat) (s : State) : State :=
  match regWrite off width v with
  | none => accessError s
  | some w =>
    if 0x8000 ≤ off ∧ off < 0x8100 then writeRing n ((off - 0x8000) / 0x40) (off % 0x40 / 8) w s else accessError s

/-- A register write on a path (R418, R420). -/
def writeReg (path : RegPath) (off width v : Nat) (s : State) : State :=
  match path with
  | .vf n => writeVfWindow n off width v s
  | _ => writeSpaceReg path off width v s

end Sys2Proof.Machine
end

