-- ==== Sys2Proof/Machine/Power.lean ====
section
/-! DEFINITION. Power control, thermal limits, supplies and resets (R389 to R391, R397, R401 to R407): what the controller
orders, what each sensor and supply event does, and what each reset keeps. -/

namespace Sys2Proof.Machine

/-! The controller (R99, R401, R403, R404) -/

/-- The effective clock below a programmed one by sixteenths of the span down to 400 MHz (R404). -/
def effClock (cclk stretch : Nat) : Nat := cclk - (cclk - 400) * stretch / 16

/-- POWER_CONTROL_TICK (R403): above P_lim the controller lowers, below it raises. -/
def execPowerControlTick (inputW : Nat) (s : State) : Result :=
  .next (modPower (fun p => { p with
    inputW := inputW, lowering := decide (pLim10 s < inputW * 10), raising := decide (inputW * 10 < pLim10 s) }) s)

/-- The depth of the CCLK spread applied, in millionths (R401): the PWR_CLK_CTRL setting, or what keeps the sweep at 400 MHz. -/
def spreadDepth (cclk setting : Nat) : Nat := min (setting * 1250) (1000000 - 400000000 / cclk)

/-- The mean of the spread clock in kHz (R401): lower than the top of the sweep by half the depth. -/
def meanClock (cclk setting : Nat) : Nat := cclk * (2000000 - spreadDepth cclk setting) / 2000

/-- CLOCK_STRETCH_STEP (R404): one sixteenth down while lowering; one up while raising, once no issue is held. -/
def execClockStretchStep (s : State) : Result :=
  let p := s.power
  let n := if p.lowering then min 16 (p.stretch + 1) else if p.raising ∧ p.hold = 0 then p.stretch - 1 else p.stretch
  .next (modPower (fun q => { q with stretch := n, fEff := effClock q.cclkRun n }) s)

/-- ISSUE_HOLD_STEP (R404): issue is held only at the lowest clock, and released before the clock rises. -/
def execIssueHoldStep (s : State) : Result :=
  let p := s.power
  let n := if p.lowering then (if p.stretch = 16 then min 15 (p.hold + 1) else p.hold)
    else if p.raising then p.hold - 1 else p.hold
  .next (modPower (fun q => { q with hold := n }) s)

/-- Does some core run a tile? -/
def tilesInFlight (s : State) : Bool := s.cores.any fun e => !e.2.tiles.isEmpty

/-- CCLK_CHANGE (R99, R401): the written CCLK takes effect between tiles, once no canvas runs one; the stretch keeps its sixteenths.
While a tile runs, no other starts (mayIssue) and the change waits. -/
def execCclkChange (s : State) : Result :=
  .next (if tilesInFlight s then s else modPower (fun p => { p with cclkRun := p.cclk, fEff := effClock p.cclk p.stretch }) s)

/-! Temperatures (R405) -/

/-- Stores a reading: 0 to 151 on the dies, 0x100 and up the HBM stacks. -/
def putReading (sensor : Nat) (t : Int) (s : State) : State :=
  modThermal (fun h =>
    if sensor < 0x100 then { h with sensors := tput sensor t h.sensors } else { h with hbm := tput (sensor - 0x100) t h.hbm }) s

/-- Is some sensor at or above its throttle threshold? -/
def anyHot (h : Thermal) : Bool :=
  h.sensors.any (fun e => ((h.throttle * 8 : Nat) : Int) ≤ e.2) || h.hbm.any (fun e => ((h.hbmThrottle * 8 : Nat) : Int) ≤ e.2)

/-- Is every sensor 3 °C or more below its throttle threshold? -/
def allCool (h : Thermal) : Bool :=
  h.sensors.all (fun e => e.2 + 24 ≤ ((h.throttle * 8 : Nat) : Int)) &&
    h.hbm.all (fun e => e.2 + 24 ≤ ((h.hbmThrottle * 8 : Nat) : Int))

/-- The thermal limit after one millisecond (R405). -/
def nextThermalLimit (h : Thermal) (fused limit : Nat) : Nat :=
  if anyHot h then max 1200 (limit - 50) else if allCool h then min fused (limit + 50) else limit

/-- THERMAL_LIMIT_STEP (R405): once a millisecond, on the sensors' readings. -/
def execThermalLimitStep (readings : List (Nat × Int)) (s : State) : Result :=
  let s1 := readings.foldl (fun s r => putReading r.1 r.2 s) s
  let n := nextThermalLimit s1.thermal (fusedMax s1) (min (fusedMax s1) s1.power.thermalLimit)
  .next (modThermal (fun h => { h with throttling := decide (n < fusedMax s1) }) (modPower (fun p => { p with thermalLimit := n }) s1))

/-- Alert and trip thresholds of a sensor, in 0.125 °C. -/
def alertAt (h : Thermal) (sensor : Nat) : Int := ((if sensor < 0x100 then h.alert else h.hbmAlertAt) * 8 : Nat)
def tripAt (sensor : Nat) : Int := if sensor < 0x100 then 880 else 840

/-- THERMAL_ALERT (R405): the sticky bit and a WARNING entry. -/
def execThermalAlert (sensor : Nat) (reading : Int) (s : State) : Result :=
  let s1 := putReading sensor reading s
  .next (if alertAt s.thermal sensor ≤ reading then
    note 0x0407 (fun e => { e with source := 0x0410, arg := BitVec.ofNat 64 sensor })
      (modThermal (fun h =>
        { h with junctionAlert := h.junctionAlert || sensor < 0x100, hbmAlert := h.hbmAlert || 0x100 ≤ sensor }) s1)
  else s1)

/-! Losing the main rails (R390, R391) -/

/-- The host's memory, which no event of the module touches. -/
def hostMemory (s : State) : Memory := { host := s.mem.host }

/-- The ports after a reset: as at reset, but for the cages an assembly is missing from (R402). -/
def resetPorts (s : State) : Lantern :=
  { ports := (s.lantern.ports.filter fun e => e.2.noAssembly).map fun e => (e.1, { noAssembly := true }) }

/-- The ports with the main rails off: their registers of the management domain, LP_CTRL and LP_BOND, stay (R391, R421; log entry 143). -/
def stoppedPorts (s : State) : Lantern :=
  { ports := s.lantern.ports.map fun e => (e.1, {
      enable := e.2.enable, loopback := e.2.loopback, axis := e.2.axis, dateline := e.2.dateline, bond := e.2.bond, noAssembly := e.2.noAssembly }) }

/-- Every main rail off (R391): HBM, caches, SRAM and all running work are lost; log, boot count and flash stay, with the
keeper and management domain's registers. The module enters STANDBY. -/
def mainOff (s : State) : State :=
  { State.reset with
    pending := s.pending, free := s.free, time := s.time, pkg := { s.pkg with state := 2 }, fuse := s.fuse, flash := s.flash
    supplies := { s.supplies with mainOn := false, standbyLatched := true }
    power := { s.power with domains := 0x80000000000000000000000000000000, stretch := 0, hold := 0, fEff := 0, lowering := false, raising := false, inputW := 0 }
    thermal := s.thermal, log := s.log, out := { s.out with arbs := [] }, mem := hostMemory s, lantern := stoppedPorts s
    repair := { State.reset.repair with reserveMin := s.repair.reserveMin } }

/-- THERMAL_TRIP (R405): the rails go off, THERMTRIP_N latches low and a FATAL entry is written. -/
def execThermalTrip (sensor : Nat) (reading : Int) (s : State) : Result :=
  let s1 := putReading sensor reading s
  .next (if tripAt sensor ≤ reading then
    setErr 4 (note 0x0408 (fun e => { e with source := 0x0410, arg := BitVec.ofNat 64 sensor })
      (modThermal (fun h => { h with tripPin := true, tripSeen := true }) (mainOff s1)))
  else s1)

/-! The brake and the main input (R390, R403, R404) -/

/-- BRAKE_APPLY (R404). -/
def execBrakeApply (s : State) : Result := .next (modPower (fun p => { p with brakePin := true, brakeSeen := true }) s)

/-- BRAKE_RELEASE (R404). -/
def execBrakeRelease (s : State) : Result := .next (modPower (fun p => { p with brakePin := false }) s)

/-- INPUT_UNDERVOLTAGE (R390). -/
def execInputUndervoltage (s : State) : Result :=
  .next (modPower (fun p => { p with uv := true, brakeUv := true, brakeSeen := true }) s)

/-- INPUT_BROWNOUT (R390, R391). -/
def execInputBrownout (s : State) : Result :=
  let s1 := mainOff s
  .next (note 0x0409 (fun e => { e with source := 0x0410 }) { s1 with supplies := { s1.supplies with inputOk := false } })

/-- INPUT_OVERVOLTAGE (R390). -/
def execInputOvervoltage (s : State) : Result := .next (modPower (fun p => { p with ov := true }) s)

/-- INPUT_BACK_IN_RANGE (R390): the undervoltage brake ends. A module in STANDBY stays there until MOD_RST_N. -/
def execInputBackInRange (s : State) : Result :=
  let s1 := modPower (fun p => { p with brakeUv := false }) s
  .next { s1 with supplies := { s1.supplies with inputOk := true } }

/-- The power registers a reset of the controller leaves: PWR_CAP and the thermal limit at the module's fused maximum (R4, R5, R403). -/
def resetPower (s : State) : Power := { State.reset.power with cap := fusedMax s, thermalLimit := fusedMax s }

/-- AUX_LOSS (R391): everything but the flash is lost, the log included; the module is dark. -/
def execAuxLoss (s : State) : Result :=
  .next { State.reset with
    pending := s.pending, free := s.free, fuse := s.fuse, flash := s.flash, out := { s.out with arbs := [] }
    mem := hostMemory s, lantern := resetPorts s
    supplies := { s.supplies with auxOk := false, mainOn := false, standbyLatched := false }
    power := { resetPower s with domains := 0 } }

/-- AUX_IN_RANGE (R389): the keeper and management domain comes up; a COLD_BOOT may follow. -/
def execAuxInRange (s : State) : Result :=
  let s1 := modPower (fun p => { p with domains := p.domains ||| 0x80000000000000000000000000000000 }) s
  .next { s1 with supplies := { s1.supplies with auxOk := true } }

/-! Module reset and cold boot (R391 to R394, R397) -/

/-- The flash after a module reset: a trial is over, and a slot being written stays not VALID (R399). -/
def flashAfterReset (f : Flash) : Flash :=
  { f with slotA := { f.slotA with trial := false }, slotB := { f.slotB with trial := false } }

/-- May the main rails come up: both supplies in range, and after a trip every sensor below 90 °C (R389, R391, R405)? -/
def mayBoot (s : State) : Bool :=
  s.supplies.auxOk && s.supplies.inputOk &&
    (!s.thermal.tripPin || (s.thermal.sensors.all (fun e => decide (e.2 < 720)) && s.thermal.hbm.all (fun e => decide (e.2 < 720))))

/-- MOD_RST_N_ASSERT (R391, R373, R421): every domain but the log array and the management buses is reset, and every
incarnation becomes 0. TRIP_SEEN and the latched trip stay; so does STANDBY where the rails must stay off. -/
def execModRstNAssert (s : State) : Result :=
  .next { State.reset with
    pending := s.pending, free := s.free, fuse := s.fuse, flash := flashAfterReset s.flash, log := s.log, out := { s.out with arbs := [] }
    mem := hostMemory s, lantern := resetPorts s
    pkg := { State.reset.pkg with state := if mayBoot s then 0 else 2 }
    supplies := { s.supplies with mainOn := false, resetHeld := true }
    thermal := { State.reset.thermal with tripSeen := s.thermal.tripSeen, tripPin := s.thermal.tripPin, sensors := s.thermal.sensors, hbm := s.thermal.hbm }
    power := { resetPower s with brakePin := s.power.brakePin, brakeUv := s.power.brakeUv, phases := s.power.phases } }

/-- The CRITICAL entry of a firmware slot that failed at boot (R393). -/
def noteSlot (slot : Nat) (s : State) : State :=
  note 0x0701 (fun e => { e with source := 0x0410, arg := BitVec.ofNat 64 slot }) s

/-- The module's 7-bit SMBus address and its I3C static address: 0x60 plus its position (R397). -/
def managementAddress (s : State) : Nat := 0x60 + s.pkg.straps.toNat

/-- The slot that boots (R393): the ACTIVE one, else the other, which becomes ACTIVE; none for RECOVERY. -/
def bootSlot (f : Flash) (aOk bOk : Bool) : Option Bool :=
  let ok := fun (b : Bool) => if b then bOk && f.slotB.valid else aOk && f.slotA.valid
  if ok f.activeB then some f.activeB else if ok (!f.activeB) then some (!f.activeB) else none

/-- COLD_BOOT (R392, R393, R397): straps latch; the firmware boots, the boot count advances and the main rails come up; in
RECOVERY or STANDBY they stay off. slotAOk and slotBOk say whether a slot authenticates and passes its version check. -/
def execColdBoot (straps : BitVec 4) (slotAOk slotBOk : Bool) (s : State) : Result :=
  if !s.supplies.resetHeld then .next s
  else
    let s0 := modPkg (fun p => { p with straps := straps }) { s with supplies := { s.supplies with resetHeld := false } }
    if !mayBoot s then .next (modPkg (fun p => { p with state := 2 }) s0)
    else
      match bootSlot s.flash slotAOk slotBOk with
      | none =>
        .next (noteSlot 1 (noteSlot 0 (modThermal (fun t => { t with tripPin := false }) (modPkg (fun p => { p with state := 3 }) s0))))
      | some b =>
        let slot := if b then s.flash.slotB else s.flash.slotA
        let s1 := { modThermal (fun t => { t with tripPin := false }) (modPkg (fun p => { p with state := 0 }) s0) with
          flash := { s.flash with activeB := b, bootCount := (s.flash.bootCount + 1) % 2 ^ 16 }
          supplies := { s0.supplies with mainOn := true, standbyLatched := false }
          keepers := { s0.keepers with runningVersion := slot.version } }
        .next (if b = s.flash.activeB then s1 else noteSlot (if s.flash.activeB then 1 else 0) s1)

/-- REGULATOR_PHASE_LOSS (R374, R378): the phase is shed; a second one on a rail raises the fog warning. Phases are numbered
rail × 64 + phase, rail 0 the core rail. -/
def execRegulatorPhaseLoss (rail phase : Nat) (s : State) : Result :=
  let key := rail * 64 + phase % 64
  if s.power.phases.contains key then .next s
  else
    let s1 := note 0x0406 (fun e => { e with source := 0x0410, arg := BitVec.ofNat 64 (rail * 2 ^ 16 + phase) })
      (modPower (fun p => { p with phases := p.phases ++ [key] }) s)
    .next (if phasesLost s1 rail = 2 then fogWarning 9 rail s1 else s1)

/-- PERST_N_RELEASE (R394, R402): the host I/O domain is on and the link trains to a rate and width. -/
def execPerstNRelease (rate width : Nat) (flit : Bool) (s : State) : Result :=
  .next { s with
    supplies := { s.supplies with perstHeld := false }
    pkg := { s.pkg with linkRate := rate, linkWidth := width, noFlit := !flit }
    power := { s.power with domains := s.power.domains ||| BitVec.ofNat 128 (2 ^ 126) } }

/-- ALERT_N (R410): asserted while an unmasked error bit, a power sticky bit or a thermal alert bit is set. -/
def alertN (s : State) : Bool :=
  (s.pkg.errStatus &&& ~~~(s.pkg.errMask.truncate 7)) != 0 || s.power.uv || s.power.ov || s.power.capClamped || s.power.brakeSeen ||
    s.thermal.junctionAlert || s.thermal.hbmAlert || s.thermal.tripSeen

end Sys2Proof.Machine
end

