-- ==== Sys2Proof/Machine/Abort.lean ====
section
/-! DEFINITION. Commands that are taken away without an answer of their own (R302, R353): function-level resets, PERST_N, and hard
pre-emptions that are aborted. -/

namespace Sys2Proof.Machine

/-- Was an operation issued by one of these commands? -/
def hostBy (p : Cmd → Bool) (who : Issuer) : Bool := match who with | .host c => p c | .unit _ _ => false

/-! Where a started command can stand -/

/-- Their compute work. -/
def dropJobs (p : Cmd → Bool) (s : State) : State :=
  (s.jobs.filter fun e => p e.2.cmd).foldl (fun s e => dropJobWork e.1 { s with jobs := tdel e.1 s.jobs }) s

/-- A core without the waits and held signals of these commands. -/
def coreWithout (p : Cmd → Bool) (c : Core) : Core :=
  { c with
    flags := c.flags.map fun f => (f.1, { f.2 with waiters := f.2.waiters.filter fun w => !hostBy p w.who })
    fence := c.fence.map fun f => { f with
      signals := f.signals.filter fun g => !hostBy p g.who
      held := f.held.map fun o => match o with | .fence gs => .fence (gs.filter fun g => !hostBy p g.who) | o => o } }

/-- Their waits, blocked signals and acquisitions leave without effect. -/
def dropWaits (p : Cmd → Bool) (s : State) : State :=
  { s with
    objects := s.objects.map fun e => (e.1, { e.2 with waiters := e.2.waiters.filter fun w => !hostBy p w.who })
    cores := s.cores.map fun e => (e.1, coreWithout p e.2)
    remoteOps := s.remoteOps.filter fun o => !hostBy p o.who }

/-- A swap goes on without the command that asked for it. -/
def unasked (p : Cmd → Bool) (t : Transfer) : Transfer :=
  { t with purpose := match t.purpose with
      | .swapOut (some c) i => .swapOut (if p c then none else some c) i
      | .swapIn (some c) i => .swapIn (if p c then none else some c) i
      | x => x }

/-- Is a transfer one of these commands' own? -/
def transferBy (p : Cmd → Bool) (t : Transfer) : Bool := match t.purpose with | .command c => p c | .dispatch c _ _ _ => p c | .buddy (some c) _ _ => p c | _ => false

/-- Their transfers leave their channels: they issue no further packet, and later answers are stale (R161). -/
def dropTransfers (p : Cmd → Bool) (s : State) : State :=
  { s with channels := s.channels.map fun e => (e.1, { e.2 with
      transfers := (e.2.transfers.filter fun t => !transferBy p t).map (unasked p)
      translations := if (e.2.transfers.take 1).any (transferBy p) then [] else e.2.translations }) }

/-- A queue without the flushes of these commands. -/
def queueWithout (p : Cmd → Bool) (q : Queue) : Queue := { q with flushes := q.flushes.filter fun f => !p f.1 }

/-- Queues one of these commands is destroying, as (region, number). -/
def destroyedBy (p : Cmd → Bool) (s : State) : List (Nat × Nat) :=
  s.engines.flatMap fun e => (e.2.queues.filter fun q => q.2.destroy.any fun d => p d.1).map fun q => (e.1, q.1)

/-- Their flushes go; a queue being destroyed is destroyed at once. -/
def dropFlushes (p : Cmd → Bool) (s : State) : State :=
  (destroyedBy p s).foldl (fun s k => removeQueue k.1 k.2 s)
    { s with engines := s.engines.map fun e => (e.1, { e.2 with queues := e.2.queues.map fun q => (q.1, queueWithout p q.2) }) }

/-- A job record without these commands; a restore one of them asked for goes on unasked. -/
def jobWithout (p : Cmd → Bool) (j : Job) : Job :=
  { j with
    soft := match j.soft with | some (some c) => if p c then none else j.soft | x => x
    hard := j.hard.filter fun c => !p c
    waiters := j.waiters.filter fun c => !p c
    restoring := j.restoring.map fun r => r.filter fun c => !p c
    interrupted := j.interrupted.filter fun c => !p c }

/-- A partition's units without these commands: stage, norm, flips, retirements, expert maps and pre-emptions. -/
def partWithout (p : Cmd → Bool) (x : Partition) : Partition :=
  { x with
    stage := { x.stage with run := x.stage.run.filter fun r => !p r.cmd, drain := x.stage.drain.filter fun d => !p d.1 }
    learning := { x.learning with norm := x.learning.norm.filter fun r => !p r.cmd }
    gens := { x.gens with flips := x.gens.flips.filter fun f => !p f.cmd, retires := x.gens.retires.filter fun r => !p r.1 }
    experts := { x.experts with
      waiting := x.experts.waiting.filter fun w => !p w.1, dispatches := x.experts.dispatches.filter fun d => !p d.cmd }
    jobs := x.jobs.map fun j => (j.1, jobWithout p j.2) }

/-- Is a reduction one of these commands' own? -/
def reductionBy (p : Cmd → Bool) (r : Reduction) : Bool := r.cmd.any p

/-- Their reductions leave a group; where the running one did, the next starts (R265). -/
def dropReductions (p : Cmd → Bool) (part group : Nat) (s : State) : State :=
  let rs := tgetD group [] (learningOf s part).reductions
  let s1 := modLearning part (fun l => { l with reductions := tupd group (fun rs => rs.filter fun r => !reductionBy p r) l.reductions }) s
  if (rs.take 1).any (reductionBy p) then launchRing part group s1 else s1

/-- Everything of a partition that one of these commands started. -/
def dropPart (p : Cmd → Bool) (part : Nat) (s : State) : State :=
  let x := partOf s part
  let s1 := modPart part (partWithout p) s
  let s2 := (x.gens.stagings.filter fun g => p g.cmd).foldl (fun s g => closeStaging part g s) s1
  settleDrain part ((x.learning.reductions.map (·.1)).foldl (fun s g => dropReductions p part g s) s2)

/-- The command a held serving command is. -/
def heldCmd : Held → Cmd
  | .release c _ => c | .rollback c _ _ _ => c | .fork c _ _ _ => c | .verify c _ _ _ => c | .deadline c _ _ _ _ => c | .swapOut c _ _ => c
  | .swapIn c _ => c

/-- Their batch steps end without a commit: what was held behind one runs, and its model has a boundary (R249, R284). -/
def dropStep (p : Cmd → Bool) (s : State) (e : Nat × BatchStep) : State :=
  let held := e.2.held.filter fun h => !p (heldCmd h)
  if p e.2.cmd then
    tryRetires e.1 (held.foldl (fun s h => applyHeld h s)
      (boundary e.1 e.2.model (modServing (fun v => { v with steps := tdel e.1 v.steps }) s)))
  else modServing (fun v => { v with steps := tput e.1 { e.2 with held := held } v.steps }) s

/-- Their self-tests stop, and the unit stays retired; a firmware activation goes on without its command. -/
def dropService (p : Cmd → Bool) (s : State) : State :=
  let s1 := modUnits (fun u => { u with selfTest := u.selfTest.filter fun t => !p t.2 }) s
  { s1 with keepers := { s1.keepers with fwCmd := s1.keepers.fwCmd.map fun f => (f.1.filter fun c => !p c, f.2) } }

/-- Takes started commands away from every place they stand in, without an answer. -/
def dropWork (p : Cmd → Bool) (s : State) : State :=
  let s1 := dropService p (dropFlushes p (dropTransfers p (dropWaits p (dropJobs p s))))
  let s2 := (s1.parts.map (·.1)).foldl (fun s k => dropPart p k s) s1
  s2.serving.steps.foldl (dropStep p) s2

/-! Function-level resets (R302) -/

/-- Commands a function's rings have started and not ended. -/
def startedOf (s : State) (fn : Nat) : List Cmd := (List.range 4).flatMap fun r => (ringOf s fn r).started

/-- Commands of a function that have ended, whose replies are not written. -/
def unwritten (s : State) (fn : Nat) : List Reply := (List.range 4).flatMap fun r => (ringOf s fn r).replies

/-- What a stopped command of a reset function leaves: its completion signal with POISON, and an entry with ST_PREEMPT_ABORTED. -/
def abortSignal (fn : Nat) (s : State) (c : Cmd) : State :=
  note 0x0608 (fun e => { e with
    status := 0x23, part := c.part, source := fnUnit fn, inc := incOf s (fnUnit fn)
    arg := BitVec.ofNat 64 (c.tag.toNat + 0x23 * 2 ^ 32) }) (signalCompletion c .preemptAborted s)

/-- The jobs of a function hold nothing any more (R346): neither a stop nor what one saved. -/
def freshJobs (fn : Nat) (s : State) : State :=
  { s with parts := s.parts.map fun e => (e.1, { e.2 with jobs := e.2.jobs.map fun j =>
      if (fn = 16 ∧ j.1 = 4) ∨ (fn = e.1 ∧ j.1 < 4) then (j.1, { locks := j.2.locks }) else j }) }

/-- One function's reset: its rings are disabled and their unstarted packets discarded; its commands stop at once, a running tile
counting as not begun (log entry 58); its locks are orphaned, and its incarnation advances. -/
def resetFunction (fn : Nat) (s : State) : State :=
  let ended := unwritten s fn
  let cs := startedOf s fn
  let s1 := freshJobs fn (dropWork (fun c => c.fn == fn) s)
  let s2 := { s1 with rings := (List.range 4).foldl (fun t r => tdel (ringKey fn r) t) s1.rings }
  let s3 := cs.foldl (abortSignal fn) (ended.foldl (fun s r => signalReply r s) s2)
  let s4 := sweepOwner (unitId s3 (fnUnit fn)) s3
  { s4 with fnInc := tmod fn 0 (fun n => (n + 1) % 256) s4.fnInc }

/-- The functions a reset covers: the physical function's takes every virtual one with it. -/
def resetCovers (fn : Nat) : List Nat := if fn = 16 then List.range 17 else [fn]

/-- FUNCTION_LEVEL_RESET (R302, R421). -/
def execFunctionLevelReset (fn : Nat) (s : State) : Result :=
  if fn ≤ 16 then .next ((resetCovers fn).foldl (fun s f => resetFunction f s) s) else .fault .noSuchUnit

/-- PERST_N_ASSERT (R391, R402, R421): the link goes down and every function is reset; with PWR_HOST_OFF set the host I/O domain goes
off. PERST_N held low already changes nothing. -/
def execPerstNAssert (s : State) : Result :=
  if s.supplies.perstHeld then .next s
  else
    let s1 := (resetCovers 16).foldl (fun s f => resetFunction f s) s
    .next (hostIoOff { s1 with
      supplies := { s1.supplies with perstHeld := true }, pkg := { s1.pkg with linkRate := 0, linkWidth := 0, noFlit := false } })

/-! Aborted hard pre-emptions (R353) -/

/-- Started commands of a job of a partition (R346). -/
def startedOfJob (s : State) (part j : Nat) : List Cmd :=
  (ringsOfJob part j).flatMap fun r => (ringOf s r.1 r.2).started.filter fun c => c.part == part

/-- The PREEMPT commands that wait for a job's stop. -/
def stopWaiters (j : Job) : List Cmd := j.hard.toList ++ (j.soft.bind id).toList ++ j.waiters

/-- Orphans one lock of a record (R181): in this module's store, or by a sweep to another's. -/
def orphanLock (s : State) (l : Nat × BitVec 32 × UnitId) : State :=
  if l.1 ≠ ownModule s then
    send (outPacket s .lockOp (.unit 0 l.2.2) l.1 1 (signalAddr l.2.1) (3 + l.2.2.unit * 2 ^ 32 + l.2.2.inc * 2 ^ 48) []) s
  else
    match handleRef l.2.1 with
    | .object i =>
      match tget i s.objects with
      | some o => answerAll l.2.1 (sweepObj l.2.2 o).2 (putObj i (sweepObj l.2.2 o).1 s)
      | none => s
    | _ => s

/-- The partition's job is terminated: its commands end with ST_PREEMPT_ABORTED, its locks are orphaned, and so ends PREEMPT. It is held
until RESUME, with nothing saved (log entry 59). -/
def terminateJob (part j : Nat) (s : State) : State :=
  let x := jobOf (partOf s part) j
  let ps := stopWaiters x
  let cs := (startedOfJob s part j).filter fun c => !ps.contains c
  let s1 := finishAll cs (ans .preemptAborted) (dropWork cs.contains s)
  let s2 := x.locks.foldl orphanLock s1
  let s3 := finishAll ps (ans .preemptAborted) (modJob part j (fun _ => { stopped := true }) s2)
  note 0x0609 (fun e => { e with status := 0x23, part := part, source := headUnit, arg := BitVec.ofNat 64 j }) s3

/-- PREEMPT_ABORT (R353): 100 µs after a hard pre-emption whose lock record has not emptied. -/
def execPreemptAbort (part job : Nat) (s : State) : Result :=
  let x := jobOf (partOf s part) job
  .next (if x.hard.isSome ∧ ¬ x.locks.isEmpty ∧ ¬ x.saving then terminateJob part job s else s)

end Sys2Proof.Machine
end

