-- ==== Sys2Proof/Machine/Preempt.lean ====
section
/-! DEFINITION. Jobs, slices and pre-emption (R346 to R356): SCHED_PARAMS, PREEMPT and RESUME, the stop of a job and its restore. -/

namespace Sys2Proof.Machine

/-- SCHED_PARAMS (R348, R290, R287, R241, R289). -/
def execSchedParams (c : Cmd) (target mode kvPolicy pageMax slice drainTimeout : Nat) (s : State) : Result :=
  if 16 ≤ target then done c (ans .badLength 0xE) s
  else
    done c (ans .ok) (modPart target (fun p => { p with
      mode := mode, kvPolicy := kvPolicy, pageMax := pageMax, slice := slice, drainMs := drainTimeout }) s)

/-! What a stop saves -/

/-- Is a command of a partition's job? -/
def ofJob (part j : Nat) (c : Cmd) : Bool := c.part == part && jobOfCmd c == j

/-- Does a job hold its partition's cores? -/
def holdsCores (s : State) (part j : Nat) : Bool := (partOf s part).holder == some j

/-- Is an issuer stopped with a job: its command, or, where it holds the cores, a core of the partition? -/
def stoppedIssuer (s : State) (part j : Nat) (who : Issuer) : Bool :=
  match who with
  | .host c => ofJob part j c
  | .unit _ u => holdsCores s part j && u.module == ownModule s && decide (u.unit < 864) && partOfCore s u.unit == some part

/-- The handle of a local flag (R166). -/
def flagHandle (logical flag : Nat) : BitVec 32 := BitVec.ofNat 32 (2 ^ 30 + logical * 32 + flag)

/-- The entries a stop withdraws, with the handles they wait on (R354). -/
def withdrawn (s : State) (part j : Nat) : List (BitVec 32 × Waiter) :=
  (s.objects.flatMap fun e => (e.2.waiters.filter fun w => stoppedIssuer s part j w.who).map fun w => (BitVec.ofNat 32 e.1, w)) ++
    s.cores.flatMap fun e => match logicalOf s e.1 with
      | some n => e.2.flags.flatMap fun f =>
          (f.2.waiters.filter fun w => stoppedIssuer s part j w.who).map fun w => (flagHandle n f.1, w)
      | none => []

/-- Local flags without the entries a stop withdraws. -/
def flagsWithout (pick : Issuer → Bool) (fs : Tbl LocalFlag) : Tbl LocalFlag :=
  fs.map fun f => (f.1, { f.2 with waiters := f.2.waiters.filter fun w => !pick w.who })

/-- Withdraws them, without effect on their objects. -/
def withdraw (part j : Nat) (s : State) : State :=
  let pick := stoppedIssuer s part j
  { s with
    objects := s.objects.map fun e => (e.1, { e.2 with waiters := e.2.waiters.filter fun w => !pick w.who })
    cores := s.cores.map fun e => (e.1, { e.2 with flags := flagsWithout pick e.2.flags }) }

/-- Is a stream one of a job's transfers? -/
def streamOfJob (s : State) (part j : Nat) (o : StreamOut) : Bool :=
  s.channels.any fun e => e.2.transfers.any fun t => transferBy (ofJob part j) t && streamOf (e.1 / 16) (e.1 % 16) t o

/-- The transfers of a job's commands issue no further packet and give their streams no more bytes, or go on (R354, R356). -/
def pauseTransfers (part j : Nat) (paused : Bool) (s0 : State) : State :=
  let s := if paused then modPorts (cutStreams (streamOfJob s0 part j)) s0 else s0
  { s with channels := s.channels.map fun e => (e.1, { e.2 with
      transfers := e.2.transfers.map fun t => if transferBy (ofJob part j) t then { t with paused := paused } else t }) }

/-- What one core keeps for its job. -/
def coreRecord (s : State) (n : Nat) : List SavedCore :=
  match physOf s n with
  | some p =>
    let c := coreOf s p
    [{ core := n, brush := c.brush, work := (c.tiles.map (·.desc)) ++ c.work, tileWait := c.tileWait, accFlags := c.accFlags
       haloWait := c.haloWait }]
  | none => []

/-- The bytes of one live range (R350): of one logical core, or of every core for CORE 0xFFFF. -/
def rangeBytes (s : State) (ls : List Nat) (r : Nat × Nat × Nat × Nat) : List (Bool × Nat × Nat × List Byte) :=
  (if r.1 = 0xFFFF then ls else ls.filter (· == r.1)).filterMap fun n =>
    (physOf s n).map fun p =>
      let off := r.2.2.1 * 64
      let len := r.2.2.2 * 64
      if r.2.1 = 1 then (true, n, off, mreadN (p * 0x20000 + off) len s.mem.acc)
      else (false, n, off, mreadN (p * 0x200000 + off) len s.mem.palette)

/-- Everything a full save holds (R353): each core's palette and accumulator memory. -/
def fullRanges : List (Nat × Nat × Nat × Nat) := [(0xFFFF, 0, 0, paletteBytes / 64), (0xFFFF, 1, 0, accBytes / 64)]

/-- The poisoned palette units among saved ranges. -/
def poisonSaved (s : State) (rs : List (Bool × Nat × Nat × List Byte)) : List (Nat × Nat) :=
  (rs.filter fun r => !r.1).flatMap fun r => match physOf s r.2.1 with
    | some p => ((List.range (r.2.2.2.length / 64)).map (· + r.2.2.1 / 64)).filterMap fun u =>
        if s.mem.poisonPalette.contains (p * 0x8000 + u) then some (r.2.1, u) else none
    | none => []

/-- What a job that stops leaves behind (R350, R353, R354); one that does not hold the cores leaves only its waits. -/
def savedOf (s : State) (part j : Nat) (ranges : List (Nat × Nat × Nat × Nat)) : Saved :=
  let ls := if holdsCores s part j then logicalsOf s part else []
  let rs := ranges.flatMap (rangeBytes s ls)
  { epoch := (partOf s part).epoch, waits := withdrawn s part j, cores := ls.flatMap (coreRecord s), ranges := rs, poison := poisonSaved s rs }

/-- Takes a job's unstarted tiles off its cores. -/
def clearCores (part j : Nat) (s : State) : State :=
  if holdsCores s part j then
    (logicalsOf s part).foldl (fun s n => match physOf s n with
      | some p => modCore p (fun c => { c with
          tiles := [], work := [], tileWait := none, haloWait := false, waiting := s.remoteOps.any fun o => issuerId s o.who == unitId s p }) s
      | none => s) s
  else s

/-! Stops -/

/-- Does a job hold an open queue packet (R351)? -/
def holdsOpen (s : State) (part j : Nat) : Bool :=
  (s.engines.any fun e => e.2.queues.any fun q => q.2.part == part && q.2.eps.any fun x => x.openJob == some j) ||
    s.proxies.any fun p => p.part == part && p.openJob == some j

/-- The check made at a cheap point (R351). -/
def pointAllowed (s : State) (part j : Nat) : Bool := (jobOf (partOf s part) j).locks.isEmpty && !holdsOpen s part j

/-- Started commands of a job other than the PREEMPTs that wait for its stop. -/
def workOf (s : State) (part j : Nat) : List Cmd :=
  let ps := stopWaiters (jobOf (partOf s part) j)
  (startedOfJob s part j).filter fun c => !ps.contains c

/-- Have the issued packets of a job's transfers all been answered? -/
def packetsSettled (s : State) (part j : Nat) : Bool :=
  s.channels.all fun e => e.2.transfers.all fun t => !transferBy (ofJob part j) t || (t.out.isEmpty && t.checks == 0)

/-- A job stops: its ring starts nothing more, its waits are withdrawn, its transfers pause, and its save begins. -/
def beginStop (part j : Nat) (ranges : List (Nat × Nat × Nat × Nat)) (s : State) : State :=
  let saved := savedOf s part j ranges
  modJob part j (fun x => { x with stopped := true, saving := true, saved := saved })
    (clearCores part j (pauseTransfers part j true (withdraw part j s)))

/-- The interim reply of a stopped command (R354). -/
def interim (s : State) (c : Cmd) : State :=
  modRing c.fn c.ring (fun r => { r with
    replies := r.replies ++ [{ cmd := c, answer := ans .preempted, time := s.time.now, final := false, isSignalled := false }] }) s

/-- A save completes (R354, R356): interim replies, and ST_OK to the PREEMPTs. A slice's stop waits for its turn again. -/
def finishStop (part j : Nat) (s : State) : State :=
  let x := jobOf (partOf s part) j
  let cs := workOf s part j
  finishAll (stopWaiters x) (ans .ok)
    (modJob part j (fun x => { x with
      saving := false, soft := none, hard := none, waiters := [], interrupted := cs, sliced := false
      restoring := if x.sliced then some (x.restoring.getD []) else x.restoring }) (cs.foldl interim s))

/-- The live ranges of the cheap points between commands of the plans a partition has loaded (R350). -/
def betweenRanges (s : State) (part : Nat) : List (Nat × Nat × Nat × Nat) :=
  (s.plans.filter fun e => e.2.part == part).flatMap fun e =>
    (e.2.body.cheapPoints.filter fun p => p.template.isNone).flatMap (·.ranges)

/-- A cheap point is reached: taken where R351 allows it, else passed over and counted. -/
def reachPoint (part j : Nat) (ranges : List (Nat × Nat × Nat × Nat)) (s : State) : State :=
  if pointAllowed s part j then beginStop part j ranges s
  else modPart part (fun p => { p with passedOver := p.passedOver + 1 }) s

/-- A soft pre-emption of a job that runs nothing finds it between commands (R350, R356): it stops at once, its save with it. -/
def softNow (part j : Nat) (s : State) : State :=
  if (workOf s part j).isEmpty then
    let s1 := reachPoint part j (betweenRanges s part) s
    if (jobOf (partOf s1 part) j).saving then finishStop part j s1 else s1
  else s

/-- Is a core at a tile boundary: with no tile in its canvases, or waiting for a combining credit before any pass of the one it holds
(R42, R100, R104)? -/
def atBoundary (c : Core) : Bool := match c.tiles with | [] => true | t :: _ => spaceHeld c t.desc

/-- The cores a job runs on have no tile in progress (R353). -/
def tilesDone (s : State) (part j : Nat) : Bool :=
  !holdsCores s part j || (logicalsOf s part).all fun n => match physOf s n with | some p => atBoundary (coreOf s p) | none => true

/-- May a hard pre-emption stop the job now: its lock record is empty and its cores are at tile boundaries? -/
def hardDue (s : State) (part j : Nat) : Bool :=
  let x := jobOf (partOf s part) j
  x.hard.isSome && !x.stopped && x.locks.isEmpty && tilesDone s part j

/-- A hard pre-emption of a job that runs nothing. -/
def hardNow (part j : Nat) (s : State) : State :=
  if (workOf s part j).isEmpty ∧ hardDue s part j then finishStop part j (beginStop part j (betweenRanges s part) s) else s

/-! The commands -/

/-- Which partition and job a PREEMPT or RESUME may name (R346): its own partition's, any for the physical function. -/
def targetCheck (c : Cmd) (target j : Nat) : Option (Status × Nat) :=
  if 16 ≤ target ∨ 4 < j then some (.badLength, 0xE)
  else if c.fn ≠ 16 ∧ target ≠ c.part then some (.tenantViolation, 0)
  else none

/-- PREEMPT of a job that is stopped or stopping (R356): one whose save runs is waited for. A slice's stop becomes a held one. -/
def preemptStopped (c : Cmd) (part j : Nat) (x : Job) (s : State) : State :=
  if x.saving then modJob part j (fun x => { x with waiters := x.waiters ++ [c], sliced := false }) s
  else finish c (ans .ok) (modJob part j (fun x => { x with restoring := if x.restoring = some [] then none else x.restoring }) s)

/-- PREEMPT SOFT (R352, R356). -/
def execPreemptSoft (c : Cmd) (target job : Nat) (s : State) : Result :=
  match targetCheck c target job with
  | some e => done c (ans e.1 e.2) s
  | none =>
    let x := jobOf (partOf s target) job
    if x.stopped then .next (preemptStopped c target job x s)
    else if x.hard.isSome then done c (ans .ok) s
    else if (x.soft.bind id).isSome then .next (modJob target job (fun x => { x with waiters := x.waiters ++ [c] }) s)
    else .next (softNow target job (modJob target job (fun x => { x with soft := some (some c), sliced := false }) s))

/-- PREEMPT HARD (R352, R353, R356): it supersedes a soft one. -/
def execPreemptHard (c : Cmd) (target job : Nat) (s : State) : Result :=
  match targetCheck c target job with
  | some e => done c (ans e.1 e.2) s
  | none =>
    let x := jobOf (partOf s target) job
    if x.stopped then .next (preemptStopped c target job x s)
    else if x.hard.isSome then .next (modJob target job (fun x => { x with waiters := x.waiters ++ [c] }) s)
    else
      .next (hardNow target job (modJob target job (fun x => { x with
        hard := some c, soft := none, sliced := false, waiters := x.waiters ++ (x.soft.bind id).toList }) s))

/-- RESUME (R356): the restore waits for the save and for the job's turn. -/
def execResume (c : Cmd) (target job : Nat) (s : State) : Result :=
  match targetCheck c target job with
  | some e => done c (ans e.1 e.2) s
  | none =>
    if !(jobOf (partOf s target) job).stopped then done c (ans .ok) s
    else .next (modJob target job (fun x => { x with restoring := some (x.restoring.getD [] ++ [c]) }) s)

/-! Events -/

/-- SLICE_EXPIRY (R348, R349): the holder is soft-pre-empted where another job has work; ALTERNATE ignores slices. -/
def execSliceExpiry (part : Nat) (s : State) : Result :=
  let p := partOf s part
  match p.holder with
  | none => .next s
  | some h =>
    let x := jobOf p h
    let other := (List.range 5).any fun j => j != h && jobWants s part j
    if p.slice = 0 ∨ p.mode = 1 ∨ x.stopped ∨ x.soft.isSome ∨ x.hard.isSome ∨ !other then .next s
    else .next (softNow part h (modJob part h (fun x => { x with soft := some none, sliced := true }) s))

/-- The cheap point a job can reach now: between commands, or in a template one of its running commands uses (R350). -/
def pointRanges (s : State) (part j : Nat) (template : Option Nat) (tileIndex : Nat) : Option (List (Nat × Nat × Nat × Nat)) :=
  match template with
  | none => if (workOf s part j).isEmpty then some (betweenRanges s part) else none
  | some t =>
    let runs := fun (e : Nat × Plan) => s.jobs.any fun m =>
      ofJob part j m.2.cmd && m.2.plan == e.1 && e.2.body.templates[t]? == some m.2.template
    (s.plans.filter fun e => e.2.part == part && runs e).findSome? fun e =>
      (e.2.body.cheapPoints.find? fun p => p.template == some t && p.tileIndex == tileIndex).map (·.ranges)

/-- Is a job in a batch step? -/
def inBatch (s : State) (part j : Nat) : Bool := (tget part s.serving.steps).any fun b => ofJob part j b.cmd

/-- CHEAP_POINT (R350 to R352): a job with a soft pre-emption reaches a cheap point; one in SEQ_STEP stops at its commit instead. -/
def execCheapPoint (part job : Nat) (template : Option Nat) (tileIndex : Nat) (s : State) : Result :=
  let x := jobOf (partOf s part) job
  if x.stopped ∨ x.soft.isNone ∨ inBatch s part job then .next s
  else
    match pointRanges s part job template tileIndex with
    | none => .next s
    | some rs => .next (reachPoint part job rs s)

/-- The soft stop of a job at its batch step's commit (R349, R352). -/
def stopAtCommit (part j : Nat) (s : State) : State :=
  let x := jobOf (partOf s part) j
  if x.stopped ∨ x.soft.isNone then s else reachPoint part j (betweenRanges s part) s

/-- Is a stop at a cheap point of the job, so that only its live ranges are saved? A job between commands is. -/
def stopRanges (s : State) (part j : Nat) : List (Nat × Nat × Nat × Nat) :=
  if (workOf s part j).isEmpty then betweenRanges s part else fullRanges

/-- SAVE_COMPLETE (R353, R354, R356): a hard pre-emption that is due stops the job with a full save, and the save of a stopped job
completes once its issued packets are answered. -/
def execSaveComplete (part job : Nat) (s : State) : Result :=
  let s1 := if hardDue s part job then beginStop part job (stopRanges s part job) s else s
  .next (if (jobOf (partOf s1 part) job).saving ∧ packetsSettled s1 part job then finishStop part job s1 else s1)

/-! Restores -/

/-- Writes a saved range back to its logical core. -/
def restoreRange (s : State) (r : Bool × Nat × Nat × List Byte) : State :=
  match physOf s r.2.1 with
  | some p =>
    if r.1 then writeSpace .acc (p * 0x20000 + r.2.2.1) r.2.2.2 s else writeSpace .palette (p * 0x200000 + r.2.2.1) r.2.2.2 s
  | none => s

/-- Gives a core its record back. -/
def restoreCore (s : State) (r : SavedCore) : State :=
  match physOf s r.core with
  | some p => modCore p (fun c => { c with
      brush := r.brush, work := r.work, tileWait := r.tileWait, accFlags := r.accFlags, haloWait := r.haloWait }) s
  | none => s

/-- Marks a saved poisoned unit again. -/
def restorePoison (s : State) (u : Nat × Nat) : State :=
  match physOf s u.1 with
  | some p => poisonUnit .palette (p * 0x8000 + u.2) s
  | none => s

/-- Issues a withdrawn entry again (R354). -/
def reissueWait (s : State) (w : BitVec 32 × Waiter) : State :=
  match w.2.kind with
  | .consume => waitLocal w.2.who w.1 false 0 w.2.timeout s
  | .peek => waitLocal w.2.who w.1 true 0 w.2.timeout s
  | .target t => waitLocal w.2.who w.1 false t w.2.timeout s
  | .writer v => signalLocal w.2.who w.1 true v s
  | .acquirer => acquireLocal w.2.who w.1 true w.2.timeout s

/-- Work that an epoch advance overtook while the job was stopped is issued afresh (R358, R359). -/
def renewWork (part j : Nat) (saved : BitVec 16) (s : State) : State :=
  if saved = (partOf s part).epoch then s
  else (s.jobs.filter fun e => ofJob part j e.2.cmd && !e.2.isBrush).foldl (fun s e => reissueJob e.1 (List.range 800) e.2 s) s

/-- What was saved of the logical cores the partition still has. -/
def keptSaved (ls : List Nat) (v : Saved) : Saved :=
  { v with
    cores := v.cores.filter fun e => ls.contains e.core
    ranges := v.ranges.filter fun e => ls.contains e.2.1
    poison := v.poison.filter fun e => ls.contains e.1 }

/-- Restores a job: its state into the same logical cores, its transfers, its ring, then its waits; the RESUMEs reply. -/
def restoreJob (part j : Nat) (cs : List Cmd) (s : State) : State :=
  let v := keptSaved (logicalsOf s part) (jobOf (partOf s part) j).saved
  let s1 := v.poison.foldl restorePoison (v.cores.foldl restoreCore (v.ranges.foldl restoreRange s))
  let s2 := modPart part (fun p => { p with holder := some j }) (pauseTransfers part j false s1)
  let s3 := modJob part j (fun x => { locks := x.locks }) s2
  finishAll cs (ans .ok) (v.waits.foldl reissueWait (renewWork part j v.epoch s3))

/-- RESTORE_COMPLETE (R348, R356): a stopped job whose save has completed and whose turn on the cores has come is restored. -/
def execRestoreComplete (part job : Nat) (s : State) : Result :=
  let x := jobOf (partOf s part) job
  match x.restoring with
  | none => .next s
  | some cs => .next (if x.stopped && !x.saving && mayHold s part job then restoreJob part job cs s else s)

/-! The commit of a batch step (R254) -/

/-- STEP_COMMIT (R254, R261, R349): the step a partition runs commits, or, where one of its commands failed, ends with that status and
commits nothing. A stopped job's step waits, and so does one whose logits are not all there. -/
def execStepCommit (part : Nat) (logits : List StepLogits) (failed : Option (Nat × List (BitVec 32))) (durationNs : Nat) (s : State) :
    Result :=
  match tget part s.serving.steps with
  | none => .next s
  | some b =>
    if cmdStopped s b.cmd then .next s
    else
      let s1 := addWaits b durationNs s
      match failed with
      | some f => .next (stopAtCommit part (jobOfCmd b.cmd) (failBatch part b (statusOf f.1) f.2 s1))
      | none => .next (if logitsOk s b logits then stopAtCommit part (jobOfCmd b.cmd) (commitBatch part b logits durationNs s1) else s)

end Sys2Proof.Machine
end

