-- ==== Sys2Proof/Machine/Regs.lean ====
section
/-! DEFINITION. The meanings of the register rows (R417 to R428): each is a write of its register on a path. A row named for
one register writes all 8 bytes of it; a virtual function reaches only its own window. -/

namespace Sys2Proof.Machine

/-- REGISTER_WRITE (R417). -/
def execRegisterWrite (path : RegPath) (offset width : Nat) (v : Word) (s : State) : Result :=
  .next (writeReg path offset width v.toNat s)

/-- PKG_MODULE_ID (R396). -/
def execPkgModuleId (path : RegPath) (v : Word) (s : State) : Result := .next (writeReg path 0x10 8 v.toNat s)

/-- PKG_LOCK (R422). -/
def execPkgLock (path : RegPath) (v : Word) (s : State) : Result := .next (writeReg path 0x20 8 v.toNat s)

/-- PKG_ARB_CLEAR (R37). -/
def execPkgArbClear (path : RegPath) (v : Word) (s : State) : Result := .next (writeReg path 0xA8 8 v.toNat s)

/-- ERR_POSTED_RECORD's CLEAR word (R424). -/
def execErrPostedRecordClear (path : RegPath) (core : Nat) (v : Word) (s : State) : Result :=
  if core < 864 then .next (writeReg path (0x11000 + 0x20 * core + 0x10) 8 v.toNat s) else .fault .noSuchUnit

/-- TIME_SOURCE (R335, R337). -/
def execTimeSource (path : RegPath) (v : Word) (s : State) : Result := .next (writeReg path 0x30008 8 v.toNat s)

/-- PWR_CAP (R403). -/
def execPwrCap (path : RegPath) (v : Word) (s : State) : Result := .next (writeReg path 0x40010 8 v.toNat s)

/-- PWR_CCLK_MHZ (R401). -/
def execPwrCclkMhz (path : RegPath) (v : Word) (s : State) : Result := .next (writeReg path 0x40020 8 v.toNat s)

/-- LP_CTRL (R402). -/
def execLpCtrl (path : RegPath) (port : Nat) (v : Word) (s : State) : Result :=
  onPort port (writeReg path (0x70000 + 0x1000 * port) 8 v.toNat s)

/-- LP_BOND (R332). -/
def execLpBond (path : RegPath) (port : Nat) (v : Word) (s : State) : Result :=
  onPort port (writeReg path (0x70030 + 0x1000 * port) 8 v.toNat s)

/-- The offset of a ring's CTRL on a path (R420, R425). -/
def ringCtrlAt (path : RegPath) (fn ring : Nat) : Nat :=
  match path with
  | .vf _ => 0x8018 + 0x40 * ring
  | _ => if fn = 16 then 0x81018 + 0x40 * ring else 0x100000 + 0x10000 * fn + 0x8018 + 0x40 * ring

/-- HOST_RING_ CTRL (R425). A virtual function's window holds its own rings only. -/
def execHostRingCtrl (path : RegPath) (fn ring : Nat) (v : Word) (s : State) : Result :=
  onRing fn ring (writeReg path (ringCtrlAt path fn ring) 8 v.toNat s)

/-- The offset of a partition's word on a path (R420). -/
def partAt (path : RegPath) (part off : Nat) : Nat :=
  match path with
  | .vf _ => off
  | _ => 0x100000 + 0x10000 * part + off

/-- PART_WAY_MASK (R148). -/
def execPartWayMask (path : RegPath) (part region : Nat) (v : Word) (s : State) : Result :=
  if part < 16 ∧ region < 8 then .next (writeReg path (partAt path part (0x20 + 8 * region)) 8 v.toNat s) else .fault .noSuchUnit

/-- QUEUE_'s CLEAR word (R427), for a queue by its handle. -/
def execQueueClear (path : RegPath) (queue : Nat) (v : Word) (s : State) : Result :=
  match queueRef queue with
  | some (r, q) => .next (writeReg path (0x300000 + 0x10000 * r + 0x40 * q) 8 v.toNat s)
  | none => .next (accessError s)

/-- SYNC_DBG_SELECT (R428). -/
def execSyncDbgSelect (path : RegPath) (v : Word) (s : State) : Result := .next (writeReg path 0x200000 8 v.toNat s)

end Sys2Proof.Machine
end

