-- ==== Sys2Proof/Machine/Cache.lean ====
section
/-! DEFINITION. Palette scrubbing, the region cache with its flushes, the stream prefetchers and the HBM's own events (R142,
R143, R145 to R149, R153 to R155, R362, R377, R378, R426). Tags move and dirty bits change here; the bytes lie in the
memories. -/

namespace Sys2Proof.Machine

/-! Palette scrub (R143) -/

/-- A corrected error of a row: the third within 1 s raises a fog warning (R378). -/
def countRow (row unit : Nat) (s : State) : State :=
  let recent := ((tgetD row [] s.repair.rowErrors).filter fun t => s.time.now.toNat < t.toNat + 1000000000) ++ [s.time.now]
  let s1 := { s with repair := { s.repair with rowErrors := tput row recent s.repair.rowErrors } }
  if 3 ≤ recent.length then fogWarning 6 unit s1 else s1

/-- PALETTE_SCRUB of a 64-byte word with errorBits wrong bits in one lane: one is corrected and logged; two poison the word and
take its row's span offline until the report is resolved (R377). -/
def execPaletteScrub (core word errorBits : Nat) (s : State) : Result :=
  let off := word % 24576 * 64
  let key := core * 0x200000 + off
  onCore core s fun _ =>
    if errorBits = 0 then s
    else if errorBits = 1 then
      note 0x0101 (fun e => { e with
        part := (partOfCore s core).getD 0xFF, source := core, inc := incOf s core, arg := BitVec.ofNat 64 off })
        (countRow (spanOf .palette key) core s)
    else takeOffline .palette key 1 s

/-! The region cache (R145 to R148) -/

/-- CACHE_ACCESS: every line the access touches is served in its home region's cache (R145, R147); an access outside the
partition is not performed (R152). uncorrectable lists the 64-byte units that read so (R149). -/
def execCacheAccess (part addr : Nat) (write : Bool) (bytes : Nat) (cls : AllocClass) (uncorrectable : List Nat) (s : State) : Result :=
  match localRange s part addr bytes with
  | some (.hbm, key) => .next (accessHbm part key bytes write cls uncorrectable s)
  | _ => .next s

/-! Flushes (R362, R426) -/

/-- What a flush of a range leaves of a partition's lines: clean, or gone for a purge. -/
def flushLines (purge : Bool) (part base len : Nat) (ls : List CacheLine) : List CacheLine :=
  let hit := fun (l : CacheLine) => l.part == part && decide (base < l.line * 128 + 128) && decide (l.line * 128 < base + len)
  if purge then ls.filter fun l => !hit l else ls.map fun l => if hit l then { l with dirty := false } else l

/-- Runs a flush over every region; what a purge drops has left the cache (R155). -/
def flushRange (purge : Bool) (part base len : Nat) (s : State) : State :=
  let gone := fun (ls : List CacheLine) => ls.filter fun l => !(flushLines purge part base len ls).any fun x => x.line == l.line
  let s1 := s.regions.foldl (fun s e => evicted e.1 (gone e.2.lines) s) s
  { s1 with regions := s1.regions.map fun e => (e.1, { e.2 with lines := flushLines purge part base len e.2.lines }) }

/-- A flush asked for through the PART_ registers: base, length, then the operation (R420, R426). -/
def flushByRegs (path : RegPath) (part base len op : Nat) (s : State) : State :=
  writeReg path (partAt path part 0x70) 8 (op * 2 ^ 62) (writeReg path (partAt path part 0x80) 8 len (writeReg path (partAt path part 0x78) 8 base s))

/-- WRITEBACK. -/
def execWriteback (part base len : Nat) (path : RegPath) (s : State) : Result :=
  if part < 16 then .next (flushByRegs path part base len 1 s) else .fault .noSuchUnit

/-- PURGE. -/
def execPurge (part base len : Nat) (path : RegPath) (s : State) : Result :=
  if part < 16 then .next (flushByRegs path part base len 2 s) else .fault .noSuchUnit

/-- FLUSH_COMPLETE: every line of the range, written during the flush or before, is flushed and BUSY clears. -/
def execFlushComplete (part : Nat) (s : State) : Result :=
  match (partOf s part).flushBusy with
  | none => .next s
  | some f => .next (modPart part (fun p => { p with flushBusy := none }) (flushRange f.1 part f.2.1 f.2.2 s))

/-! Stream prefetchers (R153 to R155) -/

/-- Is a training prefetcher of the partition within 1 MiB of a miss? -/
def trains (part addr : Nat) (p : PfState) : Bool :=
  match p with
  | .training last _ _ _ q => q == part && decide (((addr : Int) - last).natAbs ≤ 0x100000)
  | _ => false

/-- A training step: the third miss at one stride of 128 B to 64 KiB detects a stream; 64 misses end the training (log entry
40). -/
def trainStep (addr clock : Nat) (p : PfState) : PfState :=
  match p with
  | .training last stride hits misses part =>
    let d : Int := (addr : Int) - last
    let legal := decide (128 ≤ d.natAbs ∧ d.natAbs ≤ 0x10000)
    let h := if !legal then 0 else if d = stride then hits + 1 else 1
    if 3 ≤ h then .streaming addr d 0 0 part clock
    else if 64 ≤ misses + 1 then .idle
    else .training addr d h (misses + 1) part
  | p => p

/-- The prefetcher a new detection takes: an IDLE one, else the STREAMING one that advanced least recently (R154). Prefetchers
0 to 47 and IDLE ones above serve detections alike. -/
def freePrefetcher (r : RegionMem) : Option Nat :=
  match idlePrefetcher r with
  | some i => some i
  | none =>
    let streams := r.prefetchers.filterMap fun e => match e.2 with | .streaming _ _ _ _ _ stamp => some (stamp, e.1) | _ => none
    (streams.foldl (fun (b : Option (Nat × Nat)) x => match b with | none => some x | some y => if x.1 < y.1 then some x else some y) none).map (·.2)

/-- PREFETCH_TRAINING_MISS: a demand miss that a stream covers moves it; another trains a prefetcher (R153). -/
def execPrefetchTrainingMiss (region part addr : Nat) (s : State) : Result :=
  onRegion region
    (let r := regionOf s region
     if r.prefetchers.any fun e => covered part addr e.2 then demandAt region part addr false s
     else
       match r.prefetchers.find? fun e => trains part addr e.2 with
       | some e => modRegion region (fun r => putPrefetcher e.1 (trainStep addr r.clock e.2) { r with clock := r.clock + 1 }) s
       | none =>
         match freePrefetcher r with
         | some i => modRegion region (fun r => { r with prefetchers := tput i (.training addr 0 0 0 part) r.prefetchers }) s
         | none => s)

/-- Brings a line into the cache in class STREAM; an uncorrectable unit is stored poisoned and reported only when read (R155). -/
def prefetchLine (region part line : Nat) (bad : List Nat) (s : State) : State :=
  if (regionOf s region).lines.any fun x => x.line == line then s
  else
    let new := (bad.filter fun u => u / 2 == line && !s.mem.poisonHbm.contains u).eraseDups
    new.foldl (fun s u => poisonUnit .hbm u s)
      (fillLine region { line := line, part := part, way := 0, latent := new, prefetched := true } false s)

/-- Is an address an HBM byte of the region in the partition? -/
def prefetchable (s : State) (region part : Nat) (a : Int) : Bool :=
  decide (0 ≤ a) && decide (a.toNat < hbmTop) && regionOfHbm a.toNat == region && inPart s part .hbm a.toNat

/-- Prefetches the line of an address, or drops and counts the prefetch (R155). -/
def prefetchAt (region part : Nat) (a : Int) (bad : List Nat) (s : State) : State :=
  if prefetchable s region part a then prefetchLine region part (lineOf a.toNat) bad s
  else modRegion region (fun r => { r with prefetchDrops := r.prefetchDrops + 1 }) s

/-- PREFETCH_ISSUE: the next line of a stream within 16 ahead of the last demand, or the next of a hint within its distance of what
demand has reached (R153). A stream ends at the end of the partition's allocation, or after 64 lines without a demand hit. -/
def execPrefetchIssue (region index : Nat) (uncorrectable : List Nat) (s : State) : Result :=
  let put := fun (p : PfState) (s : State) => modRegion region (fun r => putPrefetcher index p { r with clock := r.clock + 1 }) s
  onRegion region
    (let r := regionOf s region
     match tgetD index .idle r.prefetchers with
     | .streaming last stride ahead unused part _ =>
       let a : Int := last + stride * (ahead + 1)
       if 16 ≤ ahead then s
       else
         put (if !prefetchable s region part a || decide (64 ≤ unused + 1) then .idle
              else .streaming last stride (ahead + 1) (unused + 1) part r.clock)
           (prefetchAt region part a uncorrectable s)
     | .hinted h i job part seen =>
       if seen + h.distance ≤ i ∨ h.count ≤ i then s
       else
         put (if h.count ≤ i + 1 then .idle else .hinted h (i + 1) job part seen) (prefetchAt region part (hintAddr h i) uncorrectable s)
     | _ => s)

/-! HBM (R149) -/

/-- HBM_REFRESH of one bank. -/
def execHbmRefresh (stack bank : Nat) (s : State) : Result :=
  if stack < 16 then .next { s with repair := { s.repair with refreshed := tmod (stack * 64 + bank % 64) 0 (· + 1) s.repair.refreshed } }
  else .fault .noSuchUnit

/-- ECS_READ: 64 correctable errors or more, or a third rise in a row, raise a fog warning (R378). -/
def execEcsRead (stack count : Nat) (s : State) : Result :=
  if stack < 16 then
    let old := tgetD stack [] s.repair.ecs
    let rising := match old with
      | a :: b :: c :: _ => decide (c < b) && decide (b < a) && decide (a < count)
      | _ => false
    let s1 := { s with repair := { s.repair with ecs := tput stack ((count :: old).take 3) s.repair.ecs } }
    .next (if decide (64 ≤ count) || rising then fogWarning 4 stack s1 else s1)
  else .fault .noSuchUnit

/-- HBM_TEMPERATURE_READ: the reading goes into its THERM_ register. -/
def execHbmTemperatureRead (stack : Nat) (temperature : Int) (s : State) : Result :=
  if stack < 16 then .next (putReading (0x100 + stack) temperature s) else .fault .noSuchUnit

end Sys2Proof.Machine
end

