-- ==== Sys2Proof/Machine/Retire.lean ====
section
/-! DEFINITION. Units that leave service: placement epochs (R357 to R359), core retirement and reserves (R126, R181, R196, R366,
R368, R369, R374, R377), DMA channels and keepers (R372, R375). -/

namespace Sys2Proof.Machine

/-! Placement epochs (R357, R358) -/

/-- Buffered partials of a partition that do not carry its epoch leave a combining unit. -/
def dropStale (part : Nat) (epoch : BitVec 16) (b : List Partial × List Combining) : List Partial × List Combining :=
  (b.1.filter fun p => p.part != part || p.epoch == epoch, b.2)

/-- Advances a partition's placement epoch: its buffered partials of older epochs are dropped and counted. Two advances lie at
least a microsecond apart, so the time of the second is that much later (R357). -/
def advanceEpoch (part : Nat) (s : State) : State :=
  let p := partOf s part
  let e := p.epoch + 1
  let stale := (s.combine.map fun b => (b.2.1.filter fun x => x.part == part && x.epoch != e).length).sum
  let t := if p.epoch = 0 then s.time.now else if p.epochTime.toNat + 1000 ≤ s.time.now.toNat then s.time.now else p.epochTime + 1000
  modPart part (fun p => { p with epoch := e, epochTime := t, staleDrops := p.staleDrops + stale })
    { s with combine := s.combine.map fun b => (b.1, dropStale part e b.2) }

/-- The compute commands of a partition in progress. -/
def jobsOf (s : State) (part : Nat) : Tbl MatJob := s.jobs.filter fun e => e.2.cmd.part == part

/-- Reissues the unfinished tiles of a partition's running commands (R358), those of the moved logical numbers among them. A stopped
job's are reissued when it is restored. -/
def reissuePart (part : Nat) (moved : List Nat) (s : State) : State :=
  (jobsOf s part).foldl (fun s e => if e.2.isBrush || cmdStopped s e.2.cmd then s else reissueJob e.1 moved e.2 s) s

/-- Moves a vacant number's positions to its stand-in (R359); a command with none left to run them ends with ST_HW_FAULT. -/
def moveVacant (part n : Nat) (s : State) : State :=
  let dest := standIn s part n
  (jobsOf s part).foldl (fun s e =>
    if e.2.isBrush ∨ !e.2.todo.any (fun t => t.1 == n) then s
    else if dest.isNone then endJob e.1 (ans .hwFault) s
    else modMatJob e.1 (fun m => { m with todo := moveTodo n dest m.todo }) s) s

/-! Reserves (R366, R368, R374) -/

/-- Is a physical core a usable reserve: in service, passed its tests, and serving no logical number? -/
def isReserve (s : State) (p : Nat) : Bool :=
  !s.units.retired.contains p && !s.units.unusable.contains p && !(s.units.selfTest.any fun t => t.1 == p) &&
    !s.units.blocksOut.contains (blockOfCore p) && (logicalOf s p).isNone

/-- The usable reserves of a region, lowest first. -/
def reservesOf (s : State) (region : Nat) : List Nat := ((List.range 108).map (· + region * 108)).filter (isReserve s)

/-- The reserve of an ascending list that takes a core's place (R368 step 4): the first of its own block, else the first. -/
def reserveFrom (rs : List Nat) (core : Nat) : Option Nat :=
  match rs.find? fun p => blockOfCore p == blockOfCore core with
  | some p => some p
  | none => rs.head?

/-- The reserve that takes a core's place: of its own block if it can, else of the region. -/
def pickReserve (s : State) (core : Nat) : Option Nat := reserveFrom ((reservesOf s (regionOfCore core)).filter (· != core)) core

/-- Copies one core's palette into another's (R368): bytes and poison. -/
def copyPalette (src dst : Nat) (s : State) : State :=
  let w := 0x200000
  let own := fun (c : Host.Cell) => c.1 / w == dst
  let moved := s.mem.palette.filter fun c => c.1 / w == src
  let cells := moved.foldl (fun m c => mwrite (c.1 % w + dst * w) c.2 m) (s.mem.palette.filter fun c => !own c)
  let poison := (s.mem.poisonPalette.filter fun u => u * 64 / w != dst) ++
    (s.mem.poisonPalette.filter fun u => u * 64 / w == src).map fun u => u - src * (w / 64) + dst * (w / 64)
  { s with mem := { s.mem with palette := cells, poisonPalette := poison } }

/-- The position a logical number was given in (R11): its barrier slot stays there (R196). -/
def homePosition (s : State) (n : Nat) : Option Nat :=
  (((List.range 108).map (· + n / 100 * 108)).filter fun p => !s.fuse.reserves.contains p)[n % 100]?

/-- A core without the work it ran. -/
def idleCore (c : Core) : Core :=
  { c with
    tiles := [], work := [], stopped := true, tileWait := none, haloWait := false, partials := [], fence := none, fenceSet := [], waiting := false, loads := []
    accWaits := [] }

/-- Refuses the accesses that waited for a dark core's tile boundary (R161), and answers the fences that waited for them (R185). -/
def refuseAccWaits (core : Nat) (s : State) : State :=
  let ws := (coreOf s core).accWaits
  let s1 := ws.foldl (fun s w => send (replyTo s w.2.2 .refusal 0x80) s) (modCore core (fun c => { c with accWaits := [] }) s)
  ws.foldl (fun s w => answerAfter w.2.2 s) s1

/-- Fences a unit in its present incarnation and takes it out of service (R368, R369). -/
def fenceUnit (u : Nat) (s : State) : State :=
  modUnits (fun x => { x with
    fences := x.fences ++ [(u, incOf s u)], retired := if x.retired.contains u then x.retired else x.retired ++ [u] }) s

/-- Records a retirement in the flash (R368, R374). -/
def recordRetired (u : Nat) (s : State) : State :=
  { s with flash := { s.flash with retiredUnits := if s.flash.retiredUnits.contains u then s.flash.retiredUnits else s.flash.retiredUnits ++ [u] } }

/-- A fog warning when a region's usable reserves fall below REPAIR_RESERVE_MIN (R378). -/
def checkReserves (region : Nat) (s : State) : State :=
  if (reservesOf s region).length < s.repair.reserveMin then fogWarning 1 (0x400 + 2 * region) s else s

/-- Gives a retired core's logical number to a reserve (R368 step 4): palette, incarnation and number. -/
def bringIn (core q n : Nat) (s : State) : State :=
  modUnits (fun u => { u with logical := tput n q u.logical, inc := tput q ((tgetD q 0 u.inc + 1) % 256) u.inc })
    (modCore q (fun c => { c with stopped := false }) (copyPalette core q s))

/-- Retires a physical core (R368): the fence, the owner sweep, the epoch, the reserve or a vacant number, barriers, the log and the flash
record. A vacancy changes the count of active cores and clears the cached selections (R118). Its brush program's command ends with ST_HW_FAULT; its tiles are reissued (R358, R359).
path names the levels that handled the report (R365); a vacancy reaches the package too. -/
def retireCore (path core : Nat) (s : State) : State :=
  if s.units.retired.contains core then s
  else
    let part := partOfCore s core
    let who := unitId s core
    let s1 := sweepOwner who (refuseAccWaits core (endBrush core (ans .hwFault) (fenceUnit core s)))
    let entry := fun (arg : Nat) (e : LogEntry) => { e with
      part := part.getD 0xFF, source := core, inc := incOf s core, path := path, arg := BitVec.ofNat 64 arg }
    match logicalOf s core with
    | none => checkReserves (regionOfCore core) (recordRetired core (note 0x0301 (entry (core * 2 ^ 16 + 0xFFFF)) (modCore core idleCore (rebindUnit core none s1))))
    | some n =>
      let s2 := match part with | some k => advanceEpoch k s1 | none => s1
      let home := (homePosition s n).getD core
      match pickReserve s core with
      | some q =>
        let s3 := departBarriers (blockOfCore home) (slotOfCore home) true (bringIn core q n (rebindUnit core (some q) s2))
        let s4 := modCore core idleCore s3
        let s5 := match part with | some k => reissuePart k [n] s4 | none => s4
        checkReserves (regionOfCore core) (recordRetired core (note 0x0301 (entry (core * 2 ^ 16 + q)) s5))
      | none =>
        let s3 := departBarriers (blockOfCore home) (slotOfCore home) false
          (modUnits (fun u => { u with logical := tdel n u.logical })
            (match part with | some k => modPart k (fun p => { p with selection := [] }) (rebindUnit core none s2) | none => rebindUnit core none s2))
        let s4 := modCore core idleCore s3
        let s5 := match part with
          | some k => reissuePart k ((standIn s4 k n).toList ++ [n]) (moveVacant k n s4)
          | none => s4
        checkReserves (regionOfCore core) (recordRetired core (note 0x0302 (fun e => { entry n e with path := path + 8 }) s5))

/-! Palette rows (R377) -/

/-- The die a core's SRAM macros lie on: one compute die a region. -/
def macroDie (core : Nat) : Nat := regionOfCore core

/-- Takes a redundant row of a die; using the last one empties its macro and raises a fog warning (R378; log entry 41). -/
def takeRow (die unit : Nat) (s : State) : State :=
  let left := tgetD die 0 s.repair.sramUnused - 1
  let s1 := { s with repair := { s.repair with
    sramUnused := tput die left s.repair.sramUnused
    sramEmpty := if left = 0 then tmod die 0 (· + 1) s.repair.sramEmpty else s.repair.sramEmpty } }
  if left = 0 then fogWarning 6 unit s1 else s1

/-- Corrective repair of a palette row with an uncorrectable error (R366, R377): its span is offline until the remap completes;
with no redundant row left the core retires. -/
def correctPalette (core off : Nat) (s : State) : State :=
  let key := core * 0x200000 + off % 0x180000
  let s1 := takeOffline .palette key 1 s
  if tgetD (macroDie core) 0 s.repair.sramUnused = 0 then retireCore 7 core s1
  else
    note 0x0304 (fun e => { e with
      part := (partOfCore s core).getD 0xFF, source := core, inc := incOf s core, path := 7, arg := BitVec.ofNat 64 off }) (takeRow (macroDie core) core s1)

/-! DMA channels and keepers (R366, R372, R375) -/

/-- Retires a DMA channel: its running transfer ends under R161 with ST_UNIT_DARK, and so does every one queued behind it. -/
def retireChannel (r c : Nat) (s : State) : State :=
  let u := channelUnit r c
  if s.units.retired.contains u then s
  else
    let queued := (channelOf s r c).transfers.drop 1
    let s1 := modChannel r c (fun k => { k with retired := true, transfers := k.transfers.take 1 })
      (sweepOwner (unitId s u) (recordRetired u (fenceUnit u s)))
    let s2 := queued.foldl (fun s t => endPurpose t { status := .unitDark, words := transferWords t } s) s1
    settleTransfer r c (modRunning r c (fun t => failAt t.next .unitDark 0 t) s2)

/-- The active keeper of a region (R374), as its unit identifier. -/
def activeKeeper (s : State) (r : Nat) : Nat := 0x400 + 2 * r + tgetD r 0 s.keepers.activeK

/-- Is the other keeper of a region in service? -/
def standbyOk (s : State) (r : Nat) : Bool := !s.keepers.out.contains (2 * r + 1 - tgetD r 0 s.keepers.activeK)

/-- A keeper leaves service and the locks it holds are orphaned (R181); a region without a standby raises a fog warning (R374, R375, R378). -/
def dropKeeper (u : Nat) (s : State) : State :=
  let k := u - 0x400
  let s1 := sweepOwner (unitId s u) <| recordRetired u <| fenceUnit u { s with keepers := { s.keepers with out := if s.keepers.out.contains k then s.keepers.out else s.keepers.out ++ [k] } }
  fogWarning 8 u s1

/-- The standby starts to take over from the active keeper (R375): it fences it and replays the journal. -/
def takeOver (r : Nat) (s : State) : State :=
  let s1 := rebindUnit (activeKeeper s r) (some (0x400 + 2 * r + (1 - tgetD r 0 s.keepers.activeK))) (dropKeeper (activeKeeper s r) s)
  note 0x0308 (fun e => { e with source := activeKeeper s r, inc := incOf s (activeKeeper s r), arg := BitVec.ofNat 64 r })
    { s1 with keepers := { s1.keepers with
      activeK := tput r (1 - tgetD r 0 s.keepers.activeK) s1.keepers.activeK
      takingOver := if s1.keepers.takingOver.contains r then s1.keepers.takingOver else s1.keepers.takingOver ++ [r]
      beats := tput r s1.time.now s1.keepers.beats } }

end Sys2Proof.Machine
end

