-- ==== Sys2Proof/Machine/Partitions.lean ====
section
/-! DEFINITION. Forming and sizing partitions (R343 to R345, R360 to R362): PART_CONFIG and QUOTA_SET. -/

namespace Sys2Proof.Machine

/-! PART_CONFIG -/

/-- Does a job of a partition hold a started or stopped command other than this one (R360)? -/
def partBusy (s : State) (part : Nat) (c : Cmd) : Bool :=
  (List.range 5).any fun j => (startedOfJob s part j).any fun x => x != c

/-- Does another enabled partition hold a block of the mask? -/
def maskTaken (s : State) (part : Nat) (mask : BitVec 96) : Bool :=
  s.parts.any fun e => e.1 != part && e.2.enabled && e.2.mask &&& mask != 0

/-- Logical cores in service whose blocks a mask names. -/
def coresIn (s : State) (mask : BitVec 96) : Nat :=
  s.units.logical.countP fun e => mask.getLsbD (tgetD e.1 (blockOfCore e.2) s.units.home)

/-- The refusals of a PART_CONFIG that changes a partition, in order. -/
def configCheck (s : State) (c : Cmd) (part : Nat) (mask : BitVec 96) : Option Status :=
  let n := coresIn s mask
  if partBusy s part c then some .locked
  else if maskTaken s part mask then some .quota
  else if s.plans.any fun e => e.2.part == part && decide (n < e.2.coresRequired) then some .quota
  else if (partOf s part).quota.hbmMib * 0x100000 < saveBytes n then some .quota
  else none

/-- The blocks an enabled partition holds. -/
def heldMask (p : Partition) : BitVec 96 := if p.enabled then p.mask else 0

/-- Applies a changed mask or enable (R357, R360 to R362, R402): blocks that leave are cleared, blocks that join are switched on, an
allocation left unusable is written back, the selections are forgotten and the epoch advances. -/
def applyConfig (part : Nat) (enable : Bool) (mask : BitVec 96) (s : State) : State :=
  let p := partOf s part
  let now : BitVec 96 := if enable then mask else 0
  let s1 := if p.enabled && !enable then flushRange false part p.hbmBase (p.quota.hbmMib * 0x100000) s else s
  let s2 := clearBlocks (maskBlocks (heldMask p &&& ~~~now)) s1
  let s3 := modPart part (fun p => { p with enabled := enable, mask := mask, selection := [] }) s2
  let joined := (maskBlocks now).filter fun b => !s.units.blocksOut.contains b
  idleOff (domainsOn joined (advanceEpoch part s3))

/-- PART_CONFIG (R343, R357, R360, R361, R388). One that changes neither mask nor enable advances the epoch alone. -/
def execPartConfig (c : Cmd) (target : Nat) (enable : Bool) (mask : BitVec 96) (s : State) : Result :=
  if 16 ≤ target then done c (ans .badLength 0xE) s
  else
    let p := partOf s target
    if p.enabled = enable ∧ p.mask = mask then
      if maskTaken s target mask then done c (ans .quota) s else done c (ans .ok) (reissuePart target [] (advanceEpoch target s))
    else
      match configCheck s c target mask with
      | some st => done c (ans st) s
      | none => done c (ans .ok) (applyConfig target enable mask s)

/-! QUOTA_SET -/

/-- What the other partitions hold of a pool. -/
def othersHold (s : State) (part : Nat) (f : Quota → Nat) : Nat := ((s.parts.filter fun e => e.1 != part).map fun e => f e.2.quota).sum

/-- Does a set of quotas keep every pool's sum (R344)? Birzu's private areas are its own and the buddy area. -/
def poolsHold (s : State) (part : Nat) (q : Quota) : Bool :=
  let fits := fun (f : Quota → Nat) (pool : Nat) => decide (othersHold s part f + f q ≤ pool)
  fits (·.hbmMib) (768 * 1024 - privateBytes / 0x100000 - s.pkg.buddySize * 1024) && decide (q.kvPoolMib ≤ q.hbmMib) &&
    fits (·.syncObjects) 65536 && fits (·.queues) (8 * 1024) && fits (·.queueSlots) (8 * 6144) && fits (·.sequences) 16384 &&
    fits (·.clients) 4096

/-- Key/value pages in use of a partition's pool, each with the end of its bytes. -/
def poolPages (s : State) (part : Nat) : List Nat :=
  let p := partOf s part
  (s.serving.refs.filter fun e => poolLo p ≤ e.1 && e.1 < poolHi p).map fun e => (e.1 + 2 ^ e.2.1) * 0x4000

/-- Does a set of quotas cover what the partition uses (R344, R345), with its allocation at a base? -/
def coversUse (s : State) (part base : Nat) (q : Quota) : Bool :=
  let kv := base + q.kvPoolMib * 0x100000
  let top := base + q.hbmMib * 0x100000
  let placed := placedRanges s part
  let save := saveBytes (activeCores s part)
  decide (objectsUsed s part ≤ q.syncObjects) && decide (queuesOfPart s part ≤ q.queues) && decide (grantsOfPart s part ≤ q.queueSlots) &&
    decide (s.serving.seqs.countP (fun e => e.2.part == part) ≤ q.sequences) &&
    decide (s.serving.clients.countP (fun x => x.part == part) ≤ q.clients) &&
    (poolPages s part).all (fun e => decide (e ≤ kv)) && placed.all (fun r => decide (kv ≤ r.1) && decide (r.1 + r.2 ≤ top)) &&
    decide (q.kvPoolMib * 0x100000 + (placed.map (·.2)).sum + save ≤ q.hbmMib * 0x100000)

/-- HBM that is not the partition's to take: Birzu's private areas and the other allocations, as (start, end). -/
def takenHbm (s : State) (part : Nat) : List (Nat × Nat) :=
  [(0, privateBytes), (s.pkg.buddyBase.toNat, s.pkg.buddyBase.toNat + s.pkg.buddySize * 2 ^ 30)] ++
    (s.parts.filter fun e => e.1 != part).map fun e => (e.2.hbmBase, hbmEnd e.2)

/-- Is a range of HBM free for the partition? -/
def hbmFree (s : State) (part base len : Nat) : Bool :=
  decide (base + len ≤ hbmTop) && (takenHbm s part).all fun r => decide (r.2 ≤ r.1) || decide (r.2 ≤ base) || decide (base + len ≤ r.1)

/-- The base of an allocation of a size (log entry 60): where it is, once given; first, the lowest 2 MiB boundary where it fits. -/
def hbmPlace (s : State) (part len : Nat) : Option Nat :=
  let p := partOf s part
  if p.quota.hbmMib ≠ 0 then if hbmFree s part p.hbmBase len then some p.hbmBase else none
  else
    (((takenHbm s part).map fun r => (r.2 + 0x1FFFFF) / 0x200000 * 0x200000).filter fun b => hbmFree s part b len).min?

/-- Gives a partition its quotas. HBM it releases is purged from the region caches (R362). -/
def applyQuota (part base : Nat) (q : Quota) (s : State) : State :=
  let p := partOf s part
  let top := base + q.hbmMib * 0x100000
  let s1 := if top < hbmEnd p then flushRange true part top (hbmEnd p - top) s else s
  modPart part (fun p => { p with quota := q, hbmBase := base }) s1

/-- QUOTA_SET (R344, R345, R362, R388). -/
def execQuotaSet (c : Cmd) (target hbmMib syncObjects queues queueSlots sequences clients kvPoolMib : Nat) (s : State) : Result :=
  let q : Quota :=
    { hbmMib := hbmMib, syncObjects := syncObjects, queues := queues, queueSlots := queueSlots, sequences := sequences, clients := clients
      kvPoolMib := kvPoolMib }
  if 16 ≤ target then done c (ans .badLength 0xE) s
  else if !poolsHold s target q then done c (ans .quota) s
  else
    match hbmPlace s target (hbmMib * 0x100000) with
    | none => done c (ans .quota) s
    | some base => if coversUse s target base q then done c (ans .ok) (applyQuota target base q s) else done c (ans .quota) s

end Sys2Proof.Machine
end

