-- ==== Sys2Proof/Machine/Reliability.lean ====
section
/-! DEFINITION. Units retired and requalified by command, error reports, keepers and repairs (R363 to R378, R435). -/

namespace Sys2Proof.Machine

/-! UNIT_RETIRE and UNIT_REQUALIFY (R371, R372) -/

def isKeeper (u : Nat) : Bool := 0x400 ≤ u && u < 0x410

/-- The units a command may retire: cores, keeper cores and DMA channels. -/
def retirable (u : Nat) : Bool := u < 864 || isKeeper u || isChannel u

/-- Is a keeper the active one of its region? -/
def isActiveKeeper (s : State) (u : Nat) : Bool := isKeeper u && activeKeeper s ((u - 0x400) / 2) == u

/-- Retires a unit in service. -/
def retireUnit (u : Nat) (s : State) : State :=
  if u < 864 then retireCore 4 u s
  else if isKeeper u then if isActiveKeeper s u then takeOver ((u - 0x400) / 2) s else dropKeeper u s
  else retireChannel (channelOfUnit u).1 (channelOfUnit u).2 s

/-- UNIT_RETIRE (R368, R372). -/
def execUnitRetire (c : Cmd) (unit : Nat) (s : State) : Result :=
  if !retirable unit then done c (ans .badLength 0xB) s
  else if s.units.retired.contains unit then done c (ans .ok) s
  else if isActiveKeeper s unit ∧ !standbyOk s ((unit - 0x400) / 2) then done c (ans .locked) s
  else done c (ans .ok) (retireUnit unit s)

/-- UNIT_REQUALIFY (R371): the self-test starts; a second one of the unit meanwhile is ST_LOCKED. -/
def execUnitRequalify (c : Cmd) (unit : Nat) (s : State) : Result :=
  if !retirable unit then done c (ans .badLength 0xB) s
  else if !s.units.retired.contains unit then done c (ans .ok) s
  else if 255 ≤ tgetD unit 0 s.units.inc then done c (ans .quota) s
  else if s.units.selfTest.any fun t => t.1 == unit then done c (ans .locked) s
  else .next (modUnits (fun u => { u with selfTest := u.selfTest ++ [(unit, c)] }) s)

/-- A unit rejoins under its next incarnation: a core as a reserve, a keeper as the standby, a channel empty. -/
def rejoin (u : Nat) (s : State) : State :=
  let s1 := modUnits (fun x => { x with retired := x.retired.filter (· != u), inc := tmod u 0 (· + 1) x.inc }) s
  let s2 := { s1 with flash := { s1.flash with retiredUnits := s1.flash.retiredUnits.filter (· != u) } }
  if u < 864 then { s2 with cores := tput u {} s2.cores }
  else if isKeeper u then { s2 with keepers := { s2.keepers with out := s2.keepers.out.filter (· != u - 0x400) } }
  else modChannel (channelOfUnit u).1 (channelOfUnit u).2 (fun k => { k with retired := false }) s2

/-- REQUALIFY_DONE (R371). -/
def execRequalifyDone (unit : Nat) (pass : Bool) (s : State) : Result :=
  match s.units.selfTest.find? fun t => t.1 == unit with
  | none => .next s
  | some t =>
    let s1 := modUnits (fun u => { u with selfTest := u.selfTest.filter fun x => x.1 != unit }) s
    .next (if pass then finish t.2 (ans .ok) (rejoin unit s1) else finish t.2 (ans .hwFault) s1)

/-! Faults of a block and of a region (R366) -/

/-- The cores of a block and of a region. -/
def coresOfBlock (b : Nat) : List Nat := (List.range 9).map (· + 9 * b)
def coresOfRegion (r : Nat) : List Nat := (List.range 108).map (· + 108 * r)

/-- Retires a block as a whole: its reserves are lost, its active cores are replaced from other blocks, and its domain goes off. -/
def retireBlock (b : Nat) (s : State) : State :=
  if s.units.blocksOut.contains b then s
  else
    let s1 := modUnits (fun u => { u with blocksOut := u.blocksOut ++ [b] }) s
    let s2 := ((coresOfBlock b).filter fun p => (logicalOf s p).isSome).foldl (fun s p => retireCore 6 p s) s1
    domainsOff [b] (clearBlock b s2)

/-- The blocks of a region as a mask. -/
def regionMask (r : Nat) : BitVec 96 := BitVec.ofNat 96 ((2 ^ 12 - 1) * 2 ^ (12 * r))

/-- Enabled partitions that hold blocks of a region. -/
def partsOfRegion (s : State) (r : Nat) : List Nat :=
  (s.parts.filter fun e => e.2.enabled && e.2.mask &&& regionMask r != 0).map (·.1)

/-- Every command of a partition in progress. -/
def startedOfPart (s : State) (part : Nat) : List Cmd := (List.range 5).flatMap fun j => startedOfJob s part j

/-- A partition loses a region: its running commands end with ST_HW_FAULT, the region's blocks leave it, its epoch advances. -/
def loseRegion (r : Nat) (s : State) (part : Nat) : State :=
  let cs := startedOfPart s part
  let s1 := finishAll cs (ans .hwFault) (dropWork cs.contains s)
  advanceEpoch part (modPart part (fun p => { p with mask := p.mask &&& ~~~(regionMask r), selection := [] }) s1)

/-- Cores of a region that hold locks, by the lock records. -/
def lockOwners (s : State) (r : Nat) : List UnitId :=
  ((s.parts.flatMap fun e => e.2.jobs.flatMap fun j => j.2.locks.map (·.2.2)).filter fun u =>
    u.module == ownModule s && decide (u.unit < 864) && regionOfCore u.unit == r).eraseDups

/-- A region fault: the region leaves service whole, and the module goes on with the others. -/
def regionFault (r : Nat) (s : State) : State :=
  if s.units.regionsOut.contains r then s
  else
    let blocks := (List.range 12).map (· + 12 * r)
    let s1 := (partsOfRegion s r).foldl (loseRegion r) s
    let s2 := (lockOwners s1 r).foldl (fun s u => sweepOwner u s) s1
    let s3 := (coresOfRegion r).foldl (fun s p => fenceUnit p s) s2
    let s4 := modUnits (fun u => { u with
      regionsOut := u.regionsOut ++ [r], blocksOut := u.blocksOut ++ blocks.filter fun b => !u.blocksOut.contains b
      logical := u.logical.filter fun e => e.1 / 100 != r }) s3
    setErr 5 (note 0x0309 (fun e => { e with source := activeKeeper s r, arg := BitVec.ofNat 64 r })
      (domainsOff (blocks ++ [96 + r]) (clearBlocks blocks s4)))

/-- A FATAL event: the module stops serving commands (R363). -/
def goFatal (s : State) : State := setErr 4 (modPkg (fun p => { p with state := 4 }) s)

/-! Error reports (R364 to R367) -/

/-- Retires a channel of an HBM stack (R374). -/
def retireHbmChannel (m ch : Nat) (s : State) : State :=
  if s.repair.hbmChannels.contains (m, ch) then s
  else
    note 0x030B (fun e => { e with source := 0x400 + 2 * (m / 2), arg := BitVec.ofNat 64 (m * 2 ^ 16 + ch) })
      { s with repair := { s.repair with hbmChannels := s.repair.hbmChannels ++ [(m, ch)] } }

/-- Resolves a report at its level. A failing HBM data lane is remapped while its stack has a spare one, and else retires its channel
(R374). -/
def resolveReport (x : Report) (s : State) : State :=
  match x with
  | .persistentCore core => if core < 864 then retireCore 7 core s else s
  | .paletteDbe core off => if core < 864 then correctPalette core off s else s
  | .switchSbe b => note 0x0201 (fun e => { e with source := 9 * b, arg := BitVec.ofNat 64 b }) s
  | .switchDbe b =>
    let recent := s.time.now :: (tgetD b [] s.units.switchDbes).filter fun t => s.time.now.toNat < t.toNat + 1000000000
    let s1 := note 0x0202 (fun e => { e with source := 9 * b, arg := BitVec.ofNat 64 b })
      (modUnits (fun u => { u with switchDbes := tput b recent u.switchDbes }) s)
    if 3 ≤ recent.length ∧ b < 96 then retireBlock b s1 else s1
  | .regionFault r => if r < 8 then regionFault r s else s
  | .meshUncorrectable r => if r < 8 then regionFault r s else s
  | .freeListMismatch r =>
    if r < 8 then regionFault r (if (engineOf s r).queues.any fun q => q.2.resetting then s else startRegionReset r s) else s
  | .hbmLane m ch l =>
    if tgetD m 0 s.repair.hbmLanes < tgetD m 0 s.repair.hbmSpareLanes then
      note 0x030A (fun e => { e with source := 0x400 + 2 * (m / 2), arg := BitVec.ofNat 64 (m * 2 ^ 16 + l) })
        { s with repair := { s.repair with hbmLanes := tmod m 0 (· + 1) s.repair.hbmLanes } }
    else retireHbmChannel m ch s
  | .hbmChannel m ch => retireHbmChannel m ch s
  | .prefetchLatent _ => s
  | .fog bit unit => if bit < 10 then fogWarning bit unit s else s
  | .keeperPairLost r => if r < 8 then regionFault r s else s
  | .blockRetired b => if b < 96 then retireBlock b s else s

/-- ERROR_REPORT (R364 to R368): a report leaves its queue, and the handler that can resolves it. -/
def execErrorReport (r : Report) (s : State) : Result := .next (resolveReport r (takeReport r s))

/-- DARK_TRAFFIC (R369, R370): a packet of a fenced unit is dropped at its fence. -/
def execDarkTraffic (p : Pkt) (s : State) : Result := .next (if fenced s p then darkDrop p s else s)

/-! Keepers (R375, R376) -/

/-- KEEPER_HEARTBEAT. -/
def execKeeperHeartbeat (region : Nat) (s : State) : Result :=
  onRegion region { s with keepers := { s.keepers with beats := tput region s.time.now s.keepers.beats } }

/-- Have three heartbeats of 100 µs been missed? -/
def beatsMissed (s : State) (region : Nat) : Bool := decide ((tgetD region 0 s.keepers.beats).toNat + 300000 ≤ s.time.now.toNat)

/-- KEEPER_TAKEOVER: the standby fences the active keeper and replays its journal; without a standby the region is lost (R374). -/
def execKeeperTakeover (region : Nat) (s : State) : Result :=
  onRegion region
    (if !beatsMissed s region then s else if standbyOk s region then takeOver region s else regionFault region s)

/-- LOCKSTEP_MISMATCH: the head keeper restarts; a second mismatch within 1 s is FATAL. -/
def execLockstepMismatch (s : State) : Result :=
  let second := s.keepers.lastMismatch.any fun t => decide (s.time.now.toNat < t.toNat + 1000000000)
  let s1 := sweepOwner (unitId s headUnit) { s with keepers := { s.keepers with lastMismatch := some s.time.now, headRestarting := true } }
  .next (if second then goFatal (logEvent 0x0405 5 (fun e => { e with source := headUnit, level := 3, path := 8 }) s1)
    else note 0x0405 (fun e => { e with source := headUnit }) s1)

/-! Repairs (R374, R377, R378) -/

/-- A row joins the flash's record of repairs. -/
def recordRow (span : Nat) (s : State) : State :=
  { s with flash := { s.flash with
      repairedRows := if s.flash.repairedRows.contains span then s.flash.repairedRows else s.flash.repairedRows ++ [span] } }

def countPaletteRow (core : Nat) (s : State) : State :=
  { s with repair := { s.repair with sramRepaired := tmod (macroDie core) 0 (· + 1) s.repair.sramRepaired } }

def countHbmRow (m : Nat) (s : State) : State :=
  { s with repair := { s.repair with hbmRepaired := tmod m 0 (· + 1) s.repair.hbmRepaired } }

/-- PREVENTIVE_REPAIR: a palette row of a core, or an HBM row, is remapped with its contents; with no row left it stays as it is. -/
def execPreventiveRepair (core : Option Nat) (addr : Nat) (s : State) : Result :=
  match core with
  | some p =>
    if tgetD (macroDie p) 0 s.repair.sramUnused = 0 then .next s
    else
      .next (note 0x0303 (fun e => { e with
          part := (partOfCore s p).getD 0xFF, source := p, inc := incOf s p, path := 7, arg := BitVec.ofNat 64 addr })
        (recordRow (spanOf .palette (p * 0x200000 + addr % paletteBytes)) (countPaletteRow p (takeRow (macroDie p) p s))))
  | none =>
    let m := stackOf addr
    let left := tgetD m 0 s.repair.hbmUnused
    if left = 0 then .next s
    else
      let s1 := countHbmRow m { s with repair := { s.repair with hbmUnused := tput m (left - 1) s.repair.hbmUnused } }
      let s2 := note 0x0303 (fun e => { e with source := 0x400 + 2 * regionOfHbm addr, arg := BitVec.ofNat 64 addr }) (recordRow (spanOf .hbm addr) s1)
      .next (if left - 1 < 4 then fogWarning 5 m s2 else s2)

/-- REPAIR_REMAP_DONE: a span comes back, each of its units poisoned until a write covers it whole (R430). A retired span stays. -/
def execRepairRemapDone (core : Option Nat) (addr : Nat) (s : State) : Result :=
  let span := match core with
    | some p => spanOf .palette (p * 0x200000 + addr % paletteBytes)
    | none => spanOf .hbm addr
  if s.flash.retiredSpans.contains span ∨ ¬ s.repair.offline.contains span then .next s
  else
    let s1 := recordRow span { s with repair := { s.repair with offline := s.repair.offline.filter (· != span) } }
    .next (match core with
      | some p => countPaletteRow p s1
      | none => countHbmRow (stackOf addr) s1)

/-- Modules of a die-to-die edge in service. -/
def modulesOf (s : State) (edge : Nat) : Nat := (List.range 8).countP fun m => (tgetD edge 0xFF s.repair.ucie).getLsbD m

/-- DIE_TO_DIE_RETRY (R374, R378): the flit is sent again. A module over the threshold is left out; an edge with fewer than four
is a fault of its region, or, for E8 to E10, of the package. -/
def execDieToDieRetry (edge module : Nat) (overThreshold : Bool) (s : State) : Result :=
  if !overThreshold ∨ 11 ≤ edge ∨ 8 ≤ module ∨ !(tgetD edge 0xFF s.repair.ucie).getLsbD module then .next s
  else
    let s1 := { s with repair := { s.repair with ucie := tmod edge 0xFF (fun m => m &&& ~~~(BitVec.ofNat 8 (2 ^ module))) s.repair.ucie } }
    let s2 := fogWarning 7 edge (note 0x0404 (fun e => { e with source := headUnit, arg := BitVec.ofNat 64 (edge * 2 ^ 16 + module) }) s1)
    .next (if modulesOf s2 edge < 4 then if edge < 8 then regionFault edge s2 else goFatal s2 else s2)

end Sys2Proof.Machine
end

