-- ==== Sys2Proof/Machine/Boot.lean ====
section
/-! DEFINITION. BOOT_READY (R11, R368, R374, R378, R392, R394): what a boot builds from its findings, what it retires and records,
and the faults it ends in. -/

namespace Sys2Proof.Machine

/-! The logical map (R11, R12, R368, R374) -/

/-- The logical numbers of a region, each with the position it is given (R11): r·100 + n to the nth that is no reserve. -/
def bootPositions (s : State) (r : Nat) : List (Nat × Nat) :=
  ((((List.range 108).map (· + r * 108)).filter fun p => !s.fuse.reserves.contains p).zipIdx.filter fun e => e.2 < 100).map
    fun e => (r * 100 + e.2, e.1)

/-- The reserve positions of a region that are usable at boot, lowest first (R374). -/
def bootReserves (s : State) (f : BootFindings) (r : Nat) : List Nat :=
  ((List.range 108).map (· + r * 108)).filter fun p =>
    s.fuse.reserves.contains p && !f.failedCores.contains p && !s.flash.retiredUnits.contains p

/-- Gives one logical number of the map its core: its own position, or, where that failed or is retired, the reserve R368 picks of
those left; with none left it stays vacant. -/
def bootGive (s : State) (f : BootFindings) (acc : List (Nat × Nat) × List Nat) (e : Nat × Nat) : List (Nat × Nat) × List Nat :=
  if f.failedCores.contains e.2 || s.flash.retiredUnits.contains e.2 then
    match reserveFrom acc.2 e.2 with
    | some q => (acc.1 ++ [(e.1, q)], acc.2.filter (· != q))
    | none => acc
  else (acc.1 ++ [e], acc.2)

/-- The logical map of a region, its failed cores replaced in ascending order. -/
def bootMap (s : State) (f : BootFindings) (r : Nat) : List (Nat × Nat) :=
  ((bootPositions s r).foldl (bootGive s f) ([], bootReserves s f r)).1

/-- The block a logical number is given in: that of its own position (R11). -/
def bootHome (s : State) (r : Nat) : List (Nat × Nat) := (bootPositions s r).map fun e => (e.1, blockOfCore e.2)

/-! What the boot builds -/

/-- Enables held from before READY take effect (R394). -/
def applyHeldEnables (rs : Tbl Ring) : Tbl Ring := rs.map fun e => if e.2.enableHeld then (e.1, enableRing e.2) else e

/-- The repair counts a boot reads from stacks, macros and edges (R374). UCIe module masks keep bit m for module m. -/
def bootRepair (f : BootFindings) (r : Repair) : Repair :=
  { r with
    hbmUnused := f.hbmSpareRows.zipIdx.map fun e => (e.2, e.1)
    hbmSpareLanes := f.hbmSpareLanes.zipIdx.map fun e => (e.2, e.1)
    sramUnused := f.sramSpareRows.zipIdx.map fun e => (e.2, e.1)
    ucie := f.ucieFailed.foldl (fun t e => tmod e.1 0xFF (fun m => m &&& ~~~(BitVec.ofNat 8 (2 ^ e.2))) t) r.ucie }

/-- Hard repair of a failing HBM row at boot (R374, R392): a repair row of its stack takes its place, or, with none left, its span is
retired. -/
def bootRow (e : Flash × Repair) (addr : Nat) : Flash × Repair :=
  let span := spanOf .hbm addr
  let m := stackOf addr
  let left := tgetD m 0 e.2.hbmUnused
  if e.1.retiredSpans.contains span then e
  else if left = 0 then ({ e.1 with retiredSpans := e.1.retiredSpans ++ [span] }, e.2)
  else
    ({ e.1 with repairedRows := if e.1.repairedRows.contains span then e.1.repairedRows else e.1.repairedRows ++ [span] },
      { e.2 with hbmUnused := tput m (left - 1) e.2.hbmUnused, hbmRepaired := tmod m 0 (· + 1) e.2.hbmRepaired })

/-- The flash and the repair counts after a boot's hard repair. -/
def bootRows (s : State) (f : BootFindings) : Flash × Repair := f.hbmFailing.foldl bootRow (s.flash, bootRepair f s.repair)

/-- The domains on after a boot (R402): blocks, regions and stacks, the ports that are enabled with an assembly, the host I/O unless
PWR_HOST_OFF holds it off under PERST_N, and the keepers'. -/
def bootDomains (s : State) : BitVec 128 :=
  let ports := (List.range 6).foldl (fun m k => if portDomain (portOf s k) then m ||| BitVec.ofNat 128 (2 ^ (120 + k)) else m) (0 : BitVec 128)
  let host : BitVec 128 := if s.supplies.perstHeld && s.power.hostOff then 0 else BitVec.ofNat 128 (2 ^ 126)
  s.power.domains ||| BitVec.ofNat 128 (2 ^ 120 - 1) ||| ports ||| host

/-- Units that failed their boot test and are retired for it (R374, R392): cores that are no reserves, and keepers. -/
def bootFailed (s : State) (f : BootFindings) : List Nat :=
  (f.failedCores.filter fun p => !s.fuse.reserves.contains p) ++ f.failedKeepers.map (· + 0x400)

/-- The units out of service after a boot: those the flash records, and those that failed now. -/
def bootRetired (s : State) (f : BootFindings) : List Nat :=
  s.flash.retiredUnits ++ (bootFailed s f).filter fun u => !s.flash.retiredUnits.contains u

/-- The keepers out of service after a boot. -/
def bootKeepersOut (s : State) (f : BootFindings) : List Nat := ((bootRetired s f).filter fun u => 0x400 ≤ u && u < 0x410).map (· - 0x400)

/-- The machine a boot builds (R392, R394, R374, R402): the logical map, the retired and failed units out and recorded, failing rows
repaired, domains on, keepers serving and STATE at READY. -/
def bootBuilt (f : BootFindings) (s : State) : State :=
  let retired := bootRetired s f
  let keepers := bootKeepersOut s f
  let rows := bootRows s f
  { s with
    pkg := { s.pkg with state := 1 }
    flash := { rows.1 with retiredUnits := retired }
    units := { s.units with
      logical := (List.range 8).flatMap (bootMap s f), home := (List.range 8).flatMap (bootHome s)
      retired := retired, unusable := f.failedCores.filter fun p => s.fuse.reserves.contains p }
    keepers := { s.keepers with
      activeK := (List.range 8).map fun r => (r, if keepers.contains (2 * r) then 1 else 0), out := keepers
      healthy := keepers.foldl (fun m k => m &&& ~~~(BitVec.ofNat 17 (2 ^ k))) 0x1FFFF }
    repair := rows.2
    rings := applyHeldEnables s.rings
    power := { s.power with
      cclkRun := s.power.cclk, fEff := effClock s.power.cclk 0
      domains := bootDomains s }
    channels := (retired.filter fun u => 0x500 ≤ u && u < 0x580).map fun u =>
      (channelKey ((u - 0x500) / 16) (u % 16), { retired := true }) }

/-! What the boot reports (R368 step 7, R374, R378; log entry 104) -/

/-- The cores that failed now, each with its logical number: those the flash had not recorded yet. -/
def bootLost (s : State) (f : BootFindings) : List (Nat × Nat) :=
  ((List.range 8).flatMap (bootPositions s)).filter fun e => f.failedCores.contains e.2 && !s.flash.retiredUnits.contains e.2

/-- The CRITICAL entry of a core that failed: the reserve that took its number, or the number left vacant (R368, R435). -/
def noteLost (t : State) (e : Nat × Nat) : State :=
  match tget e.1 t.units.logical with
  | some q => note 0x0301 (fun x => { x with source := e.2, arg := BitVec.ofNat 64 (e.2 * 2 ^ 16 + q) }) t
  | none => note 0x0302 (fun x => { x with source := e.2, arg := BitVec.ofNat 64 e.1 }) t

/-- The CRITICAL entry of a die-to-die module left out at training. -/
def noteModule (t : State) (e : Nat × Nat) : State :=
  note 0x0404 (fun x => { x with source := headUnit, arg := BitVec.ofNat 64 (e.1 * 2 ^ 16 + e.2) }) t

/-- The fog warnings whose thresholds the built machine has crossed (R378): regions short of reserves, stacks short of repair rows,
regions without a standby keeper. -/
def bootShort (t : State) : List (Nat × Nat) :=
  (((List.range 8).filter fun r => (reservesOf t r).length < t.repair.reserveMin).map fun r => (1, 0x400 + 2 * r)) ++
    ((t.repair.hbmUnused.filter fun e => e.2 < 4).map fun e => (5, e.1)) ++ t.keepers.out.map fun k => (8, 0x400 + k)

/-- The CRITICAL entry of a span retired for want of a repair row (R377). -/
def noteSpan (t : State) (span : Nat) : State :=
  note 0x0305 (fun x => { x with source := 0x400 + 2 * regionOfHbm (span * 2048), arg := BitVec.ofNat 64 (span * 2048) }) t

/-- The entries and warnings of a boot. -/
def bootNotes (s : State) (f : BootFindings) (t : State) : State :=
  (bootShort t).foldl (fun t e => fogWarning e.1 e.2 t)
    ((t.flash.retiredSpans.drop s.flash.retiredSpans.length).foldl noteSpan (f.ucieFailed.foldl noteModule ((bootLost s f).foldl noteLost t)))

/-! The faults a boot ends in (R374) -/

/-- Regions a boot loses: an edge of theirs has fewer than four modules, or both their keepers are out. -/
def bootRegionsLost (t : State) : List Nat :=
  (List.range 8).filter fun r => modulesOf t r < 4 || (t.keepers.out.contains (2 * r) && t.keepers.out.contains (2 * r + 1))

/-- Does a boot lose the package: an edge among E8 to E10 has fewer than four modules? -/
def bootFatal (t : State) : Bool := [8, 9, 10].any fun e => modulesOf t e < 4

/-- BOOT_READY (R392, R394, R374): the machine the boot builds, its entries and warnings, and the regions it loses. -/
def execBootReady (f : BootFindings) (s : State) : Result :=
  if s.pkg.state ≠ 0 ∨ !s.supplies.mainOn then .next s
  else
    let t := bootBuilt f s
    let t1 := (bootRegionsLost t).foldl (fun t r => regionFault r t) (bootNotes s f t)
    .next (if bootFatal t then goFatal t1 else t1)

end Sys2Proof.Machine
end

