-- ==== Sys2Proof/Machine/Brush.lean ====
section
/-! DEFINITION. The brush instructions of R111 and the scalar pipe (R109): one meaning per instruction. The order of
operands is the model's own (R111 leaves it to the plan image format): A, B and C are sources and DST the destination. -/

namespace Sys2Proof.Machine

/-! Arithmetic (R106, R111) -/

/-- VADD. -/
def execVadd (o : VOp) (s : State) : Result := laneOp o s fun b i => arith2 o.bf16 addV (vlane b o.a i) (vlane b o.b i)

/-- VSUB. -/
def execVsub (o : VOp) (s : State) : Result :=
  laneOp o s fun b i => arith2 o.bf16 (fun x y => addV x (negV y)) (vlane b o.a i) (vlane b o.b i)

/-- VMUL. -/
def execVmul (o : VOp) (s : State) : Result := laneOp o s fun b i => arith2 o.bf16 mulV (vlane b o.a i) (vlane b o.b i)

/-- VFMA: A × B + C, rounded once. -/
def execVfma (o : VOp) (s : State) : Result :=
  laneOp o s fun b i => arith3 o.bf16 (vlane b o.a i) (vlane b o.b i) (vlane b o.c i)

/-- VMAX. -/
def execVmax (o : VOp) (s : State) : Result := laneOp o s fun b i => arith2 o.bf16 maxV (vlane b o.a i) (vlane b o.b i)

/-- VMIN. -/
def execVmin (o : VOp) (s : State) : Result := laneOp o s fun b i => arith2 o.bf16 minV (vlane b o.a i) (vlane b o.b i)

/-- VABS. -/
def execVabs (o : VOp) (s : State) : Result := laneOp o s fun b i => arith1 o.bf16 absV (vlane b o.a i)

/-- VNEG. -/
def execVneg (o : VOp) (s : State) : Result := laneOp o s fun b i => arith1 o.bf16 negV (vlane b o.a i)

/-! Integer: 32-bit two's complement, wrapping (R111) -/

/-- VIADD. -/
def execViadd (o : VOp) (s : State) : Result := laneOp o s fun b i => vlane b o.a i + vlane b o.b i

/-- VIMUL. -/
def execVimul (o : VOp) (s : State) : Result := laneOp o s fun b i => vlane b o.a i * vlane b o.b i

/-- VAND. -/
def execVand (o : VOp) (s : State) : Result := laneOp o s fun b i => vlane b o.a i &&& vlane b o.b i

/-- VOR. -/
def execVor (o : VOp) (s : State) : Result := laneOp o s fun b i => vlane b o.a i ||| vlane b o.b i

/-- VXOR. -/
def execVxor (o : VOp) (s : State) : Result := laneOp o s fun b i => vlane b o.a i ^^^ vlane b o.b i

/-- VSHL: by the lane's count in B; a count of 32 or more gives a free value (log entry 33). -/
def execVshl (o : VOp) (s : State) : Result :=
  onCore o.core s fun c => skipFree (modBrush o.core (fun b => putLanes b o.dst o.pred fun i =>
    if (vlane c.brush o.b i).toNat < 32 then vlane c.brush o.a i <<< (vlane c.brush o.b i).toNat else freeLane s i) s)

/-- VSHR: arithmetic, as the group is two's complement; a count of 32 or more gives a free value (log entry 33). -/
def execVshr (o : VOp) (s : State) : Result :=
  onCore o.core s fun c => skipFree (modBrush o.core (fun b => putLanes b o.dst o.pred fun i =>
    if (vlane c.brush o.b i).toNat < 32 then (vlane c.brush o.a i).sshiftRight (vlane c.brush o.b i).toNat else freeLane s i) s)

/-! Compare and select (R111) -/

/-- VCMP: the active lanes' bits of a predicate register. -/
def execVcmp (o : VOp) (cond : CmpCond) (int : Bool) (pdst : Nat) (s : State) : Result :=
  onCore o.core s fun c =>
    let b := c.brush
    let bit := fun (i : Nat) =>
      if laneOn b o.pred i then
        (if int then condI cond (vlane b o.a i) (vlane b o.b i) else condV cond (val32 (vlane b o.a i)) (val32 (vlane b o.b i)))
      else (tgetD pdst 0 b.p).getLsbD i
    modBrush o.core (fun b => { b with p := tput pdst (BitVec.ofNat 256 (((List.range 256).map fun i => if bit i then 2 ^ i else 0).sum)) b.p }) s

/-- VSEL: A where the predicate's bit is set, else B. -/
def execVsel (o : VOp) (psel : Nat) (s : State) : Result :=
  laneOp o s fun b i => if (tgetD psel 0 b.p).getLsbD i then vlane b o.a i else vlane b o.b i

/-- VCLASS: zero, subnormal, Inf and NaN flags per lane. -/
def execVclass (o : VOp) (s : State) : Result := laneOp o s fun b i => classOf (vlane b o.a i)

/-! Conversion (R46, R55, R56, R73, R107) -/

/-- VCVT: from one format's encoding to another's, each in a lane's low bits; NaN and Inf source values of active lanes are
counted (R58). A reserved code converts nothing. -/
def execVcvt (o : VOp) (source format : Nat) (sat sr : Bool) (counter : Option (BitVec 64 × BitVec 32)) (s : State) : Result :=
  onCore o.core s fun c =>
    if 12 < source ∨ 12 < format then s
    else
      let b := c.brush
      let v := fun i => sourceVal source (vlane b o.a i)
      let out := fun i => BitVec.ofNat 32 (destBits format sat (laneMode s o b sr counter i) (v i))
      modBrush o.core (fun b =>
        let b1 := afterDraws s o sr counter (putLanes b o.dst o.pred out)
        { b1 with
          nanCount := satAdd 0xFFFFFFFF b1.nanCount (countLanes fun i => laneOn b o.pred i && v i == .nan)
          infCount := satAdd 0xFFFFFFFF b1.infCount (countLanes fun i => laneOn b o.pred i && (match v i with | .inf _ => true | _ => false)) }) s

/-- The bits of element i of 256 packed elements. -/
def packedAt (bits w i : Nat) : Nat := w / 2 ^ (bits * i) % 2 ^ bits

/-- VPACKMX (R56): eight blocks of 32 lanes packed as MX elements at a palette offset, with their scale bytes at another.
Inactive lanes take no part in a block's maximum and keep their element. -/
def execVpackmx (o : VOp) (format : Nat) (sr : Bool) (counter : Option (BitVec 64 × BitVec 32)) (dest scaleDest : Nat) (s : State) : Result :=
  onCore o.core s fun c =>
    if !isMx format then s
    else
      let b := c.brush
      let bits := elemBits format
      let lanes := fun k => ((List.range 32).map (· + 32 * k)).filter (laneOn b o.pred)
      let scale := fun k => mxScale format ((lanes k).map fun i => val32 (vlane b o.a i))
      let old := leNat (mreadN (o.core * 0x200000 + dest) (32 * bits) s.mem.palette)
      let elem := fun i =>
        if laneOn b o.pred i then mxElem format (scale (i / 32)) (laneMode s o b sr counter i) (val32 (vlane b o.a i)) else packedAt bits old i
      let packed := ((List.range 256).map fun i => elem i % 2 ^ bits * 2 ^ (bits * i)).sum
      let s1 := palWrite o.core dest (toLe (32 * bits) packed) s
      let s2 := (List.range 8).foldl (fun s k => if (lanes k).isEmpty then s else palWrite o.core (scaleDest + k) [BitVec.ofNat 8 (scale k)] s) s1
      modBrush o.core (afterDraws s o sr counter) s2

/-- VUNPACKMX: 256 MX elements and their eight scales, widened to FP32. -/
def execVunpackmx (o : VOp) (format : Nat) (src scaleSrc : Nat) (s : State) : Result :=
  onCore o.core s fun c =>
    if !isMx format then s
    else
      let bits := elemBits format
      let fits := decide (src + 32 * bits ≤ paletteBytes) && decide (scaleSrc + 8 ≤ paletteBytes)
      let w := leNat (mreadN (o.core * 0x200000 + src) (32 * bits) s.mem.palette)
      let scale := fun k => (mread (o.core * 0x200000 + scaleSrc + k) s.mem.palette).toNat
      if fits && (readsPoison s .palette (o.core * 0x200000 + src) (32 * bits) || readsPoison s .palette (o.core * 0x200000 + scaleSrc) 8) then
        endBrush o.core (ans .poisoned (regionOfCore o.core)) (notePoisoned o.core (regionOfCore o.core) src s)
      else
        skipFree (modBrush o.core (fun _ => putLanes c.brush o.dst o.pred fun i =>
          if fits then round32 (scaleElem (scale (i / 32)) (decodeElem format (packedAt bits w i))) else freeLane s i) s)

/-! Special functions (R108) -/

/-- VEXP2. -/
def execVexp2 (o : VOp) (s : State) : Result := laneOp o s fun b i => exp2Lane (vlane b o.a i)

/-- VLOG2. -/
def execVlog2 (o : VOp) (s : State) : Result := laneOp o s fun b i => log2Lane (vlane b o.a i)

/-- VRCP. -/
def execVrcp (o : VOp) (s : State) : Result := laneOp o s fun b i => rcpLane (vlane b o.a i)

/-- VSQRT: correctly rounded. -/
def execVsqrt (o : VOp) (s : State) : Result := laneOp o s fun b i => sqrt32 (val32 (vlane b o.a i))

/-- VRSQ. -/
def execVrsq (o : VOp) (s : State) : Result := laneOp o s fun b i => rsqLane (vlane b o.a i)

/-- VTANH. -/
def execVtanh (o : VOp) (s : State) : Result := laneOp o s fun b i => tanhLane (vlane b o.a i)

/-- VSIGM. -/
def execVsigm (o : VOp) (s : State) : Result := laneOp o s fun b i => sigmLane (vlane b o.a i)

/-- VERF. -/
def execVerf (o : VOp) (s : State) : Result := laneOp o s fun b i => erfLane (vlane b o.a i)

/-- VSIN. -/
def execVsin (o : VOp) (s : State) : Result := laneOp o s fun b i => sinLane (vlane b o.a i)

/-- VCOS. -/
def execVcos (o : VOp) (s : State) : Result := laneOp o s fun b i => cosLane (vlane b o.a i)

/-! Reductions (R111, R112) -/

/-- VRSUM: an inactive lane enters as +0. -/
def execVrsum (o : VOp) (s : State) : Result := reduceOp o s fun b => (sumTree (reduceLanes b o 0)).toNat

/-- VRMAX: an inactive lane enters as −Inf. -/
def execVrmax (o : VOp) (s : State) : Result := reduceOp o s fun b => (maxTree (reduceLanes b o negInf32)).toNat

/-- VRMIN: an inactive lane enters as +Inf, the model's choice: R112 gives the neutral value of VRSUM and VRMAX only (log entry 113). -/
def execVrmin (o : VOp) (s : State) : Result := reduceOp o s fun b => (minTree (reduceLanes b o posInf32)).toNat

/-- VRMAXEXP: the largest top exponent, as a signed 64-bit number. -/
def execVrmaxexp (o : VOp) (s : State) : Result := reduceOp o s fun b => (BitVec.ofInt 64 (maxExp b o)).toNat

/-! Exact sums (R59 to R65, R110) -/

def modXa (core xa : Nat) (f : XAcc → XAcc) (s : State) : State := modBrush core (fun b => { b with xa := tmod xa {} f b.xa }) s

/-- XWIN: the window base L = t − 111 from a top exponent, and a count of zero. W and the flags stay, which the spec does not say (log entry
114). -/
def execXwin (core xa r : Nat) (s : State) : Result :=
  onCore core s fun c => modXa core xa (fun x => { x with base := (sreg c.brush r).toInt - 111, count := 0 }) s

/-- One lane's addition: a finite value truncated toward zero into the window, a non-finite one into the flags. -/
def addLane (x : XAcc) (v : Lane) : XAcc :=
  match val32 v with
  | .fin n m e => addExact x (windowInt (.fin n m e) x.base)
  | w => flagProduct x w

/-- VSUMX: every active lane added; past 65,536 additions it is not executed and the BRUSH_RUN ends with ST_EXACT_RANGE. -/
def execVsumx (o : VOp) (xa : Nat) (s : State) : Result :=
  onCore o.core s fun c =>
    let b := c.brush
    let act := (List.range 256).filter (laneOn b o.pred)
    let x := tgetD xa {} b.xa
    if 65536 < x.count + act.length then
      endBrush o.core (ans .exactRange) (modBrush o.core (fun b => { b with exactRange := true }) s)
    else
      modXa o.core xa (fun x =>
        let y := act.foldl (fun x i => addLane x (vlane b o.a i)) x
        { y with count := x.count + act.length }) s

/-- XRND: the accumulator rounded once to FP32, into a scalar register. -/
def execXrnd (core xa sdst : Nat) (s : State) : Result :=
  onCore core s fun c =>
    let x := tgetD xa {} c.brush.xa
    setScalar core sdst ((round32 (exactVal x x.base)).setWidth 64) s

/-- XCLR: W and the three flags cleared; the window base and the count stay, which the spec does not say (log entry 114). -/
def execXclr (core xa : Nat) (s : State) : Result :=
  onCore core s fun _ => modXa core xa (fun x => { x with w := 0, nan := false, posInf := false, negInf := false }) s

/-! Data movement (R111): palette addresses only -/

/-- VLD: 256 consecutive words. -/
def execVld (o : VOp) (addr : Nat) (s : State) : Result := loadLanes o (fun _ i => addr + 4 * i) s

/-- VST. -/
def execVst (o : VOp) (addr : Nat) (s : State) : Result := storeLanes o (fun _ i => addr + 4 * i) s

/-- VGATH: the word at BASE plus the byte offset in each lane of A. -/
def execVgath (o : VOp) (base : Nat) (s : State) : Result := loadLanes o (fun b i => base + (vlane b o.a i).toNat) s

/-- VSCAT: lane A to BASE plus the byte offset in lane B. Of lanes with one address the highest stays, the model's choice: the spec orders
no lanes (log entry 115). -/
def execVscat (o : VOp) (base : Nat) (s : State) : Result := storeLanes o (fun b i => base + (vlane b o.b i).toNat) s

/-- VBCAST: a scalar register's low 32 bits in every active lane. -/
def execVbcast (o : VOp) (r : Nat) (s : State) : Result := laneOp o s fun b _ => (sreg b r).truncate 32

/-- VSHUF: lane i takes lane B[i] mod 256 of A. -/
def execVshuf (o : VOp) (s : State) : Result := laneOp o s fun b i => vlane b o.a ((vlane b o.b i).toNat % 256)

/-! Accumulator memory (R105, R107, R144) -/

/-- ACCRD: 256 FP32 elements. -/
def execAccrd (o : VOp) (offset : Nat) (s : State) : Result :=
  onCore o.core s fun _ => skipFree (modBrush o.core (fun b => putLanes b o.dst o.pred fun i =>
    (accWord s o.core (offset + 4 * i)).getD (freeLane s i)) s)

/-- A true-colour element of a core's accumulator memory with its flags (R63, R64). -/
def accElem (s : State) (core off : Nat) : XAcc :=
  let f := tgetD (off / 16) {} (coreOf s core).accFlags
  { f with w := BitVec.ofNat 128 (leNat (mreadN (core * 0x20000 + off) 16 s.mem.acc)) }

/-- The value of lane i's true-colour element. How ACCRDX gets an element's window base the spec does not say: it is WINDOW_BASE plus
the lane of A (log entry 116). -/
def accrdxVal (s : State) (o : VOp) (b : Brush) (offset : Nat) (windowBase : Int) (i : Nat) : FVal :=
  exactVal (accElem s o.core (offset + 16 * i)) (windowBase + (vlane b o.a i).toInt)

/-- ACCRDX: 256 true-colour elements rounded once each (R65, R107): to FP32, or with an output format directly into it, and the elements
whose FP32 rounding is NaN or Inf are then counted (R54, R58). A reserved output format reads nothing. -/
def execAccrdx (o : VOp) (offset : Nat) (read : ExactRead) (s : State) : Result :=
  onCore o.core s fun c =>
    let v := accrdxVal s o c.brush offset read.windowBase
    let inside := fun (i : Nat) => decide (offset + 16 * i + 16 ≤ accBytes)
    match read.out with
    | none =>
      skipFree (modBrush o.core (fun b => putLanes b o.dst o.pred fun i => if inside i then round32 (v i) else freeLane s i) s)
    | some f =>
      if 12 < f.format then s
      else
        let seen := fun (p : Lane → Bool) => countLanes fun i => laneOn c.brush o.pred i && inside i && p (round32 (v i))
        skipFree (modBrush o.core (fun b =>
          let b1 := afterDraws s o f.sr f.counter (putLanes b o.dst o.pred fun i =>
            if inside i then BitVec.ofNat 32 (destBits f.format f.sat (laneMode s o c.brush f.sr f.counter i) (v i)) else freeLane s i)
          { b1 with
            nanCount := satAdd 0xFFFFFFFF b1.nanCount (seen isNan32), infCount := satAdd 0xFFFFFFFF b1.infCount (seen isInf32) }) s)

/-- ACCWR: FP32 start values. -/
def execAccwr (o : VOp) (offset : Nat) (s : State) : Result :=
  onCore o.core s fun c =>
    (List.range 256).foldl (fun s i =>
      if laneOn c.brush o.pred i then accWrite o.core (offset + 4 * i) (toLe 4 (vlane c.brush o.a i).toNat) s else s) s

/-! Random (R71, R72) -/

/-- VRAND: FREE draws, or COUNTER draw N with the program's c0 and c1 in registers A and B. -/
def execVrand (o : VOp) (counter : Option (BitVec 64 × BitVec 32 × Nat)) (s : State) : Result :=
  onCore o.core s fun c =>
    match counter with
    | some k => modBrush o.core (fun b => putLanes b o.dst o.pred fun i => counterDraw k.1 (vlane c.brush o.a i) (vlane c.brush o.b i) k.2.1 k.2.2) s
    | none => modBrush o.core (fun b => advanceLanes s o.core o.pred (putLanes b o.dst o.pred fun i => freeDraw s o.core c.brush i)) s

/-- VRSEED: every active lane reseeded from the entropy source, a zero seed replaced (R71). -/
def execVrseed (lanes : LaneSet) (s : State) : Result :=
  onCore lanes.core s fun c => skipFree (modBrush lanes.core (fun b => { b with
    rng := (List.range 256).foldl (fun t i =>
      if laneOn c.brush lanes.pred i then
        tput i (if Config.freeWord (s.free + i) = 0 then 0x9E3779B97F4A7C15 else Config.freeWord (s.free + i)) t
      else t) b.rng }) s)

/-! The scalar pipe (R109) -/

/-- Sets a scalar register and passes to the next instruction. -/
def scalarSet (core dst : Nat) (v : Word) (s : State) : State :=
  modBrush core (fun b => { b with sr := tput dst v b.sr, position := b.position + 1 }) s

/-- Moves the program's position. -/
def jumpBy (core : Nat) (d : Int) (s : State) : State := modBrush core (fun b => { b with position := b.position + d }) s

/-- A shift by 64 or more gives a free value (log entry 33). -/
def shiftOr (core dst : Nat) (n : Word) (v : Nat → Word) (s : State) : State :=
  if n.toNat < 64 then scalarSet core dst (v n.toNat) s
  else let d := drawFree s; scalarSet core dst d.1 d.2

/-- The FP32 value in a scalar register's low half. -/
def sval (b : Brush) (r : Nat) : FVal := val32 ((sreg b r).truncate 32)

/-- The program of a core ends (R109): its BRUSH_RUN replies with its counts once every core's has (log entry 34). -/
def finishProgram (core : Nat) (s : State) : State :=
  match brushJobOf s core with
  | none => s
  | some j =>
    match tget j s.jobs with
    | none => s
    | some m =>
      let b := (coreOf s core).brush
      let m1 := { m with cores := m.cores.filter (· != core), nan := m.nan + b.nanCount, inf := m.inf + b.infCount }
      if m1.cores.isEmpty then endJob j { status := .ok, words := countWords m1.nan m1.inf } s
      else { s with jobs := tput j m1 s.jobs }

/-- SCALAR_PIPE_INSTRUCTION (R109). A TILE that waits for the canvases blocks the pipe. -/
def execScalarPipeInstruction (core : Nat) (op : ScalarOp) (dst a b : Nat) (k : BitVec 64) (s : State) : Result :=
  onCore core s fun c =>
    if c.tileWait.isSome then s else
    let u := c.brush
    let x := sreg u a
    let y := sreg u b
    let f := fun (v : FVal) => scalarSet core dst ((round32 v).setWidth 64) s
    match op with
    | .add => scalarSet core dst (x + y) s
    | .sub => scalarSet core dst (x - y) s
    | .mul => scalarSet core dst (x * y) s
    | .and => scalarSet core dst (x &&& y) s
    | .or => scalarSet core dst (x ||| y) s
    | .xor => scalarSet core dst (x ^^^ y) s
    | .shl => shiftOr core dst y (fun n => x <<< n) s
    | .shr => shiftOr core dst y (fun n => x >>> n) s
    | .sar => shiftOr core dst y (fun n => x.sshiftRight n) s
    | .slt => scalarSet core dst (if x.slt y then 1 else 0) s
    | .sltu => scalarSet core dst (if x < y then 1 else 0) s
    | .seq => scalarSet core dst (if x = y then 1 else 0) s
    | .fadd => f (addV (sval u a) (sval u b))
    | .fsub => f (addV (sval u a) (negV (sval u b)))
    | .fmul => f (mulV (sval u a) (sval u b))
    | .ffma => f (addV (mulV (sval u a) (sval u b)) (sval u dst))
    | .fmax => f (maxV (sval u a) (sval u b))
    | .fmin => f (minV (sval u a) (sval u b))
    | .flt => scalarSet core dst (if ltV (sval u a) (sval u b) then 1 else 0) s
    | .feq => scalarSet core dst (if eqV (sval u a) (sval u b) then 1 else 0) s
    | .branch => jumpBy core k.toInt s
    | .branchNz => jumpBy core (if x ≠ 0 then k.toInt else 1) s
    | .loop => jumpBy core (if x - 1 ≠ 0 then k.toInt else 1) (setScalar core a (x - 1) s)
    | .readArmed => scalarSet core dst (if c.posted.armed then 1 else 0) s
    | .imm => scalarSet core dst k s
    | .finish => finishProgram core s

end Sys2Proof.Machine
end

