-- ==== Sys2Proof/Machine/Firmware.lean ====
section
/-! DEFINITION. Firmware slots and their activation (R393, R398, R399), the end of keeper restarts (R375, R376), and the keeper's log by
command (R380, R382). -/

namespace Sys2Proof.Machine

/-! FW_SLOT (R398) -/

/-- A slot, 0 A or 1 B. -/
def slotOf (f : Flash) (slot : Nat) : FwSlot := if slot = 1 then f.slotB else f.slotA

/-- Updates a slot. -/
def modSlot (slot : Nat) (f : FwSlot → FwSlot) (s : State) : State :=
  { s with flash := if slot = 1 then { s.flash with slotB := f s.flash.slotB } else { s.flash with slotA := f s.flash.slotA } }

/-- Does flash mark a slot ACTIVE? -/
def isActiveSlot (s : State) (slot : Nat) : Bool := s.flash.activeB == (slot == 1)

/-- FW_SLOT WRITE: the slot is erased and programmed, then authenticated. What the image holds and whether its signature verifies are
operands. -/
def execFwSlotWrite (c : Cmd) (slot image bytes : Nat) (signatureOk : Bool) (version security minPeer : Nat) (s : State) : Result :=
  if s.keepers.fwCmd.isSome ∨ isActiveSlot s slot then done c (ans .locked) s
  else if 0x2000000 < bytes then done c (ans .badLength 0xE) s
  else
    match localRange s c.part image bytes with
    | none => done c (ans .badLength 1) s
    | some r =>
      if readsPoison s r.1 r.2 bytes then done c (ans .poisoned) s
      else
        let x : FwSlot := { valid := false, version := version, security := security, minPeer := minPeer }
        if !signatureOk then done c (ans .planRejected 0x0A00) (modSlot slot (fun _ => x) s)
        else if security < s.fuse.minSecurity then done c (ans .planRejected 0x0B00) (modSlot slot (fun _ => x) s)
        else if s.keepers.runningVersion < minPeer then done c (ans .planRejected 0x0C00) (modSlot slot (fun _ => x) s)
        else done c (ans .ok) (modSlot slot (fun _ => { x with valid := true }) s)

/-- FW_SLOT QUERY. -/
def execFwSlotQuery (c : Cmd) (image : Nat) (s : State) : Result :=
  if s.keepers.fwCmd.isSome then done c (ans .locked) s else .next (replyData c image (fwStatusBytes s) (ans .ok) s)

/-! Activation (R399) -/

def modKeepers (f : Keepers → Keepers) (s : State) : State := { s with keepers := f s.keepers }

/-- Step 4: the head keeper restarts; on the way to the new image that is an INFO entry. -/
def restartHead (slot : Nat) (s : State) : State :=
  let s1 := modKeepers (fun k => { k with fwRegion := none, headRestarting := true }) s
  if s.keepers.fwReverting then s1 else note 0x0702 (fun e => { e with source := headUnit, arg := BitVec.ofNat 64 slot }) s1

/-- Step 3 for the first region in service from r on: its standby loads the image and takes over, or, without a standby, its active
keeper restarts in place. After the last region the head keeper follows. -/
def updateRegion (slot r : Nat) (s : State) : State :=
  match ((List.range 8).filter fun k => decide (r ≤ k) && !s.units.regionsOut.contains k).head? with
  | none => restartHead slot s
  | some k =>
    modKeepers (fun x => { x with
      fwRegion := some k
      takingOver := if x.takingOver.contains k then x.takingOver else x.takingOver ++ [k]
      activeK := if standbyOk s k then tput k (1 - tgetD k 0 x.activeK) x.activeK else x.activeK }) s

/-- FW_SLOT ACTIVATE: its refusals, then TRIAL and the first region. authOk says whether the slot authenticates again. -/
def execFwSlotActivate (c : Cmd) (slot : Nat) (authOk : Bool) (s : State) : Result :=
  let x := slotOf s.flash slot
  if s.keepers.fwCmd.isSome then done c (ans .locked) s
  else if isActiveSlot s slot then done c (ans .ok) s
  else if !x.valid then done c (ans .planRejected 0x0D00) s
  else if !authOk then done c (ans .planRejected 0x0A00) (modSlot slot (fun x => { x with valid := false }) s)
  else
    .next (updateRegion slot 0 (modKeepers (fun k => { k with
      fwCmd := some (some c, slot), fwFormer := k.runningVersion, fwReverting := false, fwAwaiting := false })
        (modSlot slot (fun x => { x with trial := true }) s)))

/-- The former active keeper of a region reloads as the standby, under its next incarnation. -/
def reloadFormer (r : Nat) (s : State) : State :=
  if standbyOk s r then
    modUnits (fun u => { u with inc := tmod (0x400 + 2 * r + (1 - tgetD r 0 s.keepers.activeK)) 0 (fun n => (n + 1) % 256) u.inc }) s
  else s

/-- KEEPER_TAKEOVER_DONE (R375, R399): the region's unissued commands go on; during an activation the next region follows. -/
def execKeeperTakeoverDone (region : Nat) (s : State) : Result :=
  onRegion region
    (let s1 := modKeepers (fun k => { k with takingOver := k.takingOver.filter (· != region) }) s
     match s.keepers.fwCmd, s.keepers.fwRegion with
     | some f, some r => if r = region then updateRegion f.2 (r + 1) (reloadFormer r s1) else s1
     | _, _ => s1)

/-- Answers an activation's command, where it still has one, and ends the activation. -/
def endActivation (a : Answer) (s : State) : State :=
  let s1 := modKeepers (fun k => { k with fwCmd := none, fwRegion := none, fwReverting := false, fwAwaiting := false }) s
  match s.keepers.fwCmd with
  | some (some c, _) => finish c a s1
  | _ => s1

/-- HEAD_KEEPER_RESTART_DONE (R376, R399): ring fetching and the held replies go on. After step 4 the health of every keeper is
awaited; after the restart of a revert, ACTIVATE returns ST_HW_FAULT. -/
def execHeadKeeperRestartDone (s : State) : Result :=
  if !s.keepers.headRestarting then .next s
  else
    let s1 := modKeepers (fun k => { k with headRestarting := false }) s
    match s.keepers.fwCmd with
    | none => .next s1
    | some f =>
      if s.keepers.fwRegion.isSome ∨ s.keepers.fwAwaiting then .next s1
      else if s.keepers.fwReverting then
        .next (endActivation (ans .hwFault) (modKeepers (fun k => { k with runningVersion := k.fwFormer }) s1))
      else
        .next (modKeepers (fun k => { k with fwAwaiting := true, runningVersion := (slotOf s.flash f.2).version, healthy := 0 }) s1)

/-- ACTIVATION_HEALTH_DEADLINE (R399 steps 5 and 6): every keeper reported healthy, and the slot becomes ACTIVE; or every keeper
reverts, region by region, and the slot is marked not VALID. -/
def execActivationHealthDeadline (healthy : Bool) (s : State) : Result :=
  match s.keepers.fwCmd with
  | none => .next s
  | some f =>
    if !s.keepers.fwAwaiting then .next s
    else if healthy then
      let s1 := modSlot f.2 (fun x => { x with trial := false }) s
      let inService : BitVec 17 := s.keepers.out.foldl (fun m k => m &&& ~~~(BitVec.ofNat 17 (2 ^ k))) 0x1FFFF
      .next (endActivation (ans .ok) (modKeepers (fun k => { k with healthy := inService }) { s1 with flash := { s1.flash with activeB := f.2 == 1 } }))
    else
      let s1 := note 0x0703 (fun e => { e with source := headUnit, arg := BitVec.ofNat 64 f.2 })
        (modSlot f.2 (fun x => { x with valid := false, trial := false }) s)
      .next (updateRegion f.2 0 (modKeepers (fun k => { k with fwAwaiting := false, fwReverting := true }) s1))

/-! LOG_READ and LOG_CLEAR (R380, R382) -/

/-- The 32 bytes of a log entry. -/
def logBytes (e : LogEntry) : List Byte :=
  toLe 8 e.time.toNat ++ toLe 2 e.event ++ toLe 2 e.status ++
    toLe 1 (e.severity % 8 * 32 + e.level % 4 * 8 + (if e.coalesced then 4 else 0) + (if e.index < 1024 then 2 else 0)) ++
    toLe 1 e.path ++ toLe 1 e.part ++ toLe 1 e.otherPart ++ toLe 2 e.source ++ toLe 1 e.inc ++ toLe 1 0 ++ toLe 2 e.other ++
    toLe 2 e.repeats ++ toLe 8 e.arg.toNat

/-- Is an entry in an index range? -/
def inRange (first count : Nat) (e : LogEntry) : Bool := decide (first ≤ e.index) && decide (e.index < first + count)

/-- Does LOG_READ return an entry: in its range, in the protected area where asked, and, to a virtual function, naming its partition
(R308)? -/
def returns (c : Cmd) (first count : Nat) (protectedOnly : Bool) (e : LogEntry) : Bool :=
  inRange first count e && (!protectedOnly || decide (e.index < 1024)) && (c.fn == 16 || e.part == c.part || e.otherPart == c.part)

/-- LOG_READ: entry i goes to DEST + 32 × (i − FIRST); a place without an entry is not written (log entry 63). -/
def execLogRead (c : Cmd) (first count : Nat) (protectedOnly : Bool) (dest : Nat) (s : State) : Result :=
  if 16384 < first + count then done c (ans .badLength 0xE) s
  else if count = 0 then done c (ans .ok) s
  else
    match localRange s c.part dest (32 * count) with
    | none => done c (ans .badLength 1) s
    | some r =>
      let got := returns c first count protectedOnly
      let s1 := (s.log.entries.filter got).foldl (fun s e => writeSpace r.1 (r.2 + 32 * (e.index - first)) (logBytes e) s) s
      done c (ans .ok) { s1 with log := { s1.log with
        entries := s1.log.entries.map fun e => if got e then { e with read := true } else e } }

/-- Does LOG_CLEAR free an entry: in its range, and, in the protected area, returned by LOG_READ before? -/
def clears (first count : Nat) (e : LogEntry) : Bool := inRange first count e && (decide (1024 ≤ e.index) || e.read)

/-- LOG_CLEAR. -/
def execLogClear (c : Cmd) (first count : Nat) (s : State) : Result :=
  if 16384 < first + count then done c (ans .badLength 0xE) s
  else done c (ans .ok) { s with log := { s.log with entries := s.log.entries.filter fun e => !clears first count e } }

end Sys2Proof.Machine
end

