-- ==== Sys2Proof/Machine/Lantern.lean ====
section
/-! DEFINITION. The meanings of the lantern ports' events (R312 to R334, R340, R341, R373, R402). -/

namespace Sys2Proof.Machine

/-! Slots -/

/-- Is the next codeword of a port's lanes a marker: every 8,192nd (R320)? -/
def markerDue (p : Port) : Bool := p.codewords % 8192 == 8191

/-- Puts a slot on a port's lanes: its codewords are counted (R320). -/
def emitSlot (port : Nat) (t : SentSlot) (p : Port) (s : State) : State :=
  modOut (fun o => { o with slots := o.slots ++
    [{ port := port, slot := t, link := linkWord p t, marker := markerDue p, lanes := p.laneTx, up := isUp p, count := p.codewords % 8192 }] })
    (modPort port (fun p => { p with codewords := (p.codewords + 1) % 8192 }) s)

/-- The slot clock advances, and the NAK hold-off runs down (R324, R326). -/
def passSlot (p : Port) : Port := { holdOff p with slotClock := (p.slotClock + 1) % 4096 }

/-- Sends a slot again (R326): its bound fields with fresh ones; the next index follows while it is kept. -/
def resendSlot (port : Nat) (t : SentSlot) (s : State) : State :=
  let next := (t.index + 1) % 4096
  emitSlot port t (portOf s port)
    (modPort port (fun p => { passSlot p with
      resends := p.resends + 1
      resending := if p.replay.any fun x => x.index == next then some next else none }) s)

/-- Sends a slot that carries nothing: its index is that of one delivered before, so that only its fresh fields count (R326; log
entry 133). -/
def idleSlot (port : Nat) (s : State) : State :=
  let p := portOf s port
  let last := ((p.replay.head?.map (·.index)).getD p.txIndex + 4095) % 4096
  emitSlot port { index := last, frames := [], credits := p.freed, p0 := 0 } p (modPort port passSlot s)

/-- Sends a new slot (R320, R324, R326): frames granted, or those a marker carries; bound fields written; kept for replay. -/
def newSlot (port : Nat) (s : State) : State :=
  let p := portOf s port
  let g := if markerDue p then markerFrames 16 p else grantFrames (ownModule s) 16 p
  let t : SentSlot := { index := p.txIndex, frames := g.1, credits := p.freed, p0 := p.p0Out.headD 0 }
  let held := g.2.arb.urgentHeld - p.arb.urgentHeld
  emitSlot port t p
    (modPkg (fun k => { k with arbStats := addAt 4 held k.arbStats })
      (modPort port (fun _ => { passSlot g.2 with
        txIndex := (p.txIndex + 1) % 4096, p0Out := p.p0Out.drop 1, replay := p.replay ++ [t] }) s))

/-- Sends the slot a resend asks for; a marker slot carries no frames of other classes, so the resend waits for the next (log entry 133). -/
def resendNext (port : Nat) (s : State) : State :=
  let p := portOf s port
  match p.resending.bind fun i => p.replay.find? fun t => t.index == i with
  | some t => if markerDue p then idleSlot port s else resendSlot port t s
  | none => idleSlot port s

/-- SLOT_TRANSMIT (R320, R321, R324, R326): a resend goes first; with 128 unacknowledged slots the sender resends from the oldest as after a
NAK. A port that is not UP trains (R327): its lanes carry IDLE frames and markers. -/
def execSlotTransmit (port : Nat) (s : State) : Result :=
  onPort port
    (let p := portOf s port
     if !isUp p then
       if portDomain p then
         emitSlot port { index := 0, frames := [], credits := p.freed, p0 := 0 } p (modPort port (fun p => { p with state := 1 }) s)
       else s
     else if p.resending.isSome then resendNext port s
     else if 128 ≤ p.replay.length then
       checkLoss port (resendNext port (modPort port (fun p => startResend ((p.replay.head?.map (·.index)).getD 0) p) s))
     else newSlot port s)

/-- The corrected symbols and the bad-codeword runs of the lanes a slot came on, by logical lane (R326, R328). -/
def countBad (rx : SlotRx) (p : Port) : Port :=
  { p with
    corrected := p.corrected + rx.corrected.sum
    uncorrectable := p.uncorrectable + rx.decoded.countP (! ·)
    lanes := (p.laneRx.zipIdx).foldl (fun t e =>
      tmod e.1 {} (fun x => { x with
        corrected := x.corrected + (rx.corrected[e.2]?).getD 0
        badRun := if (rx.decoded[e.2]?).getD true then 0 else x.badRun + 1 }) t) p.lanes }

/-- The lane margin's sum (R378): corrected symbols of the last second. -/
def countMargin (now : Word) (corrected : Nat) (x : Lane18) : Lane18 :=
  if now.toNat < x.marginFrom.toNat + 1000000000 then { x with marginSum := x.marginSum + corrected }
  else { x with marginFrom := now, marginSum := corrected }

/-- One in 10^5 of the 544 symbols a lane carries every 25.6 ns, over 1 s (R378). -/
def marginMax : Nat := 212500

/-- The lane margin of a slot's lanes (R378): a lane that crosses it raises a fog warning. -/
def checkMargin (port : Nat) (rx : SlotRx) (s : State) : State :=
  let s1 := modPort port (fun p => { p with
    lanes := (p.laneRx.zipIdx).foldl (fun t e => tmod e.1 {} (countMargin s.time.now ((rx.corrected[e.2]?).getD 0)) t) p.lanes }) s
  if (portOf s1 port).lanes.any fun e =>
      marginMax < e.2.marginSum && (tgetD e.1 {} (portOf s port).lanes).marginSum ≤ marginMax then fogWarning 2 (0x0700 + port / 3) s1 else s1

/-- A logical lane of which 16 codewords in a row were uncorrectable (R328). -/
def failingLane (p : Port) : Option Nat :=
  p.laneRx.findIdx? fun l => match tget l p.lanes with | some x => decide (16 ≤ x.badRun) | none => false

/-- Spares a failing lane: a request, or the port goes DOWN for want of a spare (R328, R329). -/
def spareLane (port : Nat) (s : State) : State :=
  let p := portOf s port
  match failingLane p with
  | none => s
  | some l =>
    if (sparesRx p).isEmpty then takeDown port 2 s
    else if p.mapRequest.isSome then s
    else modPort port (requestMap l) s

/-- Takes a slot delivered in order (R324, R326, R330): its credits, and its P0 chunk. -/
def deliverSlot (link : BitVec 128) (p : Port) : Port :=
  let counts := (List.range 6).map fun i => linkField link (33 + 8 * i) 8
  let chunk : BitVec 32 := link.truncate 32
  { p with
    rxNext := (p.rxNext + 1) % 4096
    nak := false
    credits := (p.credits.zipIdx).map fun e => e.1 + (nthNat counts e.2 + 256 - nthNat p.creditSeen e.2) % 256
    creditSeen := counts
    p0In := if chunk = 0 ∧ p.p0In.isEmpty then p.p0In else p.p0In ++ [chunk] }

/-- A complete link word (R324, R326): its fresh fields act at once; its slot is delivered if its index is the next,
discarded if it was delivered before, and otherwise missing ones are asked for. -/
def takeLinkWord (link : BitVec 128) (p : Port) : Port :=
  let ack := linkField link 116 12
  let idx := linkField link 103 12
  let p1 := { ackSlots ack p with lostWords := 0 }
  let p2 := if link.getLsbD 115 then startResend ((ack + 1) % 4096) p1 else p1
  let p3 := if link.getLsbD 102 then
      { p2 with mapTransmit := some (linkField link 98 4, linkField link 93 5, linkField link 81 12) } else p2
  if idx = p3.rxNext then deliverSlot link p3
  else if idxLe idx p3.rxNext then p3
  else { p3 with nak := true, naks := if p3.nak then p3.naks else p3.naks + 1 }

/-- SLOT_RECEIVE (R324, R326 to R328). -/
def execSlotReceive (port : Nat) (rx : SlotRx) (s : State) : Result :=
  onPort port
    (if !isUp (portOf s port) then s
     else
       let p := countBad rx (portOf s port)
       let p1 := if rx.decoded.length = 16 ∧ rx.decoded.all (· == true) then takeLinkWord rx.link p
         else { p with nak := true, naks := if p.nak then p.naks else p.naks + 1, lostWords := p.lostWords + 1 }
       checkLoss port (spareLane port (checkMargin port rx (modPort port (fun _ => p1) s))))

/-- REPLAY_BUFFER_FULL (R326): with all 128 slots unacknowledged, the sender resends from the oldest. -/
def execReplayBufferFull (port : Nat) (s : State) : Result :=
  onPort port
    (checkLoss port (modPort port (fun p =>
      match p.replay with
      | t :: _ => if isUp p && decide (128 ≤ p.replay.length) && p.resending.isNone then startResend t.index p else p
      | [] => p) s))

/-! Frames -/

/-- Opens a stream at a receiving port (R318): its destination address and byte count. -/
def openStream (port number : Nat) (p : Pkt) (s : State) : State :=
  modPort port (fun x => { x with streamsIn := tput (number % 1024) (p.arg.toNat, p.arg2.toNat % 2 ^ 40, p) x.streamsIn }) s

/-- MSG_FRAME (R316): packets delivered to the crossbar by class, a STREAM_OPEN to the port; a reserved TYPE is dropped and counted. -/
def execMsgFrame (port cls subch : Nat) (packets : List Pkt) (s : State) : Result :=
  onPort port
    (let good := packets.filter fun p => p.type != .reserved
     let s1 := modPort port (fun p => { p with
       reservedDrops := p.reservedDrops + (packets.length - good.length)
       freed := lmod (bufferOf cls subch) (fun n => (n + 1) % 256) p.freed }) s
     good.foldl (fun s p => if p.type = .streamOpen then openStream port p.status p s else forwardPacket (some port) p s) s1)

/-- STREAM_OPEN (R318). -/
def execStreamOpen (port stream : Nat) (p : Pkt) (s : State) : Result := onPort port (openStream port stream p s)

/-- DATA_FRAME (R318): the next 640 bytes of a stream, or those that remain. -/
def execDataFrame (port stream : Nat) (data : List Byte) (s : State) : Result :=
  onPort port
    (match tget (stream % 1024) (portOf s port).streamsIn with
     | none => s
     | some (addr, left, p) =>
       let bs := data.take (min 640 left)
       let total := p.arg2.toNat % 2 ^ 40
       let s1 := modPort port (fun x => { x with
         streamsIn := if left ≤ bs.length then tdel (stream % 1024) x.streamsIn
           else tput (stream % 1024) (addr + bs.length, left - bs.length, p) x.streamsIn
         freed := lmod (bufferOf 3 p.subch) (fun n => (n + 1) % 256) x.freed }) s
       (cutFrame p addr (total - left) 2 bs).foldl (fun s q => forwardPacket (some port) q s) s1)

/-- CREDIT_STALL (R341): frames of a class and sub-channel that wait without a credit raise a fog warning. -/
def execCreditStall (port cls subch : Nat) (s : State) : Result :=
  onPort port
    (let p := portOf s port
     if (p.frames.any fun f => f.cls == cls && f.subch == subch) && nthNat p.credits (bufferOf cls subch) == 0 then
       fogWarning 3 (0x0700 + port / 3) s
     else s)

/-- PACKET_FORWARD (R331, R340). -/
def execPacketForward (inPort : Option Nat) (p : Pkt) (s : State) : Result := .next (forwardPacket inPort p s)

/-! Lanes -/

/-- The spacing of markers in bits (R322). -/
def markerSpacing : Nat := 8192 * 5440

/-- The lock state machine of a lane (R322) at a bit position: pattern says that the 12 bits there read 0xED3, decodes that the codeword
that starts there does. -/
def laneStep (position : Nat) (pattern decodes : Bool) (x : Lane18) : Lane18 :=
  let found := pattern && decodes
  match x.lock with
  | .hunt start => if found && decide (start ≤ position) then { x with lock := .check1 position } else x
  | .check1 seen =>
    if position = seen + markerSpacing then { x with lock := if found then .check2 seen else .hunt (seen + 1) }
    else if pattern then { x with lock := .hunt (seen + 1) }
    else x
  | .check2 seen =>
    if position = seen + 2 * markerSpacing then { x with lock := if found then .locked position 0 else .hunt (seen + 1) }
    else if pattern then { x with lock := .hunt (seen + 1) }
    else x
  | .locked place n =>
    if position = place + markerSpacing then
      if found then { x with lock := .locked position 0 }
      else if 4 ≤ n + 1 then { x with lock := .hunt (position + 1) }
      else { x with lock := .locked position (n + 1) }
    else x

/-- A lane that lost lock (R322, R328, R329): a resynchronisation is counted, the ninth within 10 s retires the lane, and
its logical lane moves to a spare or the port goes DOWN. -/
def loseLock (port lane : Nat) (s : State) : State :=
  let upd := fun (x : Lane18) =>
    let r := s.time.now :: x.resyncs.filter fun t => s.time.now.toNat < t.toNat + 10000000000
    ({ x with resyncs := r, retired := x.retired || decide (8 < r.length), badRun := 16 } : Lane18)
  let was := ((tget lane (portOf s port).lanes).map (·.retired)).getD false
  let s1 := modPort port (fun p => { p with resyncs := p.resyncs + 1, lanes := tmod lane {} upd p.lanes }) s
  let now := ((tget lane (portOf s1 port).lanes).map (·.retired)).getD false
  let s2 := if now && !was then note 0x0402 (fun e => { e with source := 0x0700 + port / 3, arg := BitVec.ofNat 64 (port + lane * 2 ^ 8) }) s1
    else s1
  if isUp (portOf s2 port) && (logicalRx (portOf s2 port) lane).isSome then spareLane port s2 else s2

/-- Is the lane locked, and do the bits at a position lie where no marker is expected? -/
def offPlace (position : Nat) (x : Lane18) : Bool :=
  match x.lock with
  | .locked place _ => position != place + markerSpacing
  | _ => false

/-- Does a lane hunt? -/
def hunts (x : Lane18) : Bool := match x.lock with | .hunt _ => true | _ => false

/-- MARKER (R322): an alignment marker, a candidate, or one that is absent at its place. -/
def execMarker (port lane position : Nat) (seen : MarkerSeen) (s : State) : Result :=
  onPort port
    (let x := tgetD lane {} (portOf s port).lanes
     let y := laneStep position seen.pattern seen.decodes x
     let s1 := modPort port (fun p => { p with
       lanes := tput lane y p.lanes
       falseMarkers := if offPlace position x && seen.pattern then p.falseMarkers + 1 else p.falseMarkers }) s
     match x.lock with
     | .locked _ _ => if hunts y then loseLock port lane s1 else s1
     | _ => s1)

/-- LANE_MAP_CHANGE (R328): at MAP_SLOT a direction's logical lane moves to its new physical lane; taking the last spare
raises a fog warning (R329). -/
def execLaneMapChange (port : Nat) (transmit : Bool) (logical physical slot : Nat) (s : State) : Result :=
  onPort port
    (let p := portOf s port
     if transmit then
       if p.mapTransmit = some (logical, physical, slot) then
         modPort port (fun p => { p with laneTx := lset logical physical p.laneTx, mapTransmit := none }) s
       else s
     else if p.mapRequest = some (logical, physical, slot) then
       let s1 := modPort port (fun p => { p with
         laneRx := lset logical physical p.laneRx, mapRequest := none
         lanes := tmod physical {} (fun x => { x with badRun := 0 }) p.lanes }) s
       let s2 := note 0x0401 (fun e => { e with source := 0x0700 + port / 3, arg := BitVec.ofNat 64 (port + physical * 2 ^ 8) }) s1
       if (sparesRx (portOf s2 port)).isEmpty then fogWarning 2 (0x0700 + port / 3) s2 else s2
     else s)

/-! P0 messages (R325, R333) -/

/-- The answer to a partner that lost a bond member: the last index this side delivered from that port's partner. -/
def answerIndex (port failed : Nat) (s : State) : State :=
  modPort port (fun q => { q with
    p0Out := q.p0Out ++ [0x00000203, BitVec.ofNat 32 failed, BitVec.ofNat 32 (((portOf s failed).rxNext + 4095) % 4096)] }) s

/-- Resends over a surviving member what a failed member sent after the last index delivered, and what it still had to send (R333): as
packets, since its stream numbers are its own. -/
def resendOver (port failed index : Nat) (s : State) : State :=
  let p := portOf s failed
  let lost := framePackets ((p.replay.filter fun t => !idxLe t.index index).flatMap (·.frames))
  (lost ++ waitingPackets p).foldl (fun s q => modPort port (enqueue q) s) (modPort failed clearPort s)

/-- Answers a time probe (R335): t1, t2 and t3 in a TIME_REPLY; one whose first chunk came from a replay is discarded. -/
def answerProbe (port : Nat) (t1 t2 : BitVec 64) (replayed : Bool) (s : State) : State :=
  if replayed then s
  else
    let two := fun (t : BitVec 64) => [t.truncate 32, (t >>> 32).truncate 32]
    modPort port (fun q => { q with p0Out := q.p0Out ++ [0x00000407] ++ two t1 ++ two t2 ++ two s.time.now }) s

/-- P0_MESSAGE (R325, R333, R335): a complete message at the head of the port's stream is delivered; the two of a lost bond member and a
time probe are answered and acted on. -/
def execP0Message (port : Nat) (chunks : List (BitVec 32)) (meant : P0Says) (s : State) : Result :=
  onPort port
    (let n := (chunks.headD 0).toNat % 256
     if n = 0 ∨ 16 < n ∨ chunks.length ≠ n ∨ (portOf s port).p0In.take n ≠ chunks then s
     else
       let s1 := modOut (fun o => { o with p0 := o.p0 ++ [(port, chunks)] }) (modPort port (fun p => { p with p0In := p.p0In.drop n }) s)
       match meant with
       | .other => s1
       | .askLastIndex failed => answerIndex port failed s1
       | .lastIndex failed index => if isUp (portOf s1 failed) then s1 else resendOver port failed index s1
       | .timeProbe t1 t2 replayed => answerProbe port t1 t2 replayed s1)

/-! Ports -/

/-- PORT_DOWN (R327, R333): cause 0 link words lost, 1 resends, 2 a lane without a spare, 3 the flight time. -/
def execPortDown (port cause : Nat) (s : State) : Result := onPort port (takeDown port cause s)

/-- Sweeps every lock here whose owner bears a module's identifier (R373). -/
def sweepModule (module : Nat) (s : State) : State :=
  let owners := (s.objects.filterMap fun e =>
    if e.2.kind == .lock && e.2.full && !e.2.orphaned && e.2.value.toNat / 2 ^ 24 == module then
      some (UnitId.mk module (e.2.value.toNat / 2 ^ 8 % 2 ^ 16) (e.2.value.toNat % 2 ^ 8)) else none).eraseDups
  owners.foldl (fun s u => (List.range 8).foldl (fun s r => sweepRegion r u s) s) s

/-- The lanes of a training that may serve (R323): those skewed by no more than 2 slots, in the order of the transmitting lanes their markers
name (R321). -/
def usableLanes (rx : List RxLane) : List RxLane :=
  (List.range 18).filterMap fun n => rx.find? fun l => l.sent == n && decide (l.skewPs ≤ 51200)

/-- A port comes UP: indices, credits and buffers anew, and its lanes mapped to the locked ones, logical lane 0 to the lowest transmitting
lane (R321 to R330). -/
def bringUp (rx : List RxLane) (tx : List Nat) (flight peer boot : Nat) (p : Port) : Port :=
  { clearPort p with
    state := 2, peerModule := peer, peerBoot := some boot, flightNs := flight, selfConnected := false
    flightLimit := false, laneRx := (rx.map (·.lane)).take 16, laneTx := tx.take 16, txLanes := tx
    lanes := rx.foldl (fun t l => tput l.lane { lock := .locked l.place 0, peer := l.sent, skewPs := l.skewPs } t) []
    slotClock := 0, txIndex := 0, rxNext := 0, credits := [32, 32, 64, 64, 960, 960], creditSeen := [0, 0, 0, 0, 0, 0]
    freed := [0, 0, 0, 0, 0, 0], arb := {} }

/-- PORT_TRAINING (R314, R321, R323, R327, R373, R396): a DOWN port comes UP if 16 lanes lock in each direction, none of them skewed by more
than 2 slots; it stays DOWN without a module identifier, an assembly or its enable, over 600 ns, or wired to its own module without
LOOPBACK. -/
def execPortTraining (port : Nat) (rxLanes : List RxLane) (txLanes : List Nat) (flightNs peerModule peerBoot : Nat) (selfConnected : Bool)
    (s : State) : Result :=
  onPort port
    (let p := portOf s port
     let rx := usableLanes rxLanes
     let tx := (List.range 18).filter fun n => txLanes.contains n
     if isUp p ∨ ¬ portDomain p then s
     else if s.pkg.moduleId.isNone then modPort port (fun p => { p with state := 0 }) s
     else if selfConnected ∧ ¬ p.loopback then modPort port (fun p => { p with state := 0, selfConnected := true }) s
     else if 600 < flightNs then
       modPort port (fun p => { p with state := 0, selfConnected := false, flightLimit := true, flightNs := flightNs }) s
     else if rx.length < 16 ∨ tx.length < 16 then modPort port (fun p => { p with state := 0 }) s
     else
       let s1 := modPort port (bringUp rx tx flightNs peerModule peerBoot) s
       match p.peerBoot with
       | some b => if b ≠ peerBoot then sweepModule peerModule s1 else s1
       | none => s1)

/-- CAGE_PRESENCE_CHANGE (R402): an empty cage takes the port DOWN and its domain off; an assembly in an enabled port's
cage switches it on. -/
def execCagePresenceChange (port : Nat) (present : Bool) (s : State) : Result :=
  onPort port
    (let s1 := { s with supplies := { s.supplies with
       cages := if present then s.supplies.cages ||| BitVec.ofNat 6 (2 ^ port) else s.supplies.cages &&& ~~~(BitVec.ofNat 6 (2 ^ port)) } }
     let s2 := if present then s1 else takeDown port 2 s1
     switchPort port (modPort port (fun p => { p with noAssembly := !present }) s2))

end Sys2Proof.Machine
end

