-- ==== Sys2Proof/Machine/TimeBase.lean ====
section
/-! DEFINITION. Beacon time (R335 to R338): probes and replies, steering, holdover, PPS and TIME_SET. -/

namespace Sys2Proof.Machine

def modTime (f : Time → Time) (s : State) : State := { s with time := f s.time }

/-- Steers beacon time toward an offset in nanoseconds, positive where the module is behind (R336): more than 10 µs behind
it steps forward; otherwise its rate moves by up to 200 ppm. It never steps backward. -/
def steer (offset : Int) (t : Time) : Time :=
  if 10000 < offset then { t with now := t.now + BitVec.ofInt 64 offset, rate := 0 }
  else { t with rate := max (-200) (min 200 offset) }

/-- TIME_PROBE (R335): an UP port sends its peer a probe with its time, as a P0 message. -/
def execTimeProbe (port : Nat) (s : State) : Result :=
  onPort port
    (if isUp (portOf s port) then
       modPort port (fun p => { p with
         p0Out := p.p0Out ++ [0x00000303, s.time.now.truncate 32, (s.time.now >>> 32).truncate 32] }) s
     else s)

/-- ((t2 − t1) − (t4 − t3)) ÷ 2 (R335). -/
def timeOffsetOf (t1 t2 t3 t4 : Word) : Int := ((t2 - t1).toInt - (t4 - t3).toInt) / 2

/-- TIME_REPLY (R335 to R337): the offset to the peer is reported; the parent's steers and ends a holdover. An exchange
whose first chunk came from a replay is discarded. -/
def execTimeReply (port : Nat) (t1 t2 t3 t4 : Word) (replayed : Bool) (s : State) : Result :=
  onPort port
    (if replayed || !isUp (portOf s port) then s
     else
       let off := timeOffsetOf t1 t2 t3 t4
       let s1 := modPort port (fun p => { p with timeOffset := off }) s
       if s.time.source = 2 ∧ s.time.parent = port then modTime (fun t => { steer off t with holdover := false }) s1 else s1)

/-- PPS_HOLDOVER (R337): with source PPS, no qualified edge for 2 s enters holdover. -/
def execPpsHoldover (s : State) : Result :=
  .next (if s.time.source = 1 ∧ s.time.lastPps.toNat + 2000000000 ≤ s.time.now.toNat then
    modTime (fun t => { t with holdover := true }) s else s)

/-- How far beacon time lies behind the nearest multiple of 10^9 ns (R338). -/
def secondOffset (stamp : Word) : Int :=
  let r := stamp.toNat % 1000000000
  if r < 500000000 then -(r : Int) else (1000000000 - r : Int)

/-- Sets beacon time, which never steps backward (R336): a time ahead is taken, one behind is slewed to. -/
def setTime (v : Word) (t : Time) : Time := if t.now ≤ v then { t with now := v, rate := 0 } else { t with rate := -200 }

/-- TIME_PPS (R337, R338): a confirmed edge loads a waiting TIME_SET, or steers toward the nearest second; it ends a
holdover. Without source PPS the pin is ignored. -/
def execTimePps (stamp : Word) (confirmed : Bool) (s : State) : Result :=
  .next (if s.time.source = 1 ∧ confirmed then
    modTime (fun t =>
      let u := match t.loadAtPps with | some v => setTime v t | none => steer (secondOffset stamp) t
      { u with loadAtPps := none, lastPps := u.now, holdover := false }) s
  else s)

/-- TIME_SET (R338). -/
def execTimeSet (c : Cmd) (time : BitVec 64) (atNextPps : Bool) (s : State) : Result :=
  done c (ans .ok) (modTime (fun t => if atNextPps then { t with loadAtPps := some time } else setTime time t) s)

end Sys2Proof.Machine
end

