-- ==== Sys2Proof/Machine/Dispatch.lean ====
section
/-! DEFINITION. The dispatch of every command of the table to its meaning, one arm each, in the table's order. -/

namespace Sys2Proof.Machine

def exec (i : Instr) (s : State) : Host.Outcome State Fault Refusal :=
  match i with
  | .partConfig c target enable mask => Sys2Proof.Machine.execPartConfig c target enable mask s
  | .quotaSet c target hbmMib syncObjects queues queueSlots sequences clients kvPoolMib => Sys2Proof.Machine.execQuotaSet c target hbmMib syncObjects queues queueSlots sequences clients kvPoolMib s
  | .loadPlan c addr size body => Sys2Proof.Machine.execLoadPlan c addr size body s
  | .unloadPlan c plan => Sys2Proof.Machine.execUnloadPlan c plan s
  | .objAlloc c count kind monotonic region => Sys2Proof.Machine.execObjAlloc c count kind monotonic region s
  | .objFree c handle count => Sys2Proof.Machine.execObjFree c handle count s
  | .hostwordSet c entry kind msix vector addr => Sys2Proof.Machine.execHostwordSet c entry kind msix vector addr s
  | .taskBegin c plan task => Sys2Proof.Machine.execTaskBegin c plan task s
  | .taskEnd c plan task => Sys2Proof.Machine.execTaskEnd c plan task s
  | .dmaCopy c d => Sys2Proof.Machine.execDmaCopy c d s
  | .dmaGather c d index esize count => Sys2Proof.Machine.execDmaGather c d index esize count s
  | .dmaScatter c d index esize count => Sys2Proof.Machine.execDmaScatter c d index esize count s
  | .dmaFill c pattern d => Sys2Proof.Machine.execDmaFill c pattern d s
  | .dmaPageWalk c d srcPaged dstPaged srcList dstList srcEntries dstEntries => Sys2Proof.Machine.execDmaPageWalk c d srcPaged dstPaged srcList dstList srcEntries dstEntries s
  | .swapOut c seq host => Sys2Proof.Machine.execSwapOut c seq host s
  | .swapIn c seq => Sys2Proof.Machine.execSwapIn c seq s
  | .gemm c p => Sys2Proof.Machine.execGemm c p s
  | .gemmBatchedPtr c p list count => Sys2Proof.Machine.execGemmBatchedPtr c p list count s
  | .conv c p => Sys2Proof.Machine.execConv c p s
  | .attnFwd c p => Sys2Proof.Machine.execAttnFwd c p s
  | .attnBwd c p dO dQ dKV => Sys2Proof.Machine.execAttnBwd c p dO dQ dKV s
  | .brushRun c plan program args argBytes stream seed => Sys2Proof.Machine.execBrushRun c plan program args argBytes stream seed s
  | .reduce c p => Sys2Proof.Machine.execReduce c p s
  | .signal who handle module blocking remote v => Sys2Proof.Machine.execSignal who handle module blocking remote v s
  | .wait who on peek target timeout => Sys2Proof.Machine.execWait who on peek target timeout s
  | .fencedSignal who core handle module blocking remote v => Sys2Proof.Machine.execFencedSignal who core handle module blocking remote v s
  | .barrierArm c tree barrier block mask treeId group => Sys2Proof.Machine.execBarrierArm c tree barrier block mask treeId group s
  | .objRead c handle view => Sys2Proof.Machine.execObjRead c handle view s
  | .objReset c handle => Sys2Proof.Machine.execObjReset c handle s
  | .lockAcquire who handle module blocking remote timeout => Sys2Proof.Machine.execLockAcquire who handle module blocking remote timeout s
  | .lockRelease who handle module remote => Sys2Proof.Machine.execLockRelease who handle module remote s
  | .queueCreate c region width consumer high low publish watermark reset producers => Sys2Proof.Machine.execQueueCreate c region width consumer high low publish watermark reset producers s
  | .queueCredit c queue endpoint remote delta module => Sys2Proof.Machine.execQueueCredit c queue endpoint remote delta module s
  | .queueFlush c queue timeout => Sys2Proof.Machine.execQueueFlush c queue timeout s
  | .queueDestroy c queue => Sys2Proof.Machine.execQueueDestroy c queue s
  | .stageConfig c stages index nmb inFlight schedule fwdIn fwdOut bwdIn bwdOut fwdOutModule bwdOutModule plan fwdList bwdList => Sys2Proof.Machine.execStageConfig c stages index nmb inFlight schedule fwdIn fwdOut bwdIn bwdOut fwdOutModule bwdOutModule plan fwdList bwdList s
  | .stageRun c step => Sys2Proof.Machine.execStageRun c step s
  | .stageDrain c cut timeout => Sys2Proof.Machine.execStageDrain c cut timeout s
  | .stageOffload c k tokens hostBuf hostBytes bytesPerLayer => Sys2Proof.Machine.execStageOffload c k tokens hostBuf hostBytes bytesPerLayer s
  | .seqCreate c model priority client maxLength promptLength lookup prompt tokenRec temperature topK stop seed => Sys2Proof.Machine.execSeqCreate c model priority client maxLength promptLength lookup prompt tokenRec temperature topK stop seed s
  | .seqStep c model chunk budget result resultEntries predictNs => Sys2Proof.Machine.execSeqStep c model chunk budget result resultEntries predictNs s
  | .seqVerify c seq count external cand => Sys2Proof.Machine.execSeqVerify c seq count external cand s
  | .seqRollback c seq n t => Sys2Proof.Machine.execSeqRollback c seq n t s
  | .seqFork c parent seed tokenRec => Sys2Proof.Machine.execSeqFork c parent seed tokenRec s
  | .seqRelease c seq => Sys2Proof.Machine.execSeqRelease c seq s
  | .prefixLookup c model promptLength prompt => Sys2Proof.Machine.execPrefixLookup c model promptLength prompt s
  | .deadlineSet c seq interval deadline fallback => Sys2Proof.Machine.execDeadlineSet c seq interval deadline fallback s
  | .groupSet c group kind members => Sys2Proof.Machine.execGroupSet c group kind members s
  | .bucketConfig c group format buckets telemetry records => Sys2Proof.Machine.execBucketConfig c group format buckets telemetry records s
  | .allreduce c group format addr length => Sys2Proof.Machine.execAllreduce c group format addr length s
  | .normGlobal c group layers skip maxNorm timeout => Sys2Proof.Machine.execNormGlobal c group layers skip maxNorm timeout s
  | .optimizerStep c p => Sys2Proof.Machine.execOptimizerStep c p s
  | .genStage c gen stallMs layerList layers notice noticeModule model source => Sys2Proof.Machine.execGenStage c gen stallMs layerList layers notice noticeModule model source s
  | .genFlip c model atomic gen timeout layers => Sys2Proof.Machine.execGenFlip c model atomic gen timeout layers s
  | .genRetire c model gen timeout => Sys2Proof.Machine.execGenRetire c model gen timeout s
  | .expertMapSet c count list => Sys2Proof.Machine.execExpertMapSet c count list s
  | .tokenDispatch c t k nextChoice routing rows list listCount rowBytes => Sys2Proof.Machine.execTokenDispatch c t k nextChoice routing rows list listCount rowBytes s
  | .tokenCombine c t k addResidual routing out list listCount rowBytes => Sys2Proof.Machine.execTokenCombine c t k addResidual routing out list listCount rowBytes s
  | .ckptBuddy c epoch buddy table signature found => Sys2Proof.Machine.execCkptBuddy c epoch buddy table signature found s
  | .ckptRestore c epoch source table signature copy => Sys2Proof.Machine.execCkptRestore c epoch source table signature copy s
  | .ckptPolicy c codes onFog minInterval => Sys2Proof.Machine.execCkptPolicy c codes onFog minInterval s
  | .schedParams c target mode kvPolicy pageMax slice drainTimeout => Sys2Proof.Machine.execSchedParams c target mode kvPolicy pageMax slice drainTimeout s
  | .preemptSoft c target job => Sys2Proof.Machine.execPreemptSoft c target job s
  | .preemptHard c target job => Sys2Proof.Machine.execPreemptHard c target job s
  | .resume c target job => Sys2Proof.Machine.execResume c target job s
  | .accountRead c what clear client seqOrModel dest => Sys2Proof.Machine.execAccountRead c what clear client seqOrModel dest s
  | .unitRetire c unit => Sys2Proof.Machine.execUnitRetire c unit s
  | .unitRequalify c unit => Sys2Proof.Machine.execUnitRequalify c unit s
  | .fwSlotWrite c slot image bytes signatureOk version security minPeer => Sys2Proof.Machine.execFwSlotWrite c slot image bytes signatureOk version security minPeer s
  | .fwSlotActivate c slot authOk => Sys2Proof.Machine.execFwSlotActivate c slot authOk s
  | .fwSlotQuery c image => Sys2Proof.Machine.execFwSlotQuery c image s
  | .logRead c first count protectedOnly dest => Sys2Proof.Machine.execLogRead c first count protectedOnly dest s
  | .logClear c first count => Sys2Proof.Machine.execLogClear c first count s
  | .timeSet c time atNextPps => Sys2Proof.Machine.execTimeSet c time atNextPps s
  | .vadd o => Sys2Proof.Machine.execVadd o s
  | .vsub o => Sys2Proof.Machine.execVsub o s
  | .vmul o => Sys2Proof.Machine.execVmul o s
  | .vfma o => Sys2Proof.Machine.execVfma o s
  | .vmax o => Sys2Proof.Machine.execVmax o s
  | .vmin o => Sys2Proof.Machine.execVmin o s
  | .vabs o => Sys2Proof.Machine.execVabs o s
  | .vneg o => Sys2Proof.Machine.execVneg o s
  | .viadd o => Sys2Proof.Machine.execViadd o s
  | .vimul o => Sys2Proof.Machine.execVimul o s
  | .vand o => Sys2Proof.Machine.execVand o s
  | .vor o => Sys2Proof.Machine.execVor o s
  | .vxor o => Sys2Proof.Machine.execVxor o s
  | .vshl o => Sys2Proof.Machine.execVshl o s
  | .vshr o => Sys2Proof.Machine.execVshr o s
  | .vcmp o cond int pdst => Sys2Proof.Machine.execVcmp o cond int pdst s
  | .vsel o psel => Sys2Proof.Machine.execVsel o psel s
  | .vclass o => Sys2Proof.Machine.execVclass o s
  | .vcvt o source format sat sr counter => Sys2Proof.Machine.execVcvt o source format sat sr counter s
  | .vpackmx o format sr counter dest scaleDest => Sys2Proof.Machine.execVpackmx o format sr counter dest scaleDest s
  | .vunpackmx o format src scaleSrc => Sys2Proof.Machine.execVunpackmx o format src scaleSrc s
  | .vexp2 o => Sys2Proof.Machine.execVexp2 o s
  | .vlog2 o => Sys2Proof.Machine.execVlog2 o s
  | .vrcp o => Sys2Proof.Machine.execVrcp o s
  | .vsqrt o => Sys2Proof.Machine.execVsqrt o s
  | .vrsq o => Sys2Proof.Machine.execVrsq o s
  | .vtanh o => Sys2Proof.Machine.execVtanh o s
  | .vsigm o => Sys2Proof.Machine.execVsigm o s
  | .verf o => Sys2Proof.Machine.execVerf o s
  | .vsin o => Sys2Proof.Machine.execVsin o s
  | .vcos o => Sys2Proof.Machine.execVcos o s
  | .vrsum o => Sys2Proof.Machine.execVrsum o s
  | .vrmax o => Sys2Proof.Machine.execVrmax o s
  | .vrmin o => Sys2Proof.Machine.execVrmin o s
  | .vrmaxexp o => Sys2Proof.Machine.execVrmaxexp o s
  | .xwin core xa sreg => Sys2Proof.Machine.execXwin core xa sreg s
  | .vsumx o xa => Sys2Proof.Machine.execVsumx o xa s
  | .xrnd core xa sdst => Sys2Proof.Machine.execXrnd core xa sdst s
  | .xclr core xa => Sys2Proof.Machine.execXclr core xa s
  | .vld o addr => Sys2Proof.Machine.execVld o addr s
  | .vst o addr => Sys2Proof.Machine.execVst o addr s
  | .vgath o base => Sys2Proof.Machine.execVgath o base s
  | .vscat o base => Sys2Proof.Machine.execVscat o base s
  | .vbcast o sreg => Sys2Proof.Machine.execVbcast o sreg s
  | .vshuf o => Sys2Proof.Machine.execVshuf o s
  | .accrd o offset => Sys2Proof.Machine.execAccrd o offset s
  | .accrdx o offset read => Sys2Proof.Machine.execAccrdx o offset read s
  | .accwr o offset => Sys2Proof.Machine.execAccwr o offset s
  | .vrand o counter => Sys2Proof.Machine.execVrand o counter s
  | .vrseed lanes => Sys2Proof.Machine.execVrseed lanes s
  | .tile core d => Sys2Proof.Machine.execTile core d s
  | .fence core => Sys2Proof.Machine.execFence core s
  | .localFlagOperation who handle op => Sys2Proof.Machine.execLocalFlagOperation who handle op s
  | .scalarPipeInstruction core op dst a b k => Sys2Proof.Machine.execScalarPipeInstruction core op dst a b k s
  | .directStore core addr data refusedBy => Sys2Proof.Machine.execDirectStore core addr data refusedBy s
  | .directLoad core sdst addr width => Sys2Proof.Machine.execDirectLoad core sdst addr width s
  | .tileCompletion core => Sys2Proof.Machine.execTileCompletion core s
  | .computeFault core source => Sys2Proof.Machine.execComputeFault core source s
  | .tileReissue core => Sys2Proof.Machine.execTileReissue core s
  | .partialTileDelivery core => Sys2Proof.Machine.execPartialTileDelivery core s
  | .combineAccept region => Sys2Proof.Machine.execCombineAccept region s
  | .combineCreditReturn core => Sys2Proof.Machine.execCombineCreditReturn core s
  | .paletteScrub core word errorBits => Sys2Proof.Machine.execPaletteScrub core word errorBits s
  | .cacheAccess part addr write bytes cls uncorrectable => Sys2Proof.Machine.execCacheAccess part addr write bytes cls uncorrectable s
  | .prefetchTrainingMiss region part addr => Sys2Proof.Machine.execPrefetchTrainingMiss region part addr s
  | .prefetchIssue region index uncorrectable => Sys2Proof.Machine.execPrefetchIssue region index uncorrectable s
  | .hbmRefresh stack bank => Sys2Proof.Machine.execHbmRefresh stack bank s
  | .ecsRead stack count => Sys2Proof.Machine.execEcsRead stack count s
  | .hbmTemperatureRead stack temperature => Sys2Proof.Machine.execHbmTemperatureRead stack temperature s
  | .dmaPacketIssue region channel => Sys2Proof.Machine.execDmaPacketIssue region channel s
  | .dmaPacketTimeout region channel seq => Sys2Proof.Machine.execDmaPacketTimeout region channel seq s
  | .write w => Sys2Proof.Machine.execWrite w s
  | .readReq p => Sys2Proof.Machine.execReadReq p s
  | .readData p poisoned => Sys2Proof.Machine.execReadData p poisoned s
  | .ack p => Sys2Proof.Machine.execAck p s
  | .refusal p => Sys2Proof.Machine.execRefusal p s
  | .signalApply p handle blocking => Sys2Proof.Machine.execSignalApply p handle blocking s
  | .queueOp p endpoint qgen req => Sys2Proof.Machine.execQueueOp p endpoint qgen req s
  | .lockOp p handle req => Sys2Proof.Machine.execLockOp p handle req s
  | .streamOpen port stream p => Sys2Proof.Machine.execStreamOpen port stream p s
  | .fenceProbe p destination => Sys2Proof.Machine.execFenceProbe p destination s
  | .fenceAnswer core destination => Sys2Proof.Machine.execFenceAnswer core destination s
  | .fencedSignalTimeout core => Sys2Proof.Machine.execFencedSignalTimeout core s
  | .relay die p => Sys2Proof.Machine.execRelay die p s
  | .rangeCheck p length => Sys2Proof.Machine.execRangeCheck p length s
  | .queueCreditReturn p endpoint => Sys2Proof.Machine.execQueueCreditReturn p endpoint s
  | .creditReturnSend queue endpoint => Sys2Proof.Machine.execCreditReturnSend queue endpoint s
  | .waitTimeout who handle => Sys2Proof.Machine.execWaitTimeout who handle s
  | .wake core => Sys2Proof.Machine.execWake core s
  | .ownerSweep region owner => Sys2Proof.Machine.execOwnerSweep region owner s
  | .barrierArrive u block barrier slot turn => Sys2Proof.Machine.execBarrierArrive u block barrier slot turn s
  | .treeNodeArrival site place => Sys2Proof.Machine.execTreeNodeArrival site place s
  | .signalWindowWrite vf offset size v => Sys2Proof.Machine.execSignalWindowWrite vf offset size v s
  | .submitDoorbell fn offset size value => Sys2Proof.Machine.execSubmitDoorbell fn offset size value s
  | .completionDoorbell fn offset size value => Sys2Proof.Machine.execCompletionDoorbell fn offset size value s
  | .commandFetch fn ring packet => Sys2Proof.Machine.execCommandFetch fn ring packet s
  | .commandStart fn ring hostBlock => Sys2Proof.Machine.execCommandStart fn ring hostBlock s
  | .replyWrite fn ring => Sys2Proof.Machine.execReplyWrite fn ring s
  | .realignment fn ring => Sys2Proof.Machine.execRealignment fn ring s
  | .ringError fn ring recordWritable => Sys2Proof.Machine.execRingError fn ring recordWritable s
  | .functionLevelReset fn => Sys2Proof.Machine.execFunctionLevelReset fn s
  | .qopen u queue endpoint tag => Sys2Proof.Machine.execQopen u queue endpoint tag s
  | .qpush u queue endpoint payload => Sys2Proof.Machine.execQpush u queue endpoint payload s
  | .qclose u queue endpoint length uncorrectable => Sys2Proof.Machine.execQclose u queue endpoint length uncorrectable s
  | .queuePop u queue badNext => Sys2Proof.Machine.execQueuePop u queue badNext s
  | .queueResetEnd queue => Sys2Proof.Machine.execQueueResetEnd queue s
  | .proxyQgenUpdate module queue endpoint qgen => Sys2Proof.Machine.execProxyQgenUpdate module queue endpoint qgen s
  | .queueFlushBoundary queue => Sys2Proof.Machine.execQueueFlushBoundary queue s
  | .queueFlushTimeout flush => Sys2Proof.Machine.execQueueFlushTimeout flush s
  | .queueDestroyTimeout queue => Sys2Proof.Machine.execQueueDestroyTimeout queue s
  | .producerDisconnect queue endpoint module => Sys2Proof.Machine.execProducerDisconnect queue endpoint module s
  | .forwardPass part mb items status => Sys2Proof.Machine.execForwardPass part mb items status s
  | .backwardPass part mb out status => Sys2Proof.Machine.execBackwardPass part mb out status s
  | .activationOffload part mb layer tokens src host bytes channel => Sys2Proof.Machine.execActivationOffload part mb layer tokens src host bytes channel s
  | .activationReturn part mb layer host dst bytes channel => Sys2Proof.Machine.execActivationReturn part mb layer host dst bytes channel s
  | .stageDrainTimeout part => Sys2Proof.Machine.execStageDrainTimeout part s
  | .stepCommit part logits failed durationNs => Sys2Proof.Machine.execStepCommit part logits failed durationNs s
  | .bucketFill part bucket => Sys2Proof.Machine.execBucketFill part bucket s
  | .ringStep part group step incoming => Sys2Proof.Machine.execRingStep part group step incoming s
  | .ringStepTimeout part group dark => Sys2Proof.Machine.execRingStepTimeout part group dark s
  | .normNodeArrival die node child vector nonfinite => Sys2Proof.Machine.execNormNodeArrival die node child vector nonfinite s
  | .normGlobalTimeout part => Sys2Proof.Machine.execNormGlobalTimeout part s
  | .expertMapApply part => Sys2Proof.Machine.execExpertMapApply part s
  | .stagingChunk part model layer => Sys2Proof.Machine.execStagingChunk part model layer s
  | .stagingStallTimeout part model => Sys2Proof.Machine.execStagingStallTimeout part model s
  | .layerPrePass part model layer => Sys2Proof.Machine.execLayerPrePass part model layer s
  | .repaint part model => Sys2Proof.Machine.execRepaint part model s
  | .genFlipTimeout part model => Sys2Proof.Machine.execGenFlipTimeout part model s
  | .genRetireTimeout part model => Sys2Proof.Machine.execGenRetireTimeout part model s
  | .drainTimeout part model => Sys2Proof.Machine.execDrainTimeout part model s
  | .slotReceive port rx => Sys2Proof.Machine.execSlotReceive port rx s
  | .dataFrame port stream data => Sys2Proof.Machine.execDataFrame port stream data s
  | .msgFrame port cls subch packets => Sys2Proof.Machine.execMsgFrame port cls subch packets s
  | .replayBufferFull port => Sys2Proof.Machine.execReplayBufferFull port s
  | .marker port lane position seen => Sys2Proof.Machine.execMarker port lane position seen s
  | .laneMapChange port transmit logical physical slot => Sys2Proof.Machine.execLaneMapChange port transmit logical physical slot s
  | .p0Message port chunks meant => Sys2Proof.Machine.execP0Message port chunks meant s
  | .portDown port cause => Sys2Proof.Machine.execPortDown port cause s
  | .portTraining port rxLanes txLanes flightNs peerModule peerBoot selfConnected => Sys2Proof.Machine.execPortTraining port rxLanes txLanes flightNs peerModule peerBoot selfConnected s
  | .packetForward inPort p => Sys2Proof.Machine.execPacketForward inPort p s
  | .creditStall port cls subch => Sys2Proof.Machine.execCreditStall port cls subch s
  | .timeProbe port => Sys2Proof.Machine.execTimeProbe port s
  | .timeReply port t1 t2 t3 t4 replayed => Sys2Proof.Machine.execTimeReply port t1 t2 t3 t4 replayed s
  | .ppsHoldover  => Sys2Proof.Machine.execPpsHoldover  s
  | .timePps stamp confirmed => Sys2Proof.Machine.execTimePps stamp confirmed s
  | .sliceExpiry part => Sys2Proof.Machine.execSliceExpiry part s
  | .cheapPoint part job template tileIndex => Sys2Proof.Machine.execCheapPoint part job template tileIndex s
  | .preemptAbort part job => Sys2Proof.Machine.execPreemptAbort part job s
  | .saveComplete part job => Sys2Proof.Machine.execSaveComplete part job s
  | .writeback part base length path => Sys2Proof.Machine.execWriteback part base length path s
  | .purge part base length path => Sys2Proof.Machine.execPurge part base length path s
  | .flushComplete part => Sys2Proof.Machine.execFlushComplete part s
  | .errorReport r => Sys2Proof.Machine.execErrorReport r s
  | .darkTraffic p => Sys2Proof.Machine.execDarkTraffic p s
  | .requalifyDone unit pass => Sys2Proof.Machine.execRequalifyDone unit pass s
  | .keeperHeartbeat region => Sys2Proof.Machine.execKeeperHeartbeat region s
  | .keeperTakeover region => Sys2Proof.Machine.execKeeperTakeover region s
  | .lockstepMismatch  => Sys2Proof.Machine.execLockstepMismatch  s
  | .preventiveRepair core addr => Sys2Proof.Machine.execPreventiveRepair core addr s
  | .repairRemapDone core addr => Sys2Proof.Machine.execRepairRemapDone core addr s
  | .dieToDieRetry edge module overThreshold => Sys2Proof.Machine.execDieToDieRetry edge module overThreshold s
  | .fogBuddyCopy part found => Sys2Proof.Machine.execFogBuddyCopy part found s
  | .powerControlTick inputW => Sys2Proof.Machine.execPowerControlTick inputW s
  | .clockStretchStep  => Sys2Proof.Machine.execClockStretchStep  s
  | .issueHoldStep  => Sys2Proof.Machine.execIssueHoldStep  s
  | .cclkChange  => Sys2Proof.Machine.execCclkChange  s
  | .thermalLimitStep readings => Sys2Proof.Machine.execThermalLimitStep readings s
  | .thermalAlert sensor reading => Sys2Proof.Machine.execThermalAlert sensor reading s
  | .thermalTrip sensor reading => Sys2Proof.Machine.execThermalTrip sensor reading s
  | .brakeApply  => Sys2Proof.Machine.execBrakeApply  s
  | .brakeRelease  => Sys2Proof.Machine.execBrakeRelease  s
  | .inputUndervoltage  => Sys2Proof.Machine.execInputUndervoltage  s
  | .inputBrownout  => Sys2Proof.Machine.execInputBrownout  s
  | .inputOvervoltage  => Sys2Proof.Machine.execInputOvervoltage  s
  | .auxLoss  => Sys2Proof.Machine.execAuxLoss  s
  | .modRstNAssert  => Sys2Proof.Machine.execModRstNAssert  s
  | .coldBoot straps slotAOk slotBOk => Sys2Proof.Machine.execColdBoot straps slotAOk slotBOk s
  | .bootReady f => Sys2Proof.Machine.execBootReady f s
  | .perstNAssert  => Sys2Proof.Machine.execPerstNAssert  s
  | .perstNRelease rate width flit => Sys2Proof.Machine.execPerstNRelease rate width flit s
  | .cagePresenceChange port present => Sys2Proof.Machine.execCagePresenceChange port present s
  | .pkgModuleId path v => Sys2Proof.Machine.execPkgModuleId path v s
  | .pkgLock path v => Sys2Proof.Machine.execPkgLock path v s
  | .pkgArbClear path v => Sys2Proof.Machine.execPkgArbClear path v s
  | .errPostedRecordClear path core v => Sys2Proof.Machine.execErrPostedRecordClear path core v s
  | .timeSource path v => Sys2Proof.Machine.execTimeSource path v s
  | .pwrCap path v => Sys2Proof.Machine.execPwrCap path v s
  | .pwrCclkMhz path v => Sys2Proof.Machine.execPwrCclkMhz path v s
  | .lpCtrl path port v => Sys2Proof.Machine.execLpCtrl path port v s
  | .lpBond path port v => Sys2Proof.Machine.execLpBond path port v s
  | .hostRingCtrl path fn ring v => Sys2Proof.Machine.execHostRingCtrl path fn ring v s
  | .partWayMask path part region v => Sys2Proof.Machine.execPartWayMask path part region v s
  | .queueClear path queue v => Sys2Proof.Machine.execQueueClear path queue v s
  | .syncDbgSelect path v => Sys2Proof.Machine.execSyncDbgSelect path v s
  | .registerWrite path offset width v => Sys2Proof.Machine.execRegisterWrite path offset width v s
  | .auxInRange  => Sys2Proof.Machine.execAuxInRange  s
  | .inputBackInRange  => Sys2Proof.Machine.execInputBackInRange  s
  | .regulatorPhaseLoss rail phase => Sys2Proof.Machine.execRegulatorPhaseLoss rail phase s
  | .lockAcquireTimeout who handle => Sys2Proof.Machine.execLockAcquireTimeout who handle s
  | .normNodeTimeout die node => Sys2Proof.Machine.execNormNodeTimeout die node s
  | .activationHealthDeadline healthy => Sys2Proof.Machine.execActivationHealthDeadline healthy s
  | .headKeeperRestartDone  => Sys2Proof.Machine.execHeadKeeperRestartDone  s
  | .keeperTakeoverDone region => Sys2Proof.Machine.execKeeperTakeoverDone region s
  | .restoreComplete part job => Sys2Proof.Machine.execRestoreComplete part job s
  | .slotTransmit port => Sys2Proof.Machine.execSlotTransmit port s
  | .proxyRevocation module queue endpoint => Sys2Proof.Machine.execProxyRevocation module queue endpoint s
  | .revocationAck queue endpoint => Sys2Proof.Machine.execRevocationAck queue endpoint s

end Sys2Proof.Machine
end

