-- ==== Sys2Proof/WellFormed.lean ====
section
/-! DEFINITION. When a command's operands name units the module has (R6, R9, R105, R170, R291, R296). A command that
names a unit by a handle or an address is checked by its meaning, as the spec says, and is well formed here. -/

namespace Sys2Proof

/-- Physical cores are 0 to 863 (R9). -/
def coreOk (p : Nat) : Bool := p < 864

/-- Regions are 0 to 7 (R6). -/
def regionOk (r : Nat) : Bool := r < 8

/-- Partitions are 0 to 15 (R343). -/
def partitionOk (n : Nat) : Bool := n < 16

/-- Lantern ports are 0 to 5 (R6). -/
def portOk (p : Nat) : Bool := p < 6

/-- Functions are 0 to 16, rings 0 to 3 (R291, R296). -/
def ringOk (fn ring : Nat) : Bool := fn ≤ 16 && ring < 4

/-- A brush instruction names a core, registers V0 to V31 and predicates P0 to P7 (R105). -/
def vopOk (o : VOp) : Bool :=
  coreOk o.core && decide (o.dst < 32) && decide (o.a < 32) && decide (o.b < 32) && decide (o.c < 32) &&
    (match o.pred with | some p => decide (p < 8) | none => true)

/-- Does a command name only units the module has? -/
def Instr.wf : Instr → Bool
  | .vadd o | .vsub o | .vmul o | .vfma o | .vmax o | .vmin o | .vabs o | .vneg o | .viadd o | .vimul o | .vand o
  | .vor o | .vxor o | .vshl o | .vshr o | .vclass o | .vexp2 o | .vlog2 o | .vrcp o | .vsqrt o | .vrsq o | .vtanh o
  | .vsigm o | .verf o | .vsin o | .vcos o | .vrsum o | .vrmax o | .vrmin o | .vrmaxexp o | .vshuf o => vopOk o
  | .vcmp o _ _ p => vopOk o && decide (p < 8)
  | .vsel o p => vopOk o && decide (p < 8)
  | .vcvt o _ _ _ _ _ => vopOk o
  | .vpackmx o _ _ _ _ _ => vopOk o
  | .vunpackmx o _ _ _ => vopOk o
  | .vrand o _ => vopOk o
  | .vsumx o x => vopOk o && decide (x < 4)
  | .vld o _ | .vst o _ | .vgath o _ | .vscat o _ => vopOk o
  | .vbcast o r => vopOk o && decide (r < 32)
  | .accrd o _ | .accwr o _ => vopOk o
  | .accrdx o _ _ => vopOk o
  | .xwin p x r => coreOk p && decide (x < 4) && decide (r < 32)
  | .xrnd p x r => coreOk p && decide (x < 4) && decide (r < 32)
  | .xclr p x => coreOk p && decide (x < 4)
  | .vrseed l => coreOk l.core && (match l.pred with | some k => decide (k < 8) | none => true)
  | .tile p d => coreOk p && decide (d.loopsA.length ≤ 5) && decide (d.loopsB.length ≤ 5)
  | .fence p => coreOk p
  | .scalarPipeInstruction p _ d a b _ => coreOk p && decide (d < 32) && decide (a < 32) && decide (b < 32)
  | .directStore p _ _ _ => coreOk p
  | .directLoad p d _ w => coreOk p && decide (d < 32) && decide (w ≤ 8)
  | .tileCompletion p => coreOk p
  | .computeFault p (.memory r _) => coreOk p && regionOk r
  | .computeFault p _ => coreOk p
  | .tileReissue p => coreOk p
  | .partialTileDelivery p => coreOk p
  | .combineCreditReturn p => coreOk p
  | .paletteScrub p _ _ => coreOk p
  | .fenceAnswer p _ => coreOk p
  | .fencedSignalTimeout p => coreOk p
  | .wake p => coreOk p
  | .errPostedRecordClear _ p _ => coreOk p
  | .fencedSignal (.unit _ _) p _ _ _ _ _ => coreOk p
  | .combineAccept r => regionOk r
  | .prefetchTrainingMiss r _ _ => regionOk r
  | .prefetchIssue r _ _ => regionOk r
  | .dmaPacketIssue r ch => regionOk r && decide (ch < 16)
  | .dmaPacketTimeout r ch _ => regionOk r && decide (ch < 16)
  | .ownerSweep r _ => regionOk r
  | .keeperHeartbeat r | .keeperTakeover r | .keeperTakeoverDone r => regionOk r
  | .hbmRefresh st _ => decide (st < 16)
  | .ecsRead st _ => decide (st < 16)
  | .hbmTemperatureRead st _ => decide (st < 16)
  | .commandFetch f r _ => ringOk f r
  | .commandStart f r _ => ringOk f r
  | .replyWrite f r => ringOk f r
  | .realignment f r => ringOk f r
  | .ringError f r _ => ringOk f r
  | .hostRingCtrl _ f r _ => ringOk f r
  | .functionLevelReset f => decide (f ≤ 16)
  | .slotReceive p _ => portOk p
  | .dataFrame p _ _ => portOk p
  | .msgFrame p _ _ _ => portOk p
  | .replayBufferFull p => portOk p
  | .marker p _ _ _ => portOk p
  | .activationOffload _ _ _ _ _ _ _ ch | .activationReturn _ _ _ _ _ _ ch => decide (ch < 16) || ch == 255
  | .laneMapChange p _ _ _ _ => portOk p
  | .p0Message p _ _ => portOk p
  | .portDown p _ => portOk p
  | .portTraining p _ _ _ _ _ _ => portOk p
  | .creditStall p _ _ => portOk p
  | .timeProbe p => portOk p
  | .timeReply p _ _ _ _ _ => portOk p
  | .cagePresenceChange p _ => portOk p
  | .lpCtrl _ p _ => portOk p
  | .lpBond _ p _ => portOk p
  | .slotTransmit p => portOk p
  | .streamOpen p _ _ => portOk p
  | .writeback n _ _ _ | .purge n _ _ _ => partitionOk n
  | .partWayMask _ n r _ => partitionOk n && regionOk r
  | _ => true

end Sys2Proof
end

