-- ==== Sys2Proof/Safety.lean ====
section
/-! DEFINITION. What counts as a safe state of the block and what a command may change, in the terms the statements use. -/

namespace Sys2Proof.Machine

/-- The memories' canonical form: what every step keeps. -/
def State.memOk (s : State) : Prop := s.mem.wf = true

/-- Every command waiting in the queue names only units the module has. -/
def State.pendingOk (s : State) : Prop := s.pending.all Instr.wf = true

/-- The packet whose arrival a command is. -/
def arrivalOf : Instr → Option Pkt
  | .write ⟨p, _⟩ | .readReq p | .readData p _ | .ack p | .refusal p | .signalApply p _ _ | .queueOp p _ _ _ | .lockOp p _ _
  | .fenceProbe p _ | .relay _ p | .rangeCheck p _ | .queueCreditReturn p _ => some p
  | _ => none

/-- Two packets between which the fabric keeps the order: one class, source unit, destination and plane (R27). -/
def sameLane (p q : Pkt) : Bool :=
  p.cls == q.cls && p.src == q.src && p.srcUnit == q.srcUnit && p.dst == q.dst && p.plane == q.plane

/-- The arrivals that wait come in issue order (R27): of the module's own packets to itself, those of one class, source and plane
wait in the order in which they were sent. The fabric's delivery is the environment's, and a queue that breaks this is none of the
hardware's (log entry 136). -/
def State.arrivalsInOrder (s : State) : Prop :=
  ∀ p, p.src = ownModule s → p.dst = ownModule s →
    ((s.pending.filterMap arrivalOf).filter (sameLane p)).Sublist (s.out.packets.filter (sameLane p))

/-- Only the brush unit of one core changed (and free values may have been drawn): every other core, and everything else of
this one, is as it was. -/
def brushOnly (p : Nat) (s t : State) : Prop :=
  t = { s with cores := t.cores, free := t.free } ∧ (∀ q, q ≠ p → coreOf t q = coreOf s q) ∧
    coreOf t p = { coreOf s p with brush := (coreOf t p).brush }

/-- Only one vector register of a core's brush unit changed (R105). -/
def vregOnly (p dst : Nat) (s t : State) : Prop :=
  brushOnly p s t ∧ (coreOf t p).brush = { (coreOf s p).brush with v := (coreOf t p).brush.v } ∧
    ∀ r, r ≠ dst → tget r (coreOf t p).brush.v = tget r (coreOf s p).brush.v

/-- Only one scalar register of a core's brush unit changed (R105), the position apart. -/
def sregOnly (p dst : Nat) (s t : State) : Prop :=
  brushOnly p s t ∧
    (coreOf t p).brush = { (coreOf s p).brush with sr := (coreOf t p).brush.sr, position := (coreOf t p).brush.position } ∧
    ∀ r, r ≠ dst → tget r (coreOf t p).brush.sr = tget r (coreOf s p).brush.sr

/-- The command completed: it left its ring's started list, its reply with this status, detail and words is the last one held, and
every other ring is as it was (R298, R299, R307). -/
def replied (c : Cmd) (a : Answer) (s t : State) : Prop :=
  ringOf t c.fn c.ring =
    { ringOf s c.fn c.ring with
      started := (ringOf s c.fn c.ring).started.erase c
      replies := (ringOf s c.fn c.ring).replies ++ [{ cmd := c, answer := a, time := s.time.now }] } ∧
  ∀ k, k ≠ ringKey c.fn c.ring → tget k t.rings = tget k s.rings

end Sys2Proof.Machine
end

