-- ==== Sys2Proof/Certificates/Slice0/Obligations.lean ====
section
/-! DEFINITION. The statements: what the commands of the block do, by the rules of the specification. -/

open Sys2Proof Sys2Proof.Machine

/-- The block's step: a command at the front of the queue runs on the state with the queue's rest, and is taken from it; with none waiting,
beacon time advances one nanosecond and nothing else changes (log entry 1). The table gives no command bits, so no word spells one. -/
def Obligations.StepRunsFront : Prop :=
  (∀ (c : Instr) (rest : List Instr) (s : State), step { s with pending := c :: rest } = exec c { s with pending := rest }) ∧
  (∀ s : State, s.pending = [] → step s = .next { s with time := { s.time with now := s.time.now + 1 } }) ∧
  ∀ (nbits w : Nat) (s : State), decodeTableWord nbits w = none ∧ s.withFetchWord nbits w = s

/-- R18, R430: at reset every memory lists nothing but what differs from zero, at strictly rising addresses: nothing at all. -/
def Obligations.MemoryCanonicalAtReset : Prop := State.reset.memOk ∧ State.reset.mem = {} ∧ State.reset.pending = []

/-- The invariant of memory: from every state whose memories are in canonical form, whatever waits in the queue, a step that answers a
next state leaves them in it. -/
def Obligations.MemoryCanonicalKept : Prop := ∀ s t : State, s.memOk → step s = .next t → t.memOk

/-- R5, R391: no command touches the queue of waiting commands, and none changes the fuses. -/
def Obligations.QueueAndFusesKept : Prop :=
  ∀ (i : Instr) (s t : State), exec i s = .next t → t.pending = s.pending ∧ t.fuse = s.fuse

/-- Every command that names only units the module has answers a next state, in every state: no command stops the block. -/
def Obligations.EveryCommandGoesOn : Prop :=
  ∀ (i : Instr) (s : State), i.wf = true → ∃ t, exec i s = .next t

set_option maxHeartbeats 4000000

/-- R105, R106, R111: an arithmetic, logic, select, class, special-function or move instruction of the brush unit writes its
function of each active lane into that lane of DST, keeps the inactive lanes, and changes nothing else. -/
def Obligations.BrushLanes : Prop :=
  ∀ (o : VOp) (psel r : Nat) (s : State), coreOk o.core = true →
    ∀ (i : Instr) (f : Brush → Nat → Lane),
      (i, f) ∈ ([
        (.vadd o, fun b k => arith2 o.bf16 addV (vlane b o.a k) (vlane b o.b k)),
        (.vsub o, fun b k => arith2 o.bf16 (fun x y => addV x (negV y)) (vlane b o.a k) (vlane b o.b k)),
        (.vmul o, fun b k => arith2 o.bf16 mulV (vlane b o.a k) (vlane b o.b k)),
        (.vfma o, fun b k => arith3 o.bf16 (vlane b o.a k) (vlane b o.b k) (vlane b o.c k)),
        (.vmax o, fun b k => arith2 o.bf16 maxV (vlane b o.a k) (vlane b o.b k)),
        (.vmin o, fun b k => arith2 o.bf16 minV (vlane b o.a k) (vlane b o.b k)),
        (.vabs o, fun b k => arith1 o.bf16 absV (vlane b o.a k)),
        (.vneg o, fun b k => arith1 o.bf16 negV (vlane b o.a k)),
        (.viadd o, fun b k => vlane b o.a k + vlane b o.b k),
        (.vimul o, fun b k => vlane b o.a k * vlane b o.b k),
        (.vand o, fun b k => vlane b o.a k &&& vlane b o.b k),
        (.vor o, fun b k => vlane b o.a k ||| vlane b o.b k),
        (.vxor o, fun b k => vlane b o.a k ^^^ vlane b o.b k),
        (.vsel o psel, fun b k => if (tgetD psel 0 b.p).getLsbD k then vlane b o.a k else vlane b o.b k),
        (.vclass o, fun b k => classOf (vlane b o.a k)),
        (.vexp2 o, fun b k => exp2Lane (vlane b o.a k)),
        (.vlog2 o, fun b k => log2Lane (vlane b o.a k)),
        (.vrcp o, fun b k => rcpLane (vlane b o.a k)),
        (.vsqrt o, fun b k => sqrt32 (val32 (vlane b o.a k))),
        (.vrsq o, fun b k => rsqLane (vlane b o.a k)),
        (.vtanh o, fun b k => tanhLane (vlane b o.a k)),
        (.vsigm o, fun b k => sigmLane (vlane b o.a k)),
        (.verf o, fun b k => erfLane (vlane b o.a k)),
        (.vsin o, fun b k => sinLane (vlane b o.a k)),
        (.vcos o, fun b k => cosLane (vlane b o.a k)),
        (.vbcast o r, fun b _ => (sreg b r).truncate 32),
        (.vshuf o, fun b k => vlane b o.a ((vlane b o.b k).toNat % 256))] : List (Instr × (Brush → Nat → Lane))) →
      ∃ t, exec i s = .next t ∧ vregOnly o.core o.dst s t ∧ t.free = s.free ∧
        ∀ k, k < 256 → vlane (coreOf t o.core).brush o.dst k =
          if laneOn (coreOf s o.core).brush o.pred k then f (coreOf s o.core).brush k else vlane (coreOf s o.core).brush o.dst k

/-- R111: a shift moves each active lane by the count in its lane of B: left, or right keeping the sign (log entry 33: the shift
right is arithmetic); a count of 32 or more, for which the spec states no result, gives the lane some value and changes nothing
else.

R111: VCMP writes the active lanes' bits of its predicate register by the condition, on FP32 values or on 32-bit two's
complement numbers, keeps the inactive lanes' bits, and changes nothing else. -/
def Obligations.BrushShiftsAndCompares : Prop :=
  (∀ (o : VOp) (s : State), coreOk o.core = true →
    ∀ (i : Instr) (f : Lane → Nat → Lane),
      (i, f) ∈ ([(.vshl o, fun x n => x <<< n), (.vshr o, fun x n => x.sshiftRight n)] : List (Instr × (Lane → Nat → Lane))) →
      ∃ t, exec i s = .next t ∧ vregOnly o.core o.dst s t ∧
        ∀ k, k < 256 →
          (laneOn (coreOf s o.core).brush o.pred k = false →
            vlane (coreOf t o.core).brush o.dst k = vlane (coreOf s o.core).brush o.dst k) ∧
          (laneOn (coreOf s o.core).brush o.pred k = true → (vlane (coreOf s o.core).brush o.b k).toNat < 32 →
            vlane (coreOf t o.core).brush o.dst k =
              f (vlane (coreOf s o.core).brush o.a k) (vlane (coreOf s o.core).brush o.b k).toNat)) ∧
  (∀ (o : VOp) (cond : CmpCond) (int : Bool) (pdst : Nat) (s : State), coreOk o.core = true →
    ∃ t, exec (.vcmp o cond int pdst) s = .next t ∧ brushOnly o.core s t ∧
      (coreOf t o.core).brush = { (coreOf s o.core).brush with p := (coreOf t o.core).brush.p } ∧
      (∀ r, r ≠ pdst → tget r (coreOf t o.core).brush.p = tget r (coreOf s o.core).brush.p) ∧
      ∀ k, k < 256 → (tgetD pdst 0 (coreOf t o.core).brush.p).getLsbD k =
        if laneOn (coreOf s o.core).brush o.pred k then
          (if int then condI cond (vlane (coreOf s o.core).brush o.a k) (vlane (coreOf s o.core).brush o.b k)
           else condV cond (val32 (vlane (coreOf s o.core).brush o.a k)) (val32 (vlane (coreOf s o.core).brush o.b k)))
        else (tgetD pdst 0 (coreOf s o.core).brush.p).getLsbD k)

/-- R112: a lane reduction combines the 256 lanes by one fixed tree, an inactive lane entering as the neutral value, and writes one
scalar register alone (the model's choice of a scalar register: log entry 31). -/
def Obligations.BrushReductions : Prop :=
  ∀ (o : VOp) (s : State), coreOk o.core = true →
    ∀ (i : Instr) (f : Brush → Nat),
      (i, f) ∈ ([(.vrsum o, fun b => (sumTree (reduceLanes b o 0)).toNat),
        (.vrmax o, fun b => (maxTree (reduceLanes b o negInf32)).toNat),
        (.vrmin o, fun b => (minTree (reduceLanes b o posInf32)).toNat),
        (.vrmaxexp o, fun b => (BitVec.ofInt 64 (maxExp b o)).toNat)] : List (Instr × (Brush → Nat))) →
      ∃ t, exec i s = .next t ∧ sregOnly o.core o.dst s t ∧
        sreg (coreOf t o.core).brush o.dst = BitVec.ofNat 64 (f (coreOf s o.core).brush)

/-- R55, R71 to R73, R107: VCVT between two formats writes each active lane's source value in the destination format, by SAT and the
rounding mode (to E8M0, for which the spec gives no conversion, as log entry 105 says); FREE stochastic rounding advances the
generators of the active lanes; NaN and Inf source values of active lanes are counted; nothing else changes.

R46, R47, R56, R111: VUNPACKMX of an MX format reads 256 packed elements and their eight block scales from the core's palette,
where both lie in it and no unit of them is poisoned, and writes each active lane the element's scaled value as FP32; nothing else
changes.

R56, R111: VPACKMX of an MX format writes, into ranges of the core's palette that lie in it, apart and in no offline span, the
256 packed elements (an active lane's rounded under its block's shared scale, an inactive lane's element kept) and one scale byte
for each block with an active lane; every other byte of memory and everything but the brush unit's generators is unchanged. -/
def Obligations.BrushConversions : Prop :=
  (∀ (o : VOp) (source format : Nat) (sat sr : Bool) (counter : Option (BitVec 64 × BitVec 32)) (s : State),
    coreOk o.core = true → source ≤ 12 → format ≤ 12 →
    let b := (coreOf s o.core).brush
    ∃ t, exec (.vcvt o source format sat sr counter) s = .next t ∧ brushOnly o.core s t ∧
      (coreOf t o.core).brush = { b with
        v := (coreOf t o.core).brush.v
        rng := (coreOf t o.core).brush.rng
        nanCount := min 0xFFFFFFFF (b.nanCount + countLanes fun k => laneOn b o.pred k && sourceVal source (vlane b o.a k) == .nan)
        infCount := min 0xFFFFFFFF (b.infCount + countLanes fun k =>
          laneOn b o.pred k && (sourceVal source (vlane b o.a k) == .inf true || sourceVal source (vlane b o.a k) == .inf false)) } ∧
      (∀ r, r ≠ o.dst → tget r (coreOf t o.core).brush.v = tget r b.v) ∧
      (∀ k, k < 256 → vlane (coreOf t o.core).brush o.dst k =
        if laneOn b o.pred k then BitVec.ofNat 32 (destBits format sat (laneMode s o b sr counter k) (sourceVal source (vlane b o.a k)))
        else vlane b o.dst k) ∧
      ∀ k, k < 256 → tget k (coreOf t o.core).brush.rng =
        if sr && counter.isNone && laneOn b o.pred k then some (xorshift (laneState s o.core b k)) else tget k b.rng) ∧
  (∀ (o : VOp) (format src scaleSrc : Nat) (s : State), coreOk o.core = true → isMx format = true →
    src + 32 * elemBits format ≤ paletteBytes → scaleSrc + 8 ≤ paletteBytes →
    readsPoison s .palette (o.core * 0x200000 + src) (32 * elemBits format) = false →
    readsPoison s .palette (o.core * 0x200000 + scaleSrc) 8 = false →
    ∃ t, exec (.vunpackmx o format src scaleSrc) s = .next t ∧ vregOnly o.core o.dst s t ∧
      ∀ k, k < 256 → vlane (coreOf t o.core).brush o.dst k =
        if laneOn (coreOf s o.core).brush o.pred k then
          round32 (scaleElem (mread (o.core * 0x200000 + scaleSrc + k / 32) s.mem.palette).toNat
            (decodeElem format (packedAt (elemBits format)
              (leNat (mreadN (o.core * 0x200000 + src) (32 * elemBits format) s.mem.palette)) k)))
        else vlane (coreOf s o.core).brush o.dst k) ∧
  (∀ (o : VOp) (format dest scaleDest : Nat) (sr : Bool) (counter : Option (BitVec 64 × BitVec 32)) (s : State),
    coreOk o.core = true → isMx format = true →
    dest + 32 * elemBits format ≤ paletteBytes → scaleDest + 8 ≤ paletteBytes →
    (dest + 32 * elemBits format ≤ scaleDest ∨ scaleDest + 8 ≤ dest) → (∀ a, isOffline s .palette a = false) →
    let b := (coreOf s o.core).brush
    let base := o.core * 0x200000
    let bits := elemBits format
    let lanes := fun k => ((List.range 32).map (· + 32 * k)).filter (laneOn b o.pred)
    let scale := fun k => mxScale format ((lanes k).map fun i => val32 (vlane b o.a i))
    ∃ t, exec (.vpackmx o format sr counter dest scaleDest) s = .next t ∧
      t = { s with cores := t.cores, mem := t.mem } ∧ (∀ q, q ≠ o.core → coreOf t q = coreOf s q) ∧
      coreOf t o.core = { coreOf s o.core with brush := { b with rng := (coreOf t o.core).brush.rng } } ∧
      t.mem.hbm = s.mem.hbm ∧ t.mem.acc = s.mem.acc ∧ t.mem.host = s.mem.host ∧ t.mem.poisonHbm = s.mem.poisonHbm ∧
      (∀ x, (x < base + dest ∨ base + dest + 32 * bits ≤ x) → (x < base + scaleDest ∨ base + scaleDest + 8 ≤ x) →
        mread x t.mem.palette = mread x s.mem.palette) ∧
      (∀ k, k < 8 → mread (base + scaleDest + k) t.mem.palette =
        if (lanes k).isEmpty then mread (base + scaleDest + k) s.mem.palette else BitVec.ofNat 8 (scale k)) ∧
      ∀ k, k < 256 → packedAt bits (leNat (mreadN (base + dest) (32 * bits) t.mem.palette)) k =
        if laneOn b o.pred k then mxElem format (scale (k / 32)) (laneMode s o b sr counter k) (val32 (vlane b o.a k)) % 2 ^ bits
        else packedAt bits (leNat (mreadN (base + dest) (32 * bits) s.mem.palette)) k)

/-- R111: VLD reads 256 consecutive words of the core's palette, VGATH the word at BASE plus each lane's offset in A, ACCRD 256
consecutive words of its accumulator memory, into the active lanes of DST; where each active lane's word lies in that memory and
no palette word read is poisoned. Nothing else changes.

R54, R58, R65, R107, R111: ACCRDX rounds 256 true-colour elements of the core's accumulator memory once each, an element's window
base being WINDOW_BASE plus its lane of A (log entry 116), into the active lanes of DST, where each active lane's element lies in the
memory: to FP32, and nothing else changes; or directly into an output format, the elements whose FP32 rounding is NaN or Inf being
counted, and nothing but the lane generators changes beside. -/
def Obligations.BrushLoads : Prop :=
  (∀ (o : VOp) (addr : Nat) (s : State), coreOk o.core = true →
    let b := (coreOf s o.core).brush
    let base := o.core * 0x200000
    (∀ (i : Instr) (f : Nat → Nat),
      (i, f) ∈ ([(.vld o addr, fun k => addr + 4 * k), (.vgath o addr, fun k => addr + (vlane b o.a k).toNat)] : List (Instr × (Nat → Nat))) →
      (∀ k, k < 256 → laneOn b o.pred k = true → f k + 4 ≤ paletteBytes ∧ readsPoison s .palette (base + f k) 4 = false) →
      ∃ t, exec i s = .next t ∧ vregOnly o.core o.dst s t ∧
        ∀ k, k < 256 → vlane (coreOf t o.core).brush o.dst k =
          if laneOn b o.pred k then BitVec.ofNat 32 (leNat (mreadN (base + f k) 4 s.mem.palette)) else vlane b o.dst k) ∧
    ((∀ k, k < 256 → laneOn b o.pred k = true → addr + 4 * k + 4 ≤ accBytes) →
      ∃ t, exec (.accrd o addr) s = .next t ∧ vregOnly o.core o.dst s t ∧
        ∀ k, k < 256 → vlane (coreOf t o.core).brush o.dst k =
          if laneOn b o.pred k then BitVec.ofNat 32 (leNat (mreadN (o.core * 0x20000 + (addr + 4 * k)) 4 s.mem.acc))
          else vlane b o.dst k)) ∧
  (∀ (o : VOp) (offset : Nat) (windowBase : Int) (s : State), coreOk o.core = true →
    (∀ k, k < 256 → laneOn (coreOf s o.core).brush o.pred k = true → offset + 16 * k + 16 ≤ accBytes) →
    let b := (coreOf s o.core).brush
    let v := fun k => exactVal (accElem s o.core (offset + 16 * k)) (windowBase + (vlane b o.a k).toInt)
    (∃ t, exec (.accrdx o offset ⟨windowBase, none⟩) s = .next t ∧ vregOnly o.core o.dst s t ∧
      ∀ k, k < 256 → vlane (coreOf t o.core).brush o.dst k = if laneOn b o.pred k then round32 (v k) else vlane b o.dst k) ∧
    ∀ f : OutForm, f.format ≤ 12 →
      ∃ t, exec (.accrdx o offset ⟨windowBase, some f⟩) s = .next t ∧ brushOnly o.core s t ∧
        (coreOf t o.core).brush = { b with
          v := (coreOf t o.core).brush.v
          rng := (coreOf t o.core).brush.rng
          nanCount := min 0xFFFFFFFF (b.nanCount + countLanes fun k => laneOn b o.pred k && isNan32 (round32 (v k)))
          infCount := min 0xFFFFFFFF (b.infCount + countLanes fun k => laneOn b o.pred k && isInf32 (round32 (v k))) } ∧
        (∀ r, r ≠ o.dst → tget r (coreOf t o.core).brush.v = tget r b.v) ∧
        ∀ k, k < 256 → vlane (coreOf t o.core).brush o.dst k =
          if laneOn b o.pred k then BitVec.ofNat 32 (destBits f.format f.sat (laneMode s o b f.sr f.counter k) (v k))
          else vlane b o.dst k)

/-- R111, R430: VST stores the active lanes of A to consecutive words of the core's palette, VSCAT to BASE plus each lane's offset in
B, the highest lane staying where lanes share an address; ACCWR stores to consecutive words of its accumulator memory. A word
outside the memory or, in the palette, in an offline span is not stored. Every byte no active lane stores to is unchanged, and
nothing but memory changes. -/
def Obligations.BrushStores : Prop :=
  ∀ (o : VOp) (addr : Nat) (s : State), coreOk o.core = true →
    let b := (coreOf s o.core).brush
    ∀ (i : Instr) (sp : Space) (base size : Nat) (f : Nat → Nat),
      (i, sp, base, size, f) ∈ ([
        (.vst o addr, .palette, o.core * 0x200000, paletteBytes, fun k => addr + 4 * k),
        (.vscat o addr, .palette, o.core * 0x200000, paletteBytes, fun k => addr + (vlane b o.b k).toNat),
        (.accwr o addr, .acc, o.core * 0x20000, accBytes, fun k => addr + 4 * k)] : List (Instr × Space × Nat × Nat × (Nat → Nat))) →
      ∃ t, exec i s = .next t ∧ t = { s with mem := t.mem } ∧ (∀ sq, sq ≠ sp → cellsOf sq t.mem = cellsOf sq s.mem) ∧
        t.mem.poisonHbm = s.mem.poisonHbm ∧
        (∀ x, (∀ k, k < 256 → laneOn b o.pred k = true → f k + 4 ≤ size → x < base + f k ∨ base + f k + 4 ≤ x) →
          mread x (cellsOf sp t.mem) = mread x (cellsOf sp s.mem)) ∧
        ∀ k, k < 256 → laneOn b o.pred k = true → f k + 4 ≤ size →
          (∀ j, j < 4 → isOffline s sp (base + f k + j) = false) →
          (∀ l, k < l → l < 256 → laneOn b o.pred l = true → f l + 4 ≤ size → f l + 4 ≤ f k ∨ f k + 4 ≤ f l) →
          BitVec.ofNat 32 (leNat (mreadN (base + f k) 4 (cellsOf sp t.mem))) = vlane b o.a k

/-- R71, R72: VRAND draws into the active lanes of DST, in COUNTER mode draw N of the program's counters with no state changed, in
FREE mode the lane generator's next value, the generators of the active lanes advancing; VRSEED gives each active lane of a core a new
state, never zero. Nothing else changes. -/
def Obligations.BrushRandom : Prop :=
  ∀ (o : VOp) (k0 : BitVec 64) (k1 : BitVec 32) (n : Nat) (s : State), coreOk o.core = true →
    let b := (coreOf s o.core).brush
    (∃ t, exec (.vrand o (some (k0, k1, n))) s = .next t ∧ vregOnly o.core o.dst s t ∧
      ∀ k, k < 256 → vlane (coreOf t o.core).brush o.dst k =
        if laneOn b o.pred k then counterDraw k0 (vlane b o.a k) (vlane b o.b k) k1 n else vlane b o.dst k) ∧
    (∃ t, exec (.vrand o none) s = .next t ∧ brushOnly o.core s t ∧
      (coreOf t o.core).brush = { b with v := (coreOf t o.core).brush.v, rng := (coreOf t o.core).brush.rng } ∧
      (∀ r, r ≠ o.dst → tget r (coreOf t o.core).brush.v = tget r b.v) ∧
      (∀ k, k < 256 → vlane (coreOf t o.core).brush o.dst k =
        if laneOn b o.pred k then (xorshift (laneState s o.core b k) >>> 32).truncate 32 else vlane b o.dst k) ∧
      ∀ k, k < 256 → tget k (coreOf t o.core).brush.rng =
        if laneOn b o.pred k then some (xorshift (laneState s o.core b k)) else tget k b.rng) ∧
    ∃ t, exec (.vrseed ⟨o.core, o.pred⟩) s = .next t ∧ brushOnly o.core s t ∧
      (coreOf t o.core).brush = { b with rng := (coreOf t o.core).brush.rng } ∧
      ∀ k, if laneOn b o.pred k = true ∧ k < 256 then ∃ x, tget k (coreOf t o.core).brush.rng = some x ∧ x ≠ 0
        else tget k (coreOf t o.core).brush.rng = tget k b.rng

/-- R59 to R65, R110: XWIN sets an exact accumulator's window base to t − 111 and its count to 0; XCLR clears W and the three flags;
XRND rounds it once to FP32 into a scalar register; VSUMX adds the active lanes, counting them, while the count stays at or below
65,536. Nothing else changes.

R110: a VSUMX that would take its accumulator past 65,536 additions is not executed: no accumulator changes, and the program's
BRUSH_RUN ends with ST_EXACT_RANGE. -/
def Obligations.BrushExactSums : Prop :=
  (∀ (o : VOp) (xa r : Nat) (s : State), coreOk o.core = true →
    let b := (coreOf s o.core).brush
    let x := tgetD xa {} b.xa
    let act := (List.range 256).filter (laneOn b o.pred)
    (∀ (i : Instr) (y : XAcc),
      (i, y) ∈ ([(.xwin o.core xa r, { x with base := (sreg b r).toInt - 111, count := 0 }),
        (.xclr o.core xa, { x with w := 0, nan := false, posInf := false, negInf := false })] : List (Instr × XAcc)) ∨
      (x.count + act.length ≤ 65536 ∧ i = .vsumx o xa ∧
        y = { act.foldl (fun z k => addLane z (vlane b o.a k)) x with count := x.count + act.length }) →
      ∃ t, exec i s = .next t ∧ brushOnly o.core s t ∧
        (coreOf t o.core).brush = { b with xa := (coreOf t o.core).brush.xa } ∧
        (∀ q, q ≠ xa → tget q (coreOf t o.core).brush.xa = tget q b.xa) ∧ tget xa (coreOf t o.core).brush.xa = some y) ∧
    ∃ t, exec (.xrnd o.core xa r) s = .next t ∧ sregOnly o.core r s t ∧
      sreg (coreOf t o.core).brush r = (round32 (exactVal x x.base)).setWidth 64) ∧
  (∀ (o : VOp) (xa j : Nat) (m : MatJob) (s : State), coreOk o.core = true →
    65536 < (tgetD xa {} (coreOf s o.core).brush.xa).count +
      ((List.range 256).filter (laneOn (coreOf s o.core).brush o.pred)).length →
    brushJobOf s o.core = some j → tget j s.jobs = some m →
    ∃ t, exec (.vsumx o xa) s = .next t ∧ (coreOf t o.core).brush.xa = (coreOf s o.core).brush.xa ∧
      tget j t.jobs = none ∧ replied m.cmd { status := .exactRange } s t ∧ t.mem = s.mem)

/-- R109: an instruction of the scalar pipe that computes a value writes its scalar register and passes to the next instruction; a
branch moves the program's position, and a counted loop lowers its count and goes round while it is not zero. A shift by 64 or
more, for which the spec states no result, writes some value. Nothing else changes. A TILE that waits for the canvases blocks the
pipe: no instruction does anything until it has been taken. -/
def Obligations.ScalarPipe : Prop :=
  (∀ (core dst a c : Nat) (op : ScalarOp) (k : BitVec 64) (s : State), coreOk core = true → (coreOf s core).tileWait.isSome = true →
    exec (.scalarPipeInstruction core op dst a c k) s = .next s) ∧
  ∀ (core dst a c : Nat) (k : BitVec 64) (s : State), coreOk core = true → (coreOf s core).tileWait = none →
    let b := (coreOf s core).brush
    let x := sreg b a
    let y := sreg b c
    let u := sval b a
    let v := sval b c
    (∀ (op : ScalarOp) (w : Word),
      (op, w) ∈ ([(.add, x + y), (.sub, x - y), (.mul, x * y), (.and, x &&& y), (.or, x ||| y), (.xor, x ^^^ y),
        (.slt, if x.slt y then 1 else 0), (.sltu, if x < y then 1 else 0), (.seq, if x = y then 1 else 0),
        (.fadd, (round32 (addV u v)).setWidth 64), (.fsub, (round32 (addV u (negV v))).setWidth 64),
        (.fmul, (round32 (mulV u v)).setWidth 64), (.ffma, (round32 (addV (mulV u v) (sval b dst))).setWidth 64),
        (.fmax, (round32 (maxV u v)).setWidth 64), (.fmin, (round32 (minV u v)).setWidth 64),
        (.flt, if ltV u v then 1 else 0), (.feq, if eqV u v then 1 else 0),
        (.readArmed, if (coreOf s core).posted.armed then 1 else 0), (.imm, k)] : List (ScalarOp × Word)) ∨
      (y.toNat < 64 ∧ (op, w) ∈ ([(.shl, x <<< y.toNat), (.shr, x >>> y.toNat), (.sar, x.sshiftRight y.toNat)] : List (ScalarOp × Word))) →
      ∃ t, exec (.scalarPipeInstruction core op dst a c k) s = .next t ∧ sregOnly core dst s t ∧
        sreg (coreOf t core).brush dst = w ∧ (coreOf t core).brush.position = b.position + 1) ∧
    (∀ op, op ∈ [ScalarOp.shl, .shr, .sar] →
      ∃ t, exec (.scalarPipeInstruction core op dst a c k) s = .next t ∧ sregOnly core dst s t ∧
        (coreOf t core).brush.position = b.position + 1) ∧
    (∀ op, op ∈ [ScalarOp.branch, .branchNz] →
      ∃ t, exec (.scalarPipeInstruction core op dst a c k) s = .next t ∧ brushOnly core s t ∧
        (coreOf t core).brush = { b with position := b.position + if op = .branch ∨ x ≠ 0 then k.toInt else 1 }) ∧
    ∃ t, exec (.scalarPipeInstruction core .loop dst a c k) s = .next t ∧ sregOnly core a s t ∧
      sreg (coreOf t core).brush a = x - 1 ∧ (coreOf t core).brush.position = b.position + if x = 1 then 1 else k.toInt

/-- R343, R357, R360, R361: a PART_CONFIG that changes a partition's mask or enable and meets no refusal sets both, forgets the
selections, advances the placement epoch by one and replies ST_OK; every other partition, HBM, host memory, the objects, the plans
and the serving tables are unchanged. One that changes neither advances the epoch alone.

R344, R345, R362: a QUOTA_SET within every pool, placed and covering what the partition uses gives the partition exactly its
quotas and replies ST_OK; every other partition and every byte of memory are unchanged (where an allocation lies is log entry 60; what
leaves the region caches can take the poison of a prefetch with it, log entry 124).

R344: a QUOTA_SET that no pool can meet is refused with ST_QUOTA and changes nothing but its reply. -/
def Obligations.PartitionsAndQuotas : Prop :=
  (∀ (c : Cmd) (n : Nat) (enable : Bool) (mask : BitVec 96) (s : State), n < 16 →
    ((((partOf s n).enabled, (partOf s n).mask) = (enable, mask) ∧ maskTaken s n mask = false) ∨ configCheck s c n mask = none) →
    ∃ t, exec (.partConfig c n enable mask) s = .next t ∧ replied c { status := .ok } s t ∧
      (partOf t n).enabled = enable ∧ (partOf t n).mask = mask ∧ (partOf t n).epoch = (partOf s n).epoch + 1 ∧
      (partOf t n).quota = (partOf s n).quota ∧
      (((partOf s n).enabled, (partOf s n).mask) ≠ (enable, mask) → (partOf t n).selection = []) ∧
      (∀ k, k ≠ n → partOf t k = partOf s k) ∧ t.mem.hbm = s.mem.hbm ∧ t.mem.host = s.mem.host ∧ t.objects = s.objects ∧
      t.plans = s.plans ∧ t.serving = s.serving ∧ t.units = s.units ∧ t.pkg = s.pkg ∧ t.log = s.log) ∧
  (∀ (c : Cmd) (n base : Nat) (q : Quota) (s : State), n < 16 → poolsHold s n q = true →
    hbmPlace s n (q.hbmMib * 0x100000) = some base → coversUse s n base q = true →
    ∃ t, exec (.quotaSet c n q.hbmMib q.syncObjects q.queues q.queueSlots q.sequences q.clients q.kvPoolMib) s = .next t ∧
      replied c { status := .ok } s t ∧ partOf t n = { partOf s n with quota := q, hbmBase := base } ∧
      (∀ k, k ≠ n → partOf t k = partOf s k) ∧
      t = { s with parts := t.parts, regions := t.regions, rings := t.rings, mem := { s.mem with poisonHbm := t.mem.poisonHbm } }) ∧
  (∀ (c : Cmd) (n : Nat) (q : Quota) (s : State), n < 16 →
    (poolsHold s n q = false ∨ ∀ base, hbmPlace s n (q.hbmMib * 0x100000) = some base → coversUse s n base q = false) →
    ∃ t, exec (.quotaSet c n q.hbmMib q.syncObjects q.queues q.queueSlots q.sequences q.clients q.kvPoolMib) s = .next t ∧
      replied c { status := .quota } s t ∧ t = { s with rings := t.rings })

/-- R138 to R140: a LOAD_PLAN whose image lies in the partition, is not poisoned, fits and passes the checks gets the next
identifier, in its reply and in the plan table, with the header's fields; one the loader refuses is answered ST_PLAN_REJECTED with the
check's code and section, and nothing else changes; UNLOAD_PLAN of a plan of its own partition that no
command runs removes it and no other. Every other plan stays, and of memory only the bytes of the copy change.

R164, R200: TASK_BEGIN of a task of a loaded plan of its partition keeps a snapshot of the objects its table lists and of the
partition's local flags; TASK_END of a task whose objects and flags are as they were found answers ST_OK, forgets the snapshot and
clears the posted-error records of the partition's cores. -/
def Obligations.PlansAndTasks : Prop :=
  (∀ (c : Cmd) (addr size place : Nat) (body : PlanBody) (r : Space × Nat) (id : Nat) (p : Plan) (s : State),
    (localRange s c.part addr size = some r → size ≤ placeRoom s c.part → placeFor s c.part size = some place →
      readsPoison s r.1 r.2 size = false →
      loaderCheck s c.part (readGlobal s addr size) size body = none → planCheck s c.part (readGlobal s addr size) size body = none →
      ∃ t q, exec (.loadPlan c addr size body) s = .next t ∧
        replied c { status := .ok, words := [BitVec.ofNat 32 s.nextPlan] } s t ∧ t.nextPlan = s.nextPlan + 1 ∧
        tget s.nextPlan t.plans = some q ∧ q.part = c.part ∧ q.addr = place ∧ q.size = size ∧ q.body = body ∧
        q.coresRequired = fieldAt (readGlobal s addr size) 28 2 ∧ q.signature = BitVec.ofNat 64 (fieldAt (readGlobal s addr size) 40 8) ∧
        (∀ k, k ≠ s.nextPlan → tget k t.plans = tget k s.plans) ∧
        t = { s with nextPlan := t.nextPlan, plans := t.plans, rings := t.rings, mem := t.mem } ∧
        (∀ sp, sp ≠ .hbm → cellsOf sp t.mem = cellsOf sp s.mem) ∧
        ∀ x, x < place ∨ place + size ≤ x → mread x t.mem.hbm = mread x s.mem.hbm) ∧
    (∀ e, localRange s c.part addr size = some r → readsPoison s r.1 r.2 size = false →
      loaderCheck s c.part (readGlobal s addr size) size body = some e →
      ∃ t, exec (.loadPlan c addr size body) s = .next t ∧ replied c { status := .planRejected, detail := e.1 * 256 + e.2 } s t ∧
        t = { s with rings := t.rings }) ∧
    (tget id s.plans = some p → p.part = c.part → planBusy s id = false →
      ∃ t, exec (.unloadPlan c id) s = .next t ∧ replied c { status := .ok } s t ∧ tget id t.plans = none ∧
        (∀ k, k ≠ id → tget k t.plans = tget k s.plans) ∧ t = { s with plans := t.plans, rings := t.rings })) ∧
  (∀ (c : Cmd) (plan task : Nat) (p : Plan) (x : List (BitVec 32) × List (BitVec 32 × BitVec 32)) (snap : Snapshot) (s : State),
    tget plan s.plans = some p → p.part = c.part →
    (taskOf p task = some x →
      ∃ t snap', exec (.taskBegin c plan task) s = .next t ∧ replied c { status := .ok } s t ∧
        t = { s with parts := t.parts, rings := t.rings } ∧ (∀ k, k ≠ c.part → partOf t k = partOf s k) ∧
        (partOf t c.part).snapshots = snap' :: (partOf s c.part).snapshots.filter (fun y => !(y.plan == plan && y.task == task)) ∧
        snap' = { plan := plan, task := task, objects := objectsAt s x.1, flags := flagsOfPart s c.part }) ∧
    ((partOf s c.part).snapshots.find? (fun y => y.plan == plan && y.task == task) = some snap →
      taskDiffs s c.part ((taskOf p task).map (·.2) |>.getD []) snap = [] →
      ∃ t, exec (.taskEnd c plan task) s = .next t ∧ replied c { status := .ok } s t ∧
        t = { s with parts := t.parts, rings := t.rings, cores := t.cores } ∧
        (partOf t c.part).snapshots = (partOf s c.part).snapshots.erase snap ∧
        ∀ k, (tget k s.cores).isSome = true → partOfCore s k = some c.part → (coreOf t k).posted = {}))

/-- R165, R167: an OBJ_ALLOC within the partition's quota and with a free run allocates that run, every object of it cleared and of
the kind asked for, and replies with its first index; no other object changes.

R176, R433: OBJ_FREE of a range of objects that are all the partition's own, with no pending entries, frees exactly that range;
OBJ_RESET of such an object clears its value and state and keeps its kind and partition. Both reply ST_OK and change nothing
else. -/
def Obligations.ObjectsAllocatedAndFreed : Prop :=
  (∀ (c : Cmd) (count kind region i : Nat) (monotonic : Bool) (s : State),
    1 ≤ count → count ≤ 8192 → region < 8 → 1 ≤ kind → kind ≤ 3 → (monotonic = true → kind = 2) →
    objectsUsed s c.part + count ≤ (partOf s c.part).quota.syncObjects →
    findRun ((s.objects.filter fun e => e.1 / 8192 == region).map fun e => e.1 % 8192) count
      (((s.objects.filter fun e => e.1 / 8192 == region).map fun e => e.1 % 8192).length + 1) 0 = some i →
    ∃ t, exec (.objAlloc c count kind monotonic region) s = .next t ∧
      replied c { status := .ok, words := [BitVec.ofNat 32 (region * 8192 + i)] } s t ∧
      t = { s with objects := t.objects, rings := t.rings } ∧
      (∀ k, k < count → tget (region * 8192 + i + k) t.objects =
        some { part := c.part, kind := if kind = 2 then .counter else if kind = 3 then .lock else .flag, monotonic := monotonic }) ∧
      (∀ k, (k < region * 8192 + i ∨ region * 8192 + i + count ≤ k) → tget k t.objects = tget k s.objects) ∧
      ∀ k, k < count → tget (region * 8192 + i + k) s.objects = none) ∧
  (∀ (c : Cmd) (h : BitVec 32) (i count : Nat) (s : State), handleRef h = .object i → 1 ≤ count → i % 8192 + count ≤ 8192 →
    (∀ k, i ≤ k → k < i + count → ∃ o, tget k s.objects = some o ∧ o.part = c.part) →
    (∀ e, e ∈ s.objects → i ≤ e.1 → e.1 < i + count → e.2.waiters = []) →
    (∃ t, exec (.objFree c h count) s = .next t ∧ replied c { status := .ok } s t ∧
      t = { s with objects := t.objects, rings := t.rings } ∧
      (∀ k, i ≤ k → k < i + count → tget k t.objects = none) ∧
      ∀ k, (k < i ∨ i + count ≤ k) → tget k t.objects = tget k s.objects) ∧
    ∃ t o, exec (.objReset c h) s = .next t ∧ replied c { status := .ok } s t ∧
      t = { s with objects := t.objects, rings := t.rings } ∧ tget i s.objects = some o ∧
      tget i t.objects = some { o with value := 0, full := false, orphaned := false, overrun := 0, waiters := [] } ∧
      ∀ k, k ≠ i → tget k t.objects = tget k s.objects)

/-- R176, R433: OBJ_RESET of an object releases each pending waiter, blocked writer and blocked acquirer with ST_POISONED, detail
0x0001, and applies none of them. OBJ_FREE of a range of objects of the issuing partition does so for every object of it and frees them all;
a handle not of SPACE 0, a count of 0 or a range past its region's last object is ST_BAD_LENGTH, detail 0x0004, and an object of
another partition or of none is ST_TENANT_VIOLATION, logged: neither frees anything. -/
def Obligations.PoisonedReleases : Prop :=
  ∀ (c : Cmd) (h : BitVec 32) (i count n f p : Nat) (o : SyncObj) (s : State),
    let told := fun (t : State) (w : Waiter) => match w.who with
      | .host d => ∃ y, y ∈ (ringOf t d.fn d.ring).replies ∧ y.cmd = d ∧ y.answer = { status := .poisoned, detail := 1 }
      | .unit _ u =>
        if u.module = ownModule s then ∃ y, y ∈ t.out.releases ∧ y.unit = u ∧ y.status = .poisoned ∧ y.detail = 1
        else ∃ y, y ∈ t.out.packets ∧ y.type = .refusal ∧ y.dst = u.module ∧ y.dstUnit = u.unit ∧ y.status = statusCode .poisoned + 2 ^ 16
    let said := fun (t : State) => ∃ y, y ∈ (ringOf t c.fn c.ring).replies ∧ y.cmd = c ∧ y.answer = { status := .ok }
    let only := fun (t : State) => t = { s with objects := t.objects, rings := t.rings, out := t.out }
    (handleRef h = .object i → tget i s.objects = some o → o.part = c.part →
      ∃ t, exec (.objReset c h) s = .next t ∧ said t ∧ only t ∧ (∀ w, w ∈ o.waiters → told t w) ∧
        tget i t.objects = some { o with value := 0, full := false, orphaned := false, overrun := 0, waiters := [] } ∧
        ∀ k, k ≠ i → tget k t.objects = tget k s.objects) ∧
    (handleRef h = .flag n f → physOf s n = some p → partOfCore s p = some c.part →
      ∃ t, exec (.objReset c h) s = .next t ∧ said t ∧ t = { s with cores := t.cores, rings := t.rings, out := t.out } ∧
        (∀ w, w ∈ (flagOf s p f).waiters → told t w) ∧
        flagOf t p f = { flagOf s p f with value := 0, full := false, overrun := 0, waiters := [] } ∧ ∀ q g, (q, g) ≠ (p, f) → flagOf t q g = flagOf s q g) ∧
    (((∀ k, handleRef h ≠ .object k) ∨ count = 0 ∨ (handleRef h = .object i ∧ 8192 < i % 8192 + count)) →
      ∃ t, exec (.objFree c h count) s = .next t ∧ t = { s with rings := t.rings } ∧ replied c { status := .badLength, detail := 4 } s t) ∧
    (handleRef h = .object i → 1 ≤ count → i % 8192 + count ≤ 8192 →
      ((∃ k, i ≤ k ∧ k < i + count ∧ objPart s k ≠ some c.part) →
        ∃ t k, exec (.objFree c h count) s = .next t ∧ replied c { status := .tenantViolation } s t ∧ objPart s k ≠ some c.part ∧
          t = { s with rings := t.rings, log := t.log, pkg := t.pkg } ∧
          t.log = (logTenant (.host c) ((objPart s k).getD 0xFF) (BitVec.ofNat 32 k) s).log) ∧
      ((∀ k, i ≤ k → k < i + count → objPart s k = some c.part) →
        ∃ t, exec (.objFree c h count) s = .next t ∧ said t ∧ only t ∧ (∀ k, i ≤ k → k < i + count → tget k t.objects = none) ∧
          (∀ k o', i ≤ k → k < i + count → tget k s.objects = some o' → ∀ w, w ∈ o'.waiters → told t w) ∧
          ∀ k, (k < i ∨ i + count ≤ k) → tget k t.objects = tget k s.objects))

/-- R194, R201, R428: HOSTWORD_SET gives an entry of the partition's host-word table its kind, MSI-X vector and address, with a count
of zero. OBJ_READ of an object of the partition writes its 64-byte view to a writable address of the partition and replies with its
value and state word; it changes no object and no byte outside the view. -/
def Obligations.HostWordsAndViews : Prop :=
  ∀ (c : Cmd) (entry kind vector addr : Nat) (msix : Bool) (h : BitVec 32) (i view : Nat) (o : SyncObj) (sp : Space) (key : Nat) (s : State),
    (entry < 4096 → (kind = 1 ∨ kind = 2) → addr % 8 = 0 →
      ∃ t, exec (.hostwordSet c entry kind msix vector addr) s = .next t ∧ replied c { status := .ok } s t ∧
        t = { s with hostWords := t.hostWords, rings := t.rings } ∧
        tget (hostWordKey c.part entry) t.hostWords =
          some { counter := kind == 2, msix := msix, vector := vector, addr := addr % 2 ^ 46, count := 0 } ∧
        ∀ k, k ≠ hostWordKey c.part entry → tget k t.hostWords = tget k s.hostWords) ∧
    (handleRef h = .object i → tget i s.objects = some o → o.part = c.part → localRange s c.part view 64 = some (sp, key) →
      writeRefused s sp key 64 = false →
      ∃ t, exec (.objRead c h view) s = .next t ∧
        replied c { status := .ok, words := words64 o.value.toNat ++ words64 (stateWord o).toNat } s t ∧
        t = { s with mem := t.mem, rings := t.rings } ∧ mreadN key 64 (cellsOf sp t.mem) = viewOf (issuerId s) o ∧
        (∀ x, x < key ∨ key + 64 ≤ x → mread x (cellsOf sp t.mem) = mread x (cellsOf sp s.mem)) ∧
        ∀ sq, sq ≠ sp → cellsOf sq t.mem = cellsOf sq s.mem)

/-- R172, R173: a SIGNAL to an EMPTY flag of its own partition that nobody waits for stores the value and fills it; to a FULL flag,
not blocking, it is an overrun, counted, that keeps the value; to a counter nobody waits on it adds its low 20 bits modulo 2^48. Each
answers its issuer and records it as the last signaller; no other object and no memory changes.

R172, R173: a WAIT on a FULL flag takes its value and empties it, or with PEEK leaves it full; on a counter that has reached the
target it answers at once; on an EMPTY flag it is entered as the youngest waiter and answers nothing. R177: one that names another
module's object does not wait and answers ST_BAD_LENGTH, detail 0x0005. -/
def Obligations.SignalsAndWaits : Prop :=
  (∀ (c : Cmd) (h : BitVec 32) (i module : Nat) (v : Word) (o : SyncObj) (s : State),
    handleRef h = .object i → tget i s.objects = some o → o.part = c.part → o.waiters = [] →
    ∀ (o' : SyncObj) (st : Status),
      (o.kind = .flag ∧ o.full = false ∧ o' = { o with value := v, full := true } ∧ st = .ok) ∨
      (o.kind = .flag ∧ o.full = true ∧ o' = { o with overrun := min 0xFFFF (o.overrun + 1) } ∧ st = .syncOverrun) ∨
      (o.kind = .counter ∧ o' = { o with value := BitVec.ofNat 64 ((o.value.toNat + v.toNat % 2 ^ 20) % 2 ^ 48) } ∧ st = .ok) →
      ∃ t, exec (.signal (.host c) h module false false v) s = .next t ∧ replied c { status := st } s t ∧
        t = { s with objects := t.objects, rings := t.rings } ∧
        tget i t.objects = some { o' with
          lastModule := (issuerId s (.host c)).module, lastUnit := (issuerId s (.host c)).unit, lastTime := s.time.now } ∧
        ∀ k, k ≠ i → tget k t.objects = tget k s.objects) ∧
  (∀ (c : Cmd) (h : BitVec 32) (i timeout : Nat) (peek : Bool) (target : BitVec 48) (module : Option Nat) (o : SyncObj) (s : State),
    handleRef h = .object i → tget i s.objects = some o → o.part = c.part → (∀ m, module = some m → m = ownModule s) →
    (o.waiters = [] → (o.kind = .flag ∧ o.full = true) ∨ (o.kind = .counter ∧ targetMet o.value target = true) →
      ∃ t o', exec (.wait (.host c) ⟨h, module⟩ peek target timeout) s = .next t ∧
        t = { s with objects := t.objects, rings := t.rings } ∧ tget i t.objects = some o' ∧
        o' = (if o.kind = .flag ∧ peek = false then { o with full := false } else o) ∧
        replied c { status := .ok, words := words64 o.value.toNat ++ words64 (stateWord o').toNat } s t ∧
        ∀ k, k ≠ i → tget k t.objects = tget k s.objects) ∧
    (o.kind = .flag → o.full = false → hostPending s c.fn < 64 →
      ∃ t, exec (.wait (.host c) ⟨h, module⟩ peek target timeout) s = .next t ∧ t = { s with objects := t.objects } ∧
        tget i t.objects = some { o with waiters :=
          o.waiters ++ [{ who := .host c, kind := if peek then .peek else .consume, timeout := timeout }] } ∧
        ∀ k, k ≠ i → tget k t.objects = tget k s.objects)) ∧
  ∀ (c : Cmd) (h : BitVec 32) (m timeout : Nat) (peek : Bool) (target : BitVec 48) (s : State), m ≠ ownModule s →
    ∃ t, exec (.wait (.host c) ⟨h, some m⟩ peek target timeout) s = .next t ∧ replied c { status := .badLength, detail := 5 } s t ∧
      t = { s with rings := t.rings }

/-- R172, R180, R181, R351: LOCK_ACQUIRE of a free lock of its own partition makes the issuer its owner and enters it in the job's
lock record; LOCK_RELEASE by its owner, with nobody waiting, frees it. A release by anyone else is refused with ST_LOCKED and changes
no object. -/
def Obligations.LocksAcquireAndRelease : Prop :=
  ∀ (c : Cmd) (h : BitVec 32) (i module timeout : Nat) (blocking : Bool) (o : SyncObj) (s : State),
    handleRef h = .object i → tget i s.objects = some o → o.part = c.part → o.kind = .lock → o.orphaned = false →
    (o.full = false →
      ∃ t, exec (.lockAcquire (.host c) h module blocking false timeout) s = .next t ∧
        tget i t.objects = some { o with value := lockValue (issuerId s (.host c)), full := true } ∧
        (∀ k, k ≠ i → tget k t.objects = tget k s.objects) ∧
        t = { s with objects := t.objects, rings := t.rings, parts := t.parts } ∧
        (jobOf (partOf t c.part) (jobOfCmd c)).locks =
          (jobOf (partOf s c.part) (jobOfCmd c)).locks ++ [(ownModule s, h, issuerId s (.host c))] ∧
        (ringOf t c.fn c.ring).started = (ringOf s c.fn c.ring).started.erase c) ∧
    (o.full = true → o.value = lockValue (issuerId s (.host c)) → o.waiters = [] →
      ∃ t, exec (.lockRelease (.host c) h module false) s = .next t ∧ replied c { status := .ok } s t ∧
        tget i t.objects = some { o with value := 0, full := false } ∧ (∀ k, k ≠ i → tget k t.objects = tget k s.objects) ∧
        t = { s with objects := t.objects, rings := t.rings, parts := t.parts }) ∧
    (o.full = true → o.value ≠ lockValue (issuerId s (.host c)) →
      ∃ t, exec (.lockRelease (.host c) h module false) s = .next t ∧ replied c { status := .locked, detail := 1 } s t ∧
        t = { s with rings := t.rings, objects := t.objects } ∧ ∀ k, tget k t.objects = tget k s.objects)

/-- R156 to R158, R431: a DMA command with bytes to move, whose checks pass and whose channel is in service, joins that channel as
its youngest transfer under the channel's next 24-bit serial, and stays started; its remote operands' range checks are sent. Nothing
else changes.

R431: a DMA command of zero length completes at once with ST_OK, zero bytes moved and no failure offset, and moves nothing. -/
def Obligations.DmaStarts : Prop :=
  (∀ (c : Cmd) (d : DmaParams) (pattern : BitVec 64) (index esize count : Nat) (sp dp : Bool) (sl dl se de k : Nat) (s : State),
    ∀ (i : Instr) (op : DmaOp) (len : Nat),
      ((i, op, len) ∈ ([(.dmaCopy c d, .copy, d.length), (.dmaFill c pattern d, .fill pattern, d.length),
          (.dmaPageWalk c d sp dp sl dl se de, .pageWalk sp dp sl dl se de, d.length)] : List (Instr × DmaOp × Nat)) ∨
        (indexPre d esize count = none ∧ checkList s c.part index (count * 4) 0x10 = none ∧
          (i, op, len) ∈ ([(.dmaGather c d index esize count, .gather (readIndices s index count) esize, count * esize),
            (.dmaScatter c d index esize count, .scatter (readIndices s index count) esize, count * esize)] :
              List (Instr × DmaOp × Nat)))) →
      len ≠ 0 → checkStarts s c.part d.src d.dst op = none → checkExtents s c.part d.src d.dst len op = none → pickChannel s d.region d.channel = some k →
      ∃ t x, exec i s = .next t ∧ t = { s with channels := t.channels, out := { s.out with packets := t.out.packets, arbs := t.out.arbs } } ∧
        (∀ q, q ≠ channelKey d.region k → tget q t.channels = tget q s.channels) ∧
        channelOf t d.region k = { channelOf s d.region k with
          serial := ((channelOf s d.region k).serial + 1) % 2 ^ 24, transfers := (channelOf s d.region k).transfers ++ [x] } ∧
        x = { purpose := .command c, part := c.part, op := op, src := d.src, dst := d.dst, length := len, clsSrc := d.classSrc,
              clsDst := d.classDst, serial := ((channelOf s d.region k).serial + 1) % 2 ^ 24, checks := x.checks, down := x.down } ∧
        t.out.packets = s.out.packets ++ remoteChecks s d.region k x ∧ x.checks = (remoteChecks s d.region k x).length ∧
        x.down = descending s x) ∧
  (∀ (c : Cmd) (d : DmaParams) (pattern : BitVec 64) (index esize : Nat) (sp dp : Bool) (sl dl se de : Nat) (s : State),
    d.length = 0 → 1 ≤ esize → esize ≤ 65536 →
    ∀ i, i ∈ [Instr.dmaCopy c d, .dmaFill c pattern d, .dmaPageWalk c d sp dp sl dl se de, .dmaGather c d index esize 0,
      .dmaScatter c d index esize 0] →
      ∃ t, exec i s = .next t ∧ replied c { status := .ok, words := words64 0 ++ words64 (2 ^ 64 - 1) } s t ∧
        t = { s with rings := t.rings })

/-- R34, R158, R160, R161, R431: DMA_PACKET_ISSUE of a running copy between local addresses that may issue sends the WRITE packet of its
next bytes (the last ones left, of a copy that runs from its end), at most 512 and within an aligned 512 bytes of the destination, read
from the source, and enters it among the unacknowledged; of a fill, the packet of its pattern. No byte of memory changes until the packet
arrives; reading the source is an access of the region cache.

R158, R161: an acknowledgement of one of several outstanding packets settles it and counts its bytes; of the last packet of a
transfer with nothing left to issue, it ends the transfer, and its command answers ST_OK with the bytes acknowledged. A packet timeout
or a refusal of a transfer's only outstanding packet ends it, with the offset of the failure, logged: a timeout with ST_TIMEOUT, a refused
write with ST_REMOTE_WRITE_FAILED or, at a unit of this module that has gone dark, ST_UNIT_DARK, a refused read with what the refusal
carries. An answer whose serial no transfer of its channel has is dropped and counted. -/
def Obligations.DmaPackets : Prop :=
  (∀ (r c : Nat) (x : Transfer) (rest : List Transfer) (s : State), r < 8 → c < 16 → (channelOf s r c).transfers = x :: rest →
    x.paused = false → x.checks = 0 → x.failure = none → x.out.length < 4096 → x.next < x.length →
    let off := (nextPacket s x).1
    let n := (nextPacket s x).2
    isRemote s (x.dst + off) = false → vacantWindow s ((x.dst + off) % 2 ^ 47) = false →
    ∀ (u : State) (bs : List Byte),
      ((∃ sp key, x.op = .copy ∧ place s (x.src + off) = .mem sp key ∧ waitsForTile s (x.src + off) = false ∧
        cleanPart s sp key n = n ∧ u = accessSpace x.part sp key n false x.clsSrc s ∧ bs = mreadN key n (cellsOf sp s.mem)) ∨
      ∃ p, x.op = .fill p ∧ u = s ∧ bs = fillBytes p off n) →
    1 ≤ n ∧ n ≤ 512 ∧ (x.dst + off) % 512 + n ≤ 512 ∧ (if x.down then off + n = x.length - x.next else off = x.next ∧ n ≤ x.length - x.next) ∧
    ∃ t, exec (.dmaPacketIssue r c) s = .next t ∧
      t = { u with channels := t.channels, out := { s.out with packets := t.out.packets, arbs := t.out.arbs } } ∧
      (∀ q, q ≠ channelKey r c → tget q t.channels = tget q s.channels) ∧
      (channelOf t r c).transfers = { x with next := x.next + n, out := x.out ++ [(x.dst + off, off, n)] } :: rest ∧
      t.out.packets = s.out.packets ++ [writePacket s r c x (x.dst + off) off bs]) ∧
  (∀ (r c off n addr : Nat) (p : Pkt) (x : Transfer) (rest : List Transfer) (cmd : Cmd) (s : State), r < 8 → c < 16 →
    p.dstUnit = channelUnit r c → (channelOf s r c).transfers = x :: rest → x.purpose = .command cmd → x.checks = 0 →
    x.failure = none → x.firstFail = none →
    let ended := fun (t : State) => { s.lantern with ports := t.lantern.ports }
    (argSerial p = x.serial → p.status = 0 → p.arg.toNat = addr % 2 ^ 47 → argCount p = off → x.out = [(addr, off, n)] → x.length ≤ x.next →
      ∃ t, exec (.ack p) s = .next t ∧ t = { s with channels := t.channels, rings := t.rings, lantern := ended t } ∧
        (channelOf t r c).transfers = rest ∧
        replied cmd { status := .ok, words := words64 (contiguous (x.done ++ [(off, n)]) (x.done.length + 2) 0) ++ words64 (2 ^ 64 - 1) } s t) ∧
    ((∀ y, y ∈ x :: rest → y.serial ≠ argSerial p) →
      ∃ t, exec (.ack p) s = .next t ∧ t = { s with channels := t.channels } ∧
        channelOf t r c = { channelOf s r c with staleDrops := (channelOf s r c).staleDrops + 1 }) ∧
    (x.out = [(addr, off, n)] →
      ∃ t, exec (.dmaPacketTimeout r c off) s = .next t ∧ (channelOf t r c).transfers = rest ∧ t.mem = s.mem ∧
        replied cmd { status := .timeout, words := words64 (contiguous x.done (x.done.length + 1) 0) ++ words64 off } s t ∧
        t = { s with channels := t.channels, rings := t.rings, log := t.log, pkg := t.pkg, lantern := ended t }) ∧
    (argSerial p = x.serial → p.data.length ≠ 2 → p.arg.toNat = addr % 2 ^ 47 → argCount p = off → x.out = [(addr, off, n)] →
      ∃ t a, exec (.refusal p) s = .next t ∧ (channelOf t r c).transfers = rest ∧ t.mem = s.mem ∧
        replied cmd { status := a.1, detail := a.2, words := words64 (contiguous x.done (x.done.length + 1) 0) ++ words64 off } s t ∧
        a = (if x.reads.contains off then refusalStatus p
          else if p.src = ownModule s ∧ (refusalStatus p).1 = .unitDark then (.unitDark, 0) else (.remoteWriteFailed, 0)) ∧
        t = { s with channels := t.channels, rings := t.rings, log := t.log, pkg := t.pkg, lantern := ended t }))

/-- R145, R152, R158, R160, R316, R318, R430: a write packet to memory its sender reaches (of its partition, or any for a keeper; no buddy
area, no accumulator memory of a running tile) that no poisoned or offline unit refuses and whose merge reads no uncorrectable line
stores its bytes there, through the region cache, and, from a DMA channel, is acknowledged, a stream's by its count; a read request
returns the bytes in packets of its class's limit (R34), or the poison mark; a range check answers an acknowledgement exactly where the
range is the partition's. A write outside what the sender reaches is refused and stores nothing.

R152, R162, R316: read data that return to a core's outstanding load go into its register, and the load is done; poisoned, the
register reads zero with the core's error set. A refusal to a core with no such load arms its posted-error record and counts there. -/
def Obligations.MemoryTraffic : Prop :=
  (∀ (p : Pkt) (badLine : Bool) (sp : Space) (key : Nat) (s : State), fenced s p = false → placeLocal s p.arg.toNat = .mem sp key →
    inBuddyArea s sp key = false →
    let streamed := isChannel p.srcUnit && p.status == 1
    (reaches s p sp key p.data.length = true → (badLine = true → sp ≠ .hbm) →
      ¬ (sp = .acc ∧ tileRunning s (key / 0x20000) = true) → writeRefused s sp key p.data.length = false →
      ∃ t, exec (.write ⟨p, badLine⟩) s = .next t ∧
        t = { accessSpace p.part sp key p.data.length true (packetClass s p) (writeSpace sp key p.data s) with
          out := t.out, lantern := t.lantern } ∧
        mreadN key p.data.length (cellsOf sp t.mem) = p.data ∧
        (∀ x, x < key ∨ key + p.data.length ≤ x → mread x (cellsOf sp t.mem) = mread x (cellsOf sp s.mem)) ∧
        (∀ sq, sq ≠ sp → cellsOf sq t.mem = cellsOf sq s.mem) ∧
        t.lantern = (if streamed then (settleInbound p s).lantern else s.lantern) ∧
        t.out = { s.out with
          packets := s.out.packets ++
            (if streamed then [{ replyTo s p .ack 1 with arg := BitVec.ofNat 64 (streamBase p), arg2 := streamCount p s }]
             else if isChannel p.srcUnit then [replyTo s p .ack 0] else [])
          arbs := t.out.arbs }) ∧
    (reaches s p sp key p.data.length = false →
      ∃ t x, exec (.write ⟨p, badLine⟩) s = .next t ∧
        t = { s with out := { s.out with packets := s.out.packets ++ [x], arbs := t.out.arbs }, lantern := t.lantern } ∧
        x.type = .refusal ∧ x.dst = p.src ∧ x.dstUnit = p.srcUnit ∧ x.status = (if isChannel p.srcUnit then 0x45 else 0x42) ∧
        t.lantern = (if streamed then (settleInbound p s).lantern else s.lantern)) ∧
    (reaches s p sp key (requestLength p) = true → ¬ (sp = .acc ∧ tileRunning s (key / 0x20000) = true) →
      ∃ t, exec (.readReq p) s = .next t ∧
        t = { accessSpace p.part sp key (requestLength p) false .normal s with out := { s.out with
          packets := s.out.packets ++
            piecesOf { replyTo s p .readData (if readsPoison s sp key (requestLength p) then 0x44 else 0) with
              data := mreadN key (requestLength p) (cellsOf sp s.mem), cls := 3 }
          arbs := t.out.arbs } }) ∧
    ∀ len, ∃ t st, exec (.rangeCheck p len) s = .next t ∧
      t = { s with out := { s.out with packets := s.out.packets ++ [st], arbs := t.out.arbs } } ∧ st.dst = p.src ∧ st.dstUnit = p.srcUnit ∧
      (st.type = .ack ↔ checkOperand s p.part (ownModule s * 2 ^ 47 + p.arg.toNat) len p.status = none)) ∧
  (∀ (p : Pkt) (poisoned : Bool) (l : Nat × Nat × Nat) (s : State), p.dstUnit < 864 →
    (takeLoad p.dstUnit p.arg.toNat s = some l →
      ∃ t, exec (.readData p poisoned) s = .next t ∧ t = { s with cores := t.cores } ∧
        (∀ q, q ≠ p.dstUnit → coreOf t q = coreOf s q) ∧
        coreOf t p.dstUnit = { coreOf s p.dstUnit with
          brush := { (coreOf s p.dstUnit).brush with
            sr := tput l.1 (if poisoned then 0 else BitVec.ofNat 64 (leNat (p.data.take l.2.2))) (coreOf s p.dstUnit).brush.sr }
          loads := (coreOf s p.dstUnit).loads.erase l, loadError := (coreOf s p.dstUnit).loadError || poisoned }) ∧
    (takeLoad p.dstUnit p.arg.toNat s = none → p.data.length ≠ 3 →
      (s.remoteOps.any fun o => o.module == p.src && (issuerId s o.who).unit == p.dstUnit) = false →
      ∃ t, exec (.refusal p) s = .next t ∧ (coreOf t p.dstUnit).posted.armed = true ∧
        (coreOf t p.dstUnit).posted.count = (if (coreOf s p.dstUnit).posted.count = 0 then 1
          else min 255 ((coreOf s p.dstUnit).posted.count + 1)) ∧
        (∀ q, q ≠ p.dstUnit → coreOf t q = coreOf s q) ∧ t = { s with cores := t.cores, log := t.log, pkg := t.pkg }))

/-- R185, R186: FENCE, and FENCED_SIGNAL of a unit or of a host naming a core of its partition, start a fence at a core that runs none
and has destinations: the destinations are awaited, the set starts anew, the signal is held, and eight probes go to each destination. The
command stays started, and nothing else changes.

R163, R185, R186: the answer of a fence's last destination completes it, and the signal held behind it is applied; a fence whose signal waits past its time loses the signal, answers ST_TIMEOUT and arms the core's posted-error record; a
signal behind a fence of a core whose record is ARMED is not applied, answers ST_POISONED and disarms the record.

R185: the probe of the eighth plane that reaches a destination from a unit none of whose stores waits there is answered there on P2, and
the seven before it are forgotten; an earlier one, or one behind a store that waits for a tile boundary, is only kept. -/
def Obligations.Fences : Prop :=
  (∀ (c : Cmd) (u : UnitId) (part n p module : Nat) (h : BitVec 32) (blocking remote : Bool) (v : Word) (s : State), p < 864 → n < 800 →
    physOf s n = some p → partOfCore s p = some c.part → coreFenced s p = false → (coreOf s p).fence = none → (coreOf s p).fenceSet ≠ [] →
    ∀ (i : Instr) (gs : List HeldSignal),
      (i, gs) ∈ ([(.fence p, []),
        (.fencedSignal (.unit part u) p h module blocking remote v, [⟨.unit part u, h, module, blocking, remote, v⟩]),
        (.fencedSignal (.host c) n h module blocking remote v, [⟨.host c, h, module, blocking, remote, v⟩])] :
          List (Instr × List HeldSignal)) →
      ∃ t ps, exec i s = .next t ∧ t = { s with cores := t.cores, out := { s.out with packets := s.out.packets ++ ps, arbs := t.out.arbs } } ∧
        (∀ q, q ≠ p → coreOf t q = coreOf s q) ∧
        coreOf t p = { coreOf s p with
          fence := some { dests := (coreOf s p).fenceSet, awaited := (coreOf s p).fenceSet, signals := gs, held := [] }, fenceSet := [] } ∧
        ps.length = 8 * (coreOf s p).fenceSet.length ∧ ∀ x, x ∈ ps → x.type = .fenceProbe ∧ x.cls = 3 ∧ x.srcUnit = p) ∧
  (∀ (c : Cmd) (p dest i : Nat) (ds : List Nat) (g : HeldSignal) (o : SyncObj) (s : State), p < 864 → g.who = .host c → g.remote = false →
    handleRef g.handle = .object i → tget i s.objects = some o → o.part = c.part → o.kind = .flag → o.full = false → o.waiters = [] →
    (coreOf s p).fence = some { dests := ds, awaited := [dest], signals := [g], held := [] } →
    ((coreOf s p).posted.armed = false →
      ∃ t, exec (.fenceAnswer p dest) s = .next t ∧ replied c { status := .ok } s t ∧
        t = { s with cores := t.cores, objects := t.objects, rings := t.rings } ∧
        coreOf t p = { coreOf s p with fence := none } ∧ (∀ q, q ≠ p → coreOf t q = coreOf s q) ∧
        tget i t.objects = some { o with
          value := g.v, full := true, lastModule := ownModule s, lastUnit := fnUnit c.fn, lastTime := s.time.now } ∧
        ∀ k, k ≠ i → tget k t.objects = tget k s.objects) ∧
    ((coreOf s p).posted.armed = true →
      ∃ t, exec (.fenceAnswer p dest) s = .next t ∧ replied c { status := .poisoned } s t ∧
        t = { s with cores := t.cores, rings := t.rings } ∧ (coreOf t p).posted = { (coreOf s p).posted with armed := false }) ∧
    ∃ t, exec (.fencedSignalTimeout p) s = .next t ∧ replied c { status := .timeout } s t ∧
      t = { s with cores := t.cores, rings := t.rings } ∧ (∀ q, q ≠ p → coreOf t q = coreOf s q) ∧
      coreOf t p = { coreOf s p with
        fence := some { dests := ds, awaited := [dest], signals := [], held := [] }, posted := { (coreOf s p).posted with armed := true } }) ∧
  (∀ (p : Pkt) (dest : Nat) (s : State), fenced s p = false →
    let u : UnitId := ⟨p.src, p.srcUnit, p.srcInc⟩
    let seen := (s.probes.filter fun x => x.1 == u && x.2.1 == dest).map (·.2.2)
    seen.contains p.plane = false →
    (seen.length < 7 ∨ storeWaits s u dest = true → ∃ t, exec (.fenceProbe p dest) s = .next t ∧ t = { s with probes := (u, dest, p.plane) :: s.probes }) ∧
    (seen.length = 7 → storeWaits s u dest = false →
      ∃ t x, exec (.fenceProbe p dest) s = .next t ∧
        t = { s with probes := t.probes, out := { s.out with packets := s.out.packets ++ [x], arbs := t.out.arbs } } ∧
        x.type = .fenceAnswer ∧ x.cls = 2 ∧ x.dst = p.src ∧ x.dstUnit = p.srcUnit ∧
        t.probes = s.probes.filter fun x => !(x.1 == u && x.2.1 == dest)))

/-- R145, R150, R152, R162: a direct store of a core behind no fence goes into its own palette, or to memory of its partition, where that
takes it, at once and through the region cache, and reaches exactly its bytes; outside the partition it is not stored and arms the core's
posted-error record. A direct load behind no held store of its line reads the bytes of its partition's memory, none of them poisoned,
into the scalar register; outside it reads zero with the core's error set. -/
def Obligations.DirectAccess : Prop :=
  ∀ (core part addr key dst width : Nat) (sp : Space) (bs : List Byte) (s : State), core < 864 → partOfCore s core = some part →
    place s addr = .mem sp key → coreFenced s core = false →
    let free := ¬ (sp = .acc ∧ tileRunning s (key / 0x20000) = true)
    ((coreOf s core).fence = none → ((coreOf s core).fenceSet.length < 16 ∨ (coreOf s core).fenceSet.contains (fenceDest s part addr) = true) →
      writeRefused s sp key bs.length = false →
      ((sp = .palette ∧ key / 0x200000 = core) ∨ (inPart s part sp key = true ∧ key + bs.length ≤ regionEnd s part sp key ∧ free)) →
      ∃ t, exec (.directStore core addr bs false) s = .next t ∧
        t = { accessSpace part sp key bs.length true .normal (writeSpace sp key bs s) with cores := t.cores } ∧
        mreadN key bs.length (cellsOf sp t.mem) = bs ∧
        (∀ x, x < key ∨ key + bs.length ≤ x → mread x (cellsOf sp t.mem) = mread x (cellsOf sp s.mem)) ∧
        (∀ sq, sq ≠ sp → cellsOf sq t.mem = cellsOf sq s.mem) ∧ (∀ q, q ≠ core → coreOf t q = coreOf s q) ∧
        coreOf t core = { coreOf s core with fenceSet := (coreOf t core).fenceSet }) ∧
    ((coreOf s core).fence = none → ((coreOf s core).fenceSet.length < 16 ∨ (coreOf s core).fenceSet.contains (fenceDest s part addr) = true) →
      inPart s part sp key = false → ¬ (sp = .palette ∧ key / 0x200000 = core) →
      ∃ t, exec (.directStore core addr bs false) s = .next t ∧ t = { s with cores := t.cores, log := t.log, pkg := t.pkg } ∧
        (coreOf t core).posted.armed = true) ∧
    let behind := ∀ f, (coreOf s core).fence = some f → f.held.any (storesLine addr) = false
    (behind → inPart s part sp key = true → key + width ≤ regionEnd s part sp key → free → readsPoison s sp key width = false →
      ∃ t, exec (.directLoad core dst addr width) s = .next t ∧
        t = { accessSpace part sp key width false .normal s with cores := t.cores } ∧ (∀ q, q ≠ core → coreOf t q = coreOf s q) ∧
        coreOf t core = { coreOf s core with brush := { (coreOf s core).brush with
          sr := tput dst (BitVec.ofNat 64 (leNat (mreadN key width (cellsOf sp s.mem)))) (coreOf s core).brush.sr } }) ∧
    (behind → inPart s part sp key = false →
      ∃ t, exec (.directLoad core dst addr width) s = .next t ∧ t = { s with cores := t.cores } ∧
        (coreOf t core).loadError = true ∧ sreg (coreOf t core).brush dst = 0)

/-- R195, R196: BARRIER_ARM of a block barrier of its partition sets the mask, clears the count and the sense, and releases the members
that wait with ST_POISONED. An arrival of a member not yet counted is counted; the arrival that completes the mask flips the sense, clears
the count and releases every member that waits on the old sense. A member's wait ends at once where the barrier has the sense it waits
for, with ST_UNIT_DARK where the last episode lost a member, and is entered otherwise.

R197, R199: a child's first arrival of an episode at a tree node counts; one that completes an episode below another module's node opens
the next episode and sends that node an arrival. A RELAY packet that carries an arrival has the same effect (the packet's form is log
entry 18). An arm of a tree puts both dies' nodes, and one of each region that holds blocks of the partition, in the tables. -/
def Obligations.Barriers : Prop :=
  (∀ (c : Cmd) (u : UnitId) (block barrier slot tree group : Nat) (mask : BitVec 9) (sense : Bool) (s : State), block < 96 → barrier < 8 →
    let b := tgetD (barrierKey block barrier) {} s.barriers
    (partOfBlock s block = some c.part →
      ∃ t, exec (.barrierArm c false barrier block mask tree group) s = .next t ∧ replied c { status := .ok } s t ∧
        t = { s with barriers := t.barriers, rings := t.rings, out := { s.out with releases := t.out.releases } } ∧
        tget (barrierKey block barrier) t.barriers = some { mask := mask } ∧
        (∀ k, k ≠ barrierKey block barrier → tget k t.barriers = tget k s.barriers) ∧
        t.out.releases = s.out.releases ++ b.waiting.map fun m => { unit := m.1, status := .poisoned, detail := 1 }) ∧
    (b.mask.getLsbD slot = true → b.arrived.getLsbD slot = false → sense = !b.sense → b.dark = false →
      ∃ t x, exec (.barrierArrive u block barrier slot ⟨sense, false⟩) s = .next t ∧
        t = { s with barriers := t.barriers, out := { s.out with releases := t.out.releases } } ∧
        tget (barrierKey block barrier) t.barriers = some x ∧
        (∀ k, k ≠ barrierKey block barrier → tget k t.barriers = tget k s.barriers) ∧
        let now := b.arrived ||| BitVec.ofNat 9 (2 ^ slot)
        (now &&& b.mask ≠ b.mask → x = { b with arrived := now } ∧ t.out.releases = s.out.releases) ∧
        (now &&& b.mask = b.mask → x.sense = (!b.sense) ∧ x.arrived = 0 ∧ x.mask = b.mask ||| b.joining ∧
          x.waiting = b.waiting.filter (fun m => m.2 != b.sense) ∧
          t.out.releases = s.out.releases ++
            (b.waiting.filter fun m => m.2 == b.sense).map fun m => { unit := m.1, status := .ok })) ∧
    (sense = b.sense →
      exec (.barrierArrive u block barrier slot ⟨sense, true⟩) s = .next { s with out := { s.out with
        releases := s.out.releases ++ [{ unit := u, status := if b.lastDark then .unitDark else .ok }] } }) ∧
    (sense = !b.sense →
      ∃ t, exec (.barrierArrive u block barrier slot ⟨sense, true⟩) s = .next t ∧ t = { s with barriers := t.barriers, cores := t.cores } ∧
        tget (barrierKey block barrier) t.barriers = some { b with waiting := b.waiting ++ [(u, b.sense)] } ∧
        (∀ k, k ≠ barrierKey block barrier → tget k t.barriers = tget k s.barriers) ∧
        (u.module = ownModule s → u.unit < 864 → coreOf t u.unit = { coreOf s u.unit with waiting := true }) ∧
        ∀ q, q ≠ u.unit → coreOf t q = coreOf s q)) ∧
  (∀ (c : Cmd) (die node child group m d : Nat) (mask : BitVec 9) (n : TreeNode) (g : Group) (p : Pkt) (s : State),
    (tget (treeKey die node) s.lantern.trees = some n → n.released = n.episode → fenced s p = false →
      p.arg.toNat / 2 ^ 56 = 0 → p.arg.toNat % 2 ^ 56 = node → child = 16 + p.src → n.arrived.contains child = false →
      n.counter.toNat + 1 < 2 ^ 48 →
      ∀ i, i ∈ [Instr.treeNodeArrival die ⟨node, child⟩, .relay die p] →
        (n.counter.toNat + 1 ≠ (n.episode + 1) * n.children →
          ∃ t, exec i s = .next t ∧ t = { s with lantern := { s.lantern with trees := t.lantern.trees } } ∧
            tget (treeKey die node) t.lantern.trees = some { n with counter := n.counter + 1, arrived := child :: n.arrived } ∧
            ∀ k, k ≠ treeKey die node → tget k t.lantern.trees = tget k s.lantern.trees) ∧
        (n.counter.toNat + 1 = (n.episode + 1) * n.children → n.parent = some (m, d) → m ≠ ownModule s →
          ∃ t x, exec i s = .next t ∧
            t = { s with lantern := { s.lantern with trees := t.lantern.trees }, out := { s.out with packets := s.out.packets ++ [x], arbs := t.out.arbs } } ∧
            tget (treeKey die node) t.lantern.trees = some { n with counter := n.counter + 1, episode := n.episode + 1, arrived := [] } ∧
            x.type = .relay ∧ x.dst = m)) ∧
    (tget group s.lantern.groups = some g → g.part = c.part → node < 4096 →
      ∃ t, exec (.barrierArm c true 0 0 mask node group) s = .next t ∧ replied c { status := .ok } s t ∧
        t = { s with lantern := t.lantern, rings := t.rings } ∧ (tget (treeKey 0 node) t.lantern.trees).isSome = true ∧
        (tget (treeKey 1 node) t.lantern.trees).isSome = true ∧ (node, group) ∈ t.lantern.armedTrees ∧
        ∀ r, r < 8 → blocksIn s c.part r ≠ [] → (tget (treeKey (2 + r) node) t.lantern.trees).isSome = true))

/-- R171, R172, R179, R193: a signal that reaches the store from an unfenced unit of another module, and one written through the signal
window of the object's partition, fill an EMPTY flag nobody waits for and record the signaller; the remote one is acknowledged to its
unit. A remote acquisition of a free lock makes that unit its owner and is acknowledged. No other object changes.

R169, R173, R175, R201: a signal to an EMPTY local flag of a core of the issuer's partition fills it and records the signaller; its own
core's CONSUME wait on a FULL one takes the value and empties it; the timeout of a wait on it removes the entry. R189: a wake packet ends a core's wait and is used up.

R172, R175: the timeout of a wait or of a lock acquisition, where it is the issuer's only entry and its timeout is not 0, removes the
entry, leaves the object's value and state, and answers ST_TIMEOUT. R181: an owner sweep orphans exactly the locks of its region its
owner holds, and no other object's value, state or kind changes. -/
def Obligations.WakesAndSweeps : Prop :=
  (∀ (p : Pkt) (h : BitVec 32) (i timeout : Nat) (blocking : Bool) (v : Word) (o : SyncObj) (s : State), fenced s p = false →
    p.src ≠ ownModule s → handleRef h = .object i → tget i s.objects = some o → o.part = p.part → o.waiters = [] → o.full = false →
    o.orphaned = false →
    (o.kind = .flag →
      (∃ t x, exec (.signalApply p h blocking) s = .next t ∧
        t = { s with objects := t.objects, out := { s.out with packets := s.out.packets ++ [x], arbs := t.out.arbs } } ∧
        x.type = .ack ∧ x.dst = p.src ∧ x.dstUnit = p.srcUnit ∧
        tget i t.objects = some { o with
          value := p.arg2, full := true, lastModule := p.src, lastUnit := p.srcUnit, lastTime := s.time.now } ∧
        ∀ k, k ≠ i → tget k t.objects = tget k s.objects) ∧
      ∃ t, exec (.signalWindowWrite o.part (i * 16) 8 v) s = .next t ∧ t = { s with objects := t.objects } ∧
        tget i t.objects = some { o with
          value := v, full := true, lastModule := ownModule s, lastUnit := fnUnit o.part, lastTime := s.time.now } ∧
        ∀ k, k ≠ i → tget k t.objects = tget k s.objects) ∧
    (o.kind = .lock →
      ∃ t x, exec (.lockOp p h (.acquire blocking timeout)) s = .next t ∧
        t = { s with objects := t.objects, out := { s.out with packets := s.out.packets ++ [x], arbs := t.out.arbs } } ∧
        x.type = .ack ∧ x.dst = p.src ∧ x.dstUnit = p.srcUnit ∧
        tget i t.objects = some { o with value := lockValue ⟨p.src, p.srcUnit, p.srcInc⟩, full := true } ∧
        ∀ k, k ≠ i → tget k t.objects = tget k s.objects)) ∧
  (∀ (part n f core : Nat) (h : BitVec 32) (v : Word) (blocking : Bool) (s : State), handleRef h = .flag n f → physOf s n = some core →
    core < 864 → partOfCore s core = some part → flagKind s part f = .flag → issuerFenced s (.unit part (unitId s core)) = false →
    let u := unitId s core
    let l := flagOf s core f
    (l.waiters = [] → l.full = false →
      ∃ t, exec (.localFlagOperation (.unit part u) h (.signal v blocking)) s = .next t ∧
        t = { s with cores := t.cores, out := { s.out with releases := s.out.releases ++ [{ unit := u, status := .ok }] } } ∧
        flagOf t core f = { l with value := v, full := true, lastModule := u.module, lastUnit := u.unit, lastTime := s.time.now } ∧ (∀ g, g ≠ f → flagOf t core g = flagOf s core g) ∧
        ∀ q, q ≠ core → coreOf t q = coreOf s q) ∧
    (∀ w, w.who = .unit part u → w.timeout ≠ 0 → isWait w = true → l.waiters = [w] →
      ∃ t, exec (.waitTimeout (.unit part u) h) s = .next t ∧
        t = { s with cores := t.cores, out := { s.out with releases := s.out.releases ++ [{ unit := u, status := .timeout, value := l.value }] } } ∧
        flagOf t core f = { l with waiters := [] } ∧ (∀ g, g ≠ f → flagOf t core g = flagOf s core g) ∧
        ∀ q, q ≠ core → coreOf t q = coreOf s q) ∧
    (l.waiters = [] → l.full = true →
      ∃ t, exec (.localFlagOperation (.unit part u) h (.waitFlag true)) s = .next t ∧
        t = { s with cores := t.cores, out := { s.out with releases := s.out.releases ++ [{ unit := u, status := .ok, value := l.value }] } } ∧
        flagOf t core f = { l with full := false } ∧ (∀ g, g ≠ f → flagOf t core g = flagOf s core g)) ∧
    (u ∈ s.out.releases.map (·.unit) →
      ∃ t, exec (.wake core) s = .next t ∧ (coreOf t core).waiting = false ∧
        t = { s with cores := t.cores, out := { s.out with releases := t.out.releases } } ∧
        t.out.releases = dropFirst (fun r => r.unit == u) s.out.releases ∧ ∀ q, q ≠ core → coreOf t q = coreOf s q)) ∧
  (∀ (c : Cmd) (h : BitVec 32) (i region : Nat) (owner : UnitId) (o : SyncObj) (w : Waiter) (s : State),
    handleRef h = .object i → tget i s.objects = some o →
    (w.who = .host c → w.timeout ≠ 0 → o.waiters = [w] →
      ∀ x, (x = Instr.waitTimeout (.host c) h ∧ isWait w = true) ∨ (x = .lockAcquireTimeout (.host c) h ∧ isAcquirer w = true) →
        ∃ t, exec x s = .next t ∧ t = { s with objects := t.objects, rings := t.rings } ∧
          tget i t.objects = some { o with waiters := [] } ∧ (∀ k, k ≠ i → tget k t.objects = tget k s.objects) ∧
          replied c { status := .timeout, words := words64 o.value.toNat ++ words64 (stateWord { o with waiters := [] }).toNat } s t) ∧
    (region < 8 →
      ∃ t o', exec (.ownerSweep region owner) s = .next t ∧ t = { s with objects := t.objects, rings := t.rings, out := t.out } ∧
        tget i t.objects = some o' ∧ o'.value = o.value ∧ o'.kind = o.kind ∧ o'.full = o.full ∧ o'.part = o.part ∧
        (o'.orphaned = true ↔ o.orphaned = true ∨
          (i / 8192 = region ∧ o.kind = .lock ∧ o.full = true ∧ o.value = lockValue owner))))

/-- R204, R205, R211: QUEUE_CREATE within the partition's quota, with 1 to 8 producers and good handles, makes the lowest free number
of the region a queue with the operands' properties and endpoints without credits, and replies with its handle. A QUEUE_CREDIT of a local
queue that the region's free slots, the limit of 6,144 and the slot quota allow changes the endpoint's grant and held count by the delta
and tells a remote producer; one that takes credits back from a remote producer asks its proxy, and one of a remote queue asks that
queue's engine: both stay started until the answer comes.

R217: a QUEUE_FLUSH of a queue whose consumer is between packets takes effect at once, as the waiting ones do at the next boundary or,
one of them with ST_TIMEOUT and the consumer's next pop blank, at its timeout: nothing published is left, its slots are free, the flushes
are counted and each of their commands is answered. Within a packet it waits.

R218: QUEUE_DESTROY of a queue without remote producers frees its number, keeps the next generation's QGEN and answers the flushes that
wait; with remote producers it sends each a revocation, and the last acknowledgement, or ST_TIMEOUT for one that is missing, ends it.
What freeing slots does to the occupancy can raise the queue's watermark object (R222); with none, nothing but the engine and the replies
changes. -/
def Obligations.QueueLife : Prop :=
  (∀ (c : Cmd) (r k width consumer high low : Nat) (publish watermark reset : BitVec 32) (producers : List (Nat × Nat)) (s : State),
    r < 8 → 1 ≤ width → width ≤ 15 → producers ≠ [] → producers.length ≤ 8 → handleRef publish ≠ .bad → handleRef watermark ≠ .bad →
    handleRef reset ≠ .bad → queuesOfPart s c.part < (partOf s c.part).quota.queues →
    freeIndex ((engineOf s r).queues.map (·.1)) 0 1024 = some k →
    ∃ t, exec (.queueCreate c r width consumer high low publish watermark reset producers) s = .next t ∧
      replied c { status := .ok, words := [BitVec.ofNat 32 (queueHandle r k)] } s t ∧
      t = { s with engines := t.engines, rings := t.rings } ∧ (∀ i, i ≠ r → engineOf t i = engineOf s i) ∧
      queueOf t r k = some {
        part := c.part, width := width, consumer := consumer, high := high, low := low, publish := publish
        watermark := watermark, reset := reset, qgen := tgetD k 0 (engineOf s r).gens
        eps := producers.map (fun p => { unit := p.1, module := p.2 }) } ∧
      (∀ i, i ≠ k → queueOf t r i = queueOf s r i) ∧ queueOf s r k = none) ∧
  (∀ (c : Cmd) (h r k : Nat) (q : Queue) (s : State), queueRef h = some (r, k) → queueOf s r k = some q →
    let live := q.part = c.part ∧ q.resetting = false ∧ q.destroy = none ∧ (engineOf s r).freeA = (engineOf s r).freeB ∧ q.ptrA = q.ptrB
    let others := fun (t : State) => (∀ i, i ≠ r → engineOf t i = engineOf s i) ∧ ∀ j, j ≠ k → queueOf t r j = queueOf s r j
    let told := fun (t : State) (d : Cmd) (st : Status) => ∃ y, y ∈ (ringOf t d.fn d.ring).replies ∧ y.cmd = d ∧ y.answer = { status := st }
    (∀ (ep module : Nat) (delta : Int) (e : Endpoint), live → q.eps[ep]? = some e →
      ((0 ≤ delta ∧ delta ≤ (freeSlots (engineOf s r) : Int) ∧ (e.grant : Int) + delta ≤ 6144 ∧
          (grantsOfPart s c.part : Int) + delta ≤ ((partOf s c.part).quota.queueSlots : Int)) ∨
        (delta < 0 ∧ e.module = ownModule s ∧ -delta ≤ (e.held : Int)) →
        ∃ t, exec (.queueCredit c h ep false delta module) s = .next t ∧ replied c { status := .ok } s t ∧ others t ∧
          t = { s with engines := t.engines, rings := t.rings, out := t.out } ∧
          queueOf t r k = some { q with eps := lset ep { e with
            grant := ((e.grant : Int) + delta).toNat, held := ((e.held : Int) + delta).toNat, disconnected := false } q.eps } ∧
          (if e.module = ownModule s then t.out = s.out
           else ∃ x, t.out = { s.out with packets := s.out.packets ++ [x], arbs := t.out.arbs } ∧
             x.type = .queueCreditReturn ∧ x.dst = e.module)) ∧
      (delta < 0 → e.module ≠ ownModule s →
        ∃ t x, exec (.queueCredit c h ep false delta module) s = .next t ∧ x.type = .queueCreditReturn ∧ x.dst = e.module ∧
          t = { s with
            creditOps := s.creditOps ++ [{ cmd := c, module := e.module, queue := queueHandle r k, endpoint := ep, delta := delta }]
            out := { s.out with packets := s.out.packets ++ [x], arbs := t.out.arbs } })) ∧
    (∀ timeout, live → q.midItems ≠ 0 →
      ∃ t, exec (.queueFlush c h timeout) s = .next t ∧ t = { s with engines := t.engines } ∧ others t ∧
        queueOf t r k = some { q with flushes := q.flushes ++ [(c, timeout)] }) ∧
    (∀ (i : Instr) (timeout index : Nat) (fs : List (Cmd × Nat)) (f : Cmd × Nat) (late : Bool),
      (i = .queueFlush c h timeout ∧ live ∧ q.midItems = 0 ∧ fs = q.flushes ++ [(c, timeout)] ∧ late = false) ∨
        (i = .queueFlushBoundary h ∧ q.midItems = 0 ∧ q.flushes ≠ [] ∧ fs = q.flushes ∧ late = false) ∨
        (i = .queueFlushTimeout ⟨h, index⟩ ∧ q.flushes[index]? = some f ∧ f.2 ≠ 0 ∧ fs = q.flushes ∧ late = true) →
      let ks := chainOf (engineOf s r).slots 6144 q.ptrA.head
      ∃ t q', exec i s = .next t ∧ queueOf t r k = some q' ∧ others t ∧ q'.ptrA.head = none ∧ q'.ptrA.tail = none ∧ q'.flushes = [] ∧
        q'.midItems = 0 ∧ q'.occ = q.occ - ks.length ∧ q'.stats.flushes = min 0xFFFFFFFF (q.stats.flushes + fs.length) ∧
        (late = true → q'.blankNext = true) ∧ (late = false → q'.blankNext = q.blankNext) ∧
        (∀ x, x ∈ ks → x ∈ (engineOf t r).freeA ∧ tget x (engineOf t r).slots = none) ∧
        (∀ x, x ∈ fs → told t x.1 (if late = true ∧ x = f then .timeout else .ok)) ∧
        (q.watermark = 0xFFFFFFFF → t = { s with engines := t.engines, rings := t.rings })) ∧
    (live → (∀ e, e ∈ q.eps → e.module = ownModule s) →
      ∃ t, exec (.queueDestroy c h) s = .next t ∧ told t c .ok ∧ (∀ x, x ∈ q.flushes → told t x.1 .ok) ∧
        queueOf t r k = none ∧ others t ∧ tget k (engineOf t r).gens = some (q.qgen + 1) ∧
        (q.watermark = 0xFFFFFFFF → t = { s with engines := t.engines, rings := t.rings })) ∧
    (∀ ep e, live → q.eps[ep]? = some e → e.module ≠ ownModule s →
      ∃ t q' d x, exec (.queueDestroy c h) s = .next t ∧ queueOf t r k = some q' ∧ q'.destroy = some (c, d) ∧ ep ∈ d ∧
        q'.qgen = q.qgen + 1 ∧ (∀ y, y ∈ q'.eps → y.grant = 0 ∧ y.held = 0) ∧ x ∈ t.out.packets ∧ x.type = .queueOp ∧ x.dst = e.module ∧
        others t) ∧
    (∀ left, q.destroy = some (c, left) →
      ∃ t, exec (.queueDestroyTimeout h) s = .next t ∧ replied c { status := .timeout } s t ∧ queueOf t r k = none ∧
        t = { s with engines := t.engines, rings := t.rings } ∧ others t) ∧
    (∀ ep, q.destroy = some (c, [ep]) →
      ∃ t, exec (.revocationAck h ep) s = .next t ∧ replied c { status := .ok } s t ∧ queueOf t r k = none ∧
        t = { s with engines := t.engines, rings := t.rings } ∧ others t) ∧
    ∀ ep left, q.destroy = some (c, left) → left.filter (· != ep) ≠ [] →
      ∃ t, exec (.revocationAck h ep) s = .next t ∧ queueOf t r k = some { q with destroy := some (c, left.filter (· != ep)) } ∧
        t = { s with engines := t.engines } ∧ others t) ∧
  ∀ (c : Cmd) (h ep m : Nat) (delta : Int) (s : State), m ≠ ownModule s → (queueRef h).isSome = true → ep < 8 →
    (∀ p, proxyOf s m h ep = some p → p.part = c.part) → (delta < 0 → ∃ p, proxyOf s m h ep = some p ∧ -delta ≤ (p.held : Int)) →
    ∃ t x, exec (.queueCredit c h ep true delta m) s = .next t ∧ x.type = .queueOp ∧ x.dst = m ∧ x.part = c.part ∧
      t = { s with
        proxies := t.proxies, creditOps := s.creditOps ++ [{ cmd := c, module := m, queue := h, endpoint := ep, delta := delta }]
        out := { s.out with packets := s.out.packets ++ [x], arbs := t.out.arbs } } ∧
      (0 ≤ delta → t.proxies = s.proxies)

/-- R208, R212: QOPEN by an endpoint's own unit with a credit, and no packet of it open, takes one slot, opens the packet there and
lowers the endpoint's held count by one; QPUSH of an item of the queue's width takes one slot for it, links it behind the open packet
and counts it. The occupancy rises by one, nothing is published, and the unit is released with ST_OK.

R208, R217, R219: QCLOSE with the length its items make, no uncorrectable item, the placement epoch of its QOPEN and no flush since,
publishes the packet: it becomes the tail, and the head of an empty queue, its header takes the length, and the endpoint has no open
packet. Of a packet whose epoch is old the slots are freed and the packet is counted stale. The unit is released with ST_OK.

R206, R207, R209, R211, R217: QUEUE_POP by the queue's consumer of an empty queue, or the first after a flush's timeout, returns the blank
item and counts it, changing no pointer; of the head slot it returns the slot's 256-byte image, the head passes to the slot's successor, the slot is freed and the
occupancy falls by one. -/
def Obligations.QueuePackets : Prop :=
  (∀ (u : UnitId) (h r k ep x : Nat) (tag : BitVec 32) (payload : List Byte) (q : Queue) (e : Endpoint) (o : Nat × Nat)
    (eng : QueueEngine) (s : State), h < 2 ^ 16 → queueRef h = some (r, k) →
    checkQueue r k (unitPart s u h) u (.producer ep) s = (.inr q, s) → q.eps[ep]? = some e → noCredit (ownModule s) u e = false →
    takeSlot k (engineOf s r) = some (x, eng) →
    ∀ (i : Instr) (hd : Nat) (slot : Slot) (items : Nat) (pushes : Nat),
      ((i = .qopen u h ep tag ∧ tget ep q.ptrA.opens = none ∧ hd = x ∧ items = 0 ∧ pushes = q.stats.pushes ∧
          slot = { kind := 1, qgen := q.qgen, epoch := (partOf s (unitPart s u h)).epoch, producer := ep, length := 0xFFFFFFFF, tag := tag }) ∨
        (i = .qpush u h ep payload ∧ tget ep q.ptrA.opens = some o ∧ hd = o.1 ∧ payload.length = q.width * 16 ∧ e.openItems < 6142 ∧
          items = e.openItems + 1 ∧ pushes = min 0xFFFFFFFF (q.stats.pushes + 1) ∧
          slot = { kind := 2, qgen := q.qgen, epoch := e.openEpoch, producer := ep, length := BitVec.ofNat 32 e.openItems, payload := payload })) →
      ∃ t q' e', exec i s = .next t ∧ queueOf t r k = some q' ∧ q'.occ = q.occ + 1 ∧ q'.ptrA.head = q.ptrA.head ∧
        q'.ptrA.tail = q.ptrA.tail ∧ tget ep q'.ptrA.opens = some (hd, x) ∧ tget x (engineOf t r).slots = some slot ∧
        q'.eps[ep]? = some e' ∧ e'.held = e.held - 1 ∧ e'.openItems = items ∧ (∀ j, j ≠ ep → q'.eps[j]? = q.eps[j]?) ∧
        q'.stats = { q.stats with pushes := pushes } ∧ q'.qgen = q.qgen ∧
        (∀ j, j ≠ k → queueOf t r j = queueOf s r j) ∧ (∀ j, j ≠ r → engineOf t j = engineOf s j) ∧
        t.out.releases.getLast? = some { unit := u, status := .ok } ∧ t.parts = s.parts ∧ t.mem.hbm = s.mem.hbm ∧
        t.mem.palette = s.mem.palette ∧ t.mem.acc = s.mem.acc) ∧
  (∀ (u : UnitId) (h r k ep : Nat) (length : BitVec 32) (q : Queue) (e : Endpoint) (o : Nat × Nat) (s : State),
    h < 2 ^ 16 → queueRef h = some (r, k) →
    checkQueue r k (unitPart s u h) u (.producer ep) s = (.inr q, s) → q.eps[ep]? = some e → tget ep q.ptrA.opens = some o →
    length ≠ 0xFFFFFFFF → length.toNat = e.openItems → e.discardOpen = false →
    (e.openEpoch = (partOf s (unitPart s u h)).epoch → (tget o.1 (engineOf s r).slots).isSome = true →
      ∃ t q' e' slot, exec (.qclose u h ep length false) s = .next t ∧ queueOf t r k = some q' ∧
        q'.ptrA.head = some (q.ptrA.head.getD o.1) ∧ q'.ptrA.tail = some o.2 ∧ tget ep q'.ptrA.opens = none ∧ q'.occ = q.occ ∧
        tget o.1 (engineOf t r).slots = some slot ∧ slot.length = BitVec.ofNat 32 e.openItems ∧
        q'.eps[ep]? = some e' ∧ e' = { e with openItems := 0, openJob := none } ∧ q'.stats = q.stats ∧
        (∀ j, j ≠ k → queueOf t r j = queueOf s r j) ∧ t.out.releases.getLast? = some { unit := u, status := .ok } ∧
        t.parts = s.parts ∧ t.mem.hbm = s.mem.hbm ∧ t.mem.palette = s.mem.palette ∧ t.mem.acc = s.mem.acc) ∧
    (e.openEpoch ≠ (partOf s (unitPart s u h)).epoch →
      ∃ t q', exec (.qclose u h ep length false) s = .next t ∧ queueOf t r k = some q' ∧ q'.ptrA.head = q.ptrA.head ∧
        q'.ptrA.tail = q.ptrA.tail ∧ tget ep q'.ptrA.opens = none ∧ q'.stats = { q.stats with stale := min 0xFFFFFFFF (q.stats.stale + 1) } ∧
        t.out.releases.getLast? = some { unit := u, status := .ok } ∧ t.parts = s.parts ∧ t.mem.hbm = s.mem.hbm)) ∧
  (∀ (u : UnitId) (h r k : Nat) (q : Queue) (s : State), queueRef h = some (r, k) →
    checkQueue r k (unitPart s u h) u .consumer s = (.inr q, s) →
    (q.ptrA.head = none ∨ q.blankNext = true →
      ∃ t, exec (.queuePop u h false) s = .next t ∧ t = { s with engines := t.engines, out := t.out } ∧
        queueOf t r k = some { q with blankNext := false, stats := { q.stats with blanks := min 0xFFFFFFFF (q.stats.blanks + 1) } } ∧
        t.out = { s.out with
          packets := s.out.packets ++ [imagePacket s r h u (blankImage q.qgen)], releases := s.out.releases ++ [{ unit := u, status := .ok }], arbs := t.out.arbs }) ∧
    ∀ x slot, q.blankNext = false → q.ptrA.head = some x → tget x (engineOf s r).slots = some slot →
      ∃ t q', exec (.queuePop u h false) s = .next t ∧ queueOf t r k = some q' ∧ q'.occ = q.occ - 1 ∧
        q'.ptrA.head = (if q.ptrA.tail = some x then none else slot.next) ∧
        q'.ptrA.tail = (if q.ptrA.tail = some x then none else q.ptrA.tail) ∧
        q'.stats = { q.stats with pops := min 0xFFFFFFFF (q.stats.pops + 1) } ∧ tget x (engineOf t r).slots = none ∧
        x ∈ (engineOf t r).freeA ∧ (∀ j, j ≠ k → queueOf t r j = queueOf s r j) ∧ (∀ j, j ≠ r → engineOf t j = engineOf s j) ∧
        t.out.releases.getLast? = some { unit := u, status := .ok } ∧
        (t.out.packets.getLast?).map (fun p => (p.type, p.dst, p.dstUnit, p.data)) =
          some (.readData, u.module, u.unit, slotImage slot) ∧
        t.parts = s.parts ∧ t.mem.hbm = s.mem.hbm ∧ t.mem.palette = s.mem.palette ∧ t.mem.acc = s.mem.acc)

/-- R213, R214, R216, R218, R220: at the module of a remote queue's producer, a QOPEN with a credit is forwarded and charged at the
proxy; a credit return sets the proxy's held count to G − (pushed − returned); a QGEN update renews its counts; a lost producer's proxy
is disconnected; a revocation removes it and is acknowledged. At the queue's module, a credit return sends the credits in transit.

R211, R213, R219, R220: a QUEUE_OP of another module's unit of the queue's partition opens, pushes or closes under the queue's QGEN as the
local operation does, a close being acknowledged; under an older QGEN it is dropped, the packet counted at its close. One that brings a
credit grant the queue can give adds it and answers the proxy. The end of a reset, of a queue with local producers and no object to tell, empties both copies of
the pointers, gives every endpoint its grant back, advances QGEN and counts the reset. -/
def Obligations.RemoteQueues : Prop :=
  (∀ (u : UnitId) (m q ep r k : Nat) (tag : BitVec 32) (qgen : BitVec 8) (x : Proxy) (p : Pkt) (y : Queue) (e : Endpoint) (s : State),
    q < 2 ^ 16 → s.proxies = [x] → isProxy m q ep x = true →
    (unitPart s u ((m + 1) * 2 ^ 16 + q) = x.part → x.disconnected = false → 0 < x.held →
      ∃ t z, exec (.qopen u ((m + 1) * 2 ^ 16 + q) ep tag) s = .next t ∧
        t.proxies = [{ x with held := x.held - 1, pushed := x.pushed + 1, openJob := (partOf s x.part).holder }] ∧
        t = { s with proxies := t.proxies, out := { s.out with
          packets := s.out.packets ++ [z], releases := s.out.releases ++ [{ unit := u, status := .ok }], arbs := t.out.arbs } } ∧
        z.type = .queueOp ∧ z.dst = m ∧ z.data = toLe 1 x.qgen.toNat ++ toLe 4 tag.toNat) ∧
    (p.src = m → p.arg2.toNat % 2 ^ 16 = q → p.status = 0 →
      ∃ t, exec (.queueCreditReturn p ep) s = .next t ∧ t = { s with proxies := t.proxies } ∧
        t.proxies = [{ x with
          returned := BitVec.ofNat 32 p.arg.toNat, held := x.grant - (x.pushed - BitVec.ofNat 32 p.arg.toNat).toNat }]) ∧
    (∃ t, exec (.proxyQgenUpdate m q ep qgen) s = .next t ∧
      t.proxies = [{ x with qgen := qgen, held := x.grant, pushed := 0, returned := 0, openJob := none }] ∧ t.engines = s.engines ∧
      t.mem = s.mem ∧ (s.parts.any (fun e => stageUses s e.2.stage m q) = false → t = { s with proxies := t.proxies })) ∧
    (∃ t k, exec (.proxyRevocation m q ep) s = .next t ∧
      t = { s with proxies := [], out := { s.out with packets := s.out.packets ++ [k], arbs := t.out.arbs } } ∧ k.type = .queueOp ∧ k.dst = m) ∧
    (queueRef q = none ∨ (queueRef q = some (r, k) ∧ queueOf s r k = none) →
      ∃ t, exec (.producerDisconnect q ep m) s = .next t ∧
        t = { s with
          proxies := [{ x with disconnected := true, closing := none }]
          out := { s.out with releases := s.out.releases ++
            x.closing.toList.map fun u => { unit := u, status := .remoteWriteFailed } } }) ∧
    (queueRef q = some (r, k) → queueOf s r k = some y → y.eps[ep]? = some e → e.module ≠ ownModule s →
      (tget ep y.ptrA.opens = none → y.ptrA = y.ptrB →
        ∃ t, exec (.producerDisconnect q ep e.module) s = .next t ∧
          t = { s with proxies := t.proxies, engines := t.engines, out := { s.out with releases := t.out.releases } } ∧
          queueOf t r k = some { y with eps := lset ep { e with disconnected := true } y.eps } ∧
          ∀ j, j ≠ k → queueOf t r j = queueOf s r j) ∧
      (e.transit ≠ 0 →
        ∃ t z, exec (.creditReturnSend q ep) s = .next t ∧ t = { s with engines := t.engines, out := { s.out with packets := s.out.packets ++ [z], arbs := t.out.arbs } } ∧
          z.type = .queueCreditReturn ∧ z.dst = e.module ∧ z.arg = BitVec.ofNat 64 e.freed.toNat ∧
          queueOf t r k = some { y with eps := lset ep { e with held := e.held + e.transit, transit := 0 } y.eps } ∧
          ∀ j, j ≠ k → queueOf t r j = queueOf s r j))) ∧
  (∀ (p : Pkt) (ep r k h : Nat) (qgen : BitVec 8) (req : QueueReq) (q : Queue) (s : State), queueOf s r k = some q →
    (queueRef (p.arg2.toNat % 2 ^ 16) = some (r, k) →
      q.part = p.part →
      let a := requestOf r k p.part ep ⟨p.src, p.srcUnit, p.srcInc⟩ req s
      let close := ∃ n bad, req = .close n bad
      ((∃ tag, req = .open tag) ∨ (∃ bs, req = .push bs) ∨ close →
        (q.qgen = qgen → a.1.1 = .ok →
          (¬ close → exec (.queueOp p ep qgen req) s = .next a.2) ∧
          (close → ∃ t z, exec (.queueOp p ep qgen req) s = .next t ∧ z.type = .ack ∧ z.dst = p.src ∧ z.dstUnit = p.srcUnit ∧
            t = { a.2 with out := { a.2.out with packets := a.2.out.packets ++ [z], arbs := t.out.arbs } })) ∧
        (q.qgen ≠ qgen →
          (¬ close → exec (.queueOp p ep qgen req) s = .next s) ∧
          (close → ∃ t z, exec (.queueOp p ep qgen req) s = .next t ∧ z.type = .ack ∧ z.dst = p.src ∧
            t = { s with engines := t.engines, out := { s.out with packets := s.out.packets ++ [z], arbs := t.out.arbs } } ∧
            queueOf t r k = some { q with stats := { q.stats with stale := min 0xFFFFFFFF (q.stats.stale + 1) } }))) ∧
      ∀ (delta : Int) (e : Endpoint), req = .credit delta → q.eps[ep]? = some e → e.module = p.src → 0 ≤ delta →
        grantRefused s p.part r delta e = false →
        ∃ t z, exec (.queueOp p ep qgen req) s = .next t ∧ z.type = .queueCreditReturn ∧ z.dst = p.src ∧
          t = { s with engines := t.engines, out := { s.out with packets := s.out.packets ++ [z], arbs := t.out.arbs } } ∧
          queueOf t r k = some { q with eps := lset ep { e with
            grant := ((e.grant : Int) + delta).toNat, held := ((e.held : Int) + delta).toNat, disconnected := false } q.eps }) ∧
    (queueRef h = some (r, k) → q.resetting = true → q.reset = 0xFFFFFFFF → q.watermark = 0xFFFFFFFF →
      (∀ e, e ∈ q.eps → e.module = ownModule s) →
      ∃ t q', exec (.queueResetEnd h) s = .next t ∧ queueOf t r k = some q' ∧ q'.ptrA = {} ∧ q'.ptrB = {} ∧ q'.qgen = q.qgen + 1 ∧
        q'.resetting = false ∧ q'.occ = 0 ∧ q'.stats.resets = min 0xFFFFFFFF (q.stats.resets + 1) ∧
        (∀ e, e ∈ q'.eps → e.held = e.grant ∧ e.openItems = 0) ∧ (∀ j, j ≠ k → queueOf t r j = queueOf s r j) ∧
        (engineOf t r).freeA = (engineOf t r).freeB ∧ t.mem = s.mem))

/-- R225, R226: the order of a stage's passes holds each micro-batch's forward once and its backward once, the forward first; under
one-forward-one-backward no more than STAGES − INDEX micro-batches are in flight at once. -/
def Obligations.StageOrder : Prop :=
  ∀ (g : StageCfg), g.index < g.stages →
    (∀ i, i < g.nmb → (stageOrder g).count (.forward i) = 1 ∧ (stageOrder g).count (.backward i) = 1) ∧
    (stageOrder g).length = 2 * g.nmb ∧
    (∀ i pre post, stageOrder g = pre ++ Pass.backward i :: post → Pass.forward i ∈ pre) ∧
    (g.fillDrain = false → ∀ pre post, stageOrder g = pre ++ post →
      pre.countP (fun p => match p with | .forward _ => true | .backward _ => false) ≤
        pre.countP (fun p => match p with | .forward _ => false | .backward _ => true) + (g.stages - g.index))

/-- R224, R229 to R231: STAGE_CONFIG that passes its checks sets the configuration; STAGE_RUN of a configured stage at rest starts a
step with the passes of its order and stays started; STAGE_DRAIN of a stage at rest answers at once, and behind a step with
micro-batches in flight waits, with its cut in force; its timeout answers ST_TIMEOUT; STAGE_OFFLOAD within its bounds sets k, T and the
host buffer. Nothing but the partition's stage changes.

R224 to R229: a pass that is next in its stage's step, with its input packet taken, gives its command list to the region keepers, and with
its commands ended well publishes its output, where it has one, and is done: a forward's micro-batch is then in flight; a backward's has
added its gradients to the step's buffers, has left, with the host buffer it held, and is counted, and the last one ends the step with ST_OK and the counts. A pass whose
input queue is empty waits, and the wait is stall time.

R231, R232: the activations of a micro-batch's earliest layer not off-loaded yet, with enough tokens, leave for free space of the host
buffer, which the step then holds, and return from there, highest layer first, when the micro-batch's backward is next: each copy starts
as a DMA transfer of the layer's bytes and is noted in the step. -/
def Obligations.StageRuns : Prop :=
  (∀ (c : Cmd) (g : StageCfg) (schedule step cut timeout k tokens hostBuf hostBytes bytesPerLayer : Nat) (r : StageRunState) (d : Cmd × Nat) (s : State),
    let st := (partOf s c.part).stage
    ∀ (i : Instr) (st' : Stage) (answered : Option (Cmd × Status)),
      ((i = .stageConfig c g.stages g.index g.nmb g.inFlight schedule g.fwdIn g.fwdOut g.bwdIn g.bwdOut g.fwdOutModule g.bwdOutModule
            g.plan g.fwdList g.bwdList ∧ g.fillDrain = (schedule == 1) ∧ checkStage s c.part g = none ∧
          st' = { st with cfg := some g } ∧ answered = some (c, .ok)) ∨
        (i = .stageRun c step ∧ st.cfg = some g ∧ st.run = none ∧
          st' = { st with run := some { cmd := c, passes := stageOrder g }, cut := none } ∧ answered = none) ∨
        (i = .stageDrain c cut timeout ∧ st.cfg = some g ∧ cut ≤ g.nmb ∧ st.drain = none ∧ st.run = none ∧
          st' = { st with cut := some cut } ∧ answered = some (c, .ok)) ∨
        (i = .stageDrain c cut timeout ∧ st.cfg = some g ∧ cut ≤ g.nmb ∧ st.drain = none ∧ st.run = some r ∧ r.inFlight ≠ [] ∧
          st' = { st with drain := some (c, timeout), cut := some cut } ∧ answered = none) ∨
        (i = .stageDrainTimeout c.part ∧ st.drain = some d ∧ d.2 ≠ 0 ∧
          st' = { st with drain := none } ∧ answered = some (d.1, .timeout)) ∨
        (i = .stageOffload c k tokens hostBuf hostBytes bytesPerLayer ∧
          k ≤ (st.cfg.bind fun g => (tget g.plan s.plans).map fun p => p.body.layers).getD 0 ∧
          (∃ key, localRange s c.part hostBuf hostBytes = some (.host, key)) ∧ k * (st.cfg.map stagePeak).getD 0 * bytesPerLayer ≤ hostBytes ∧
          st' = { st with offloadK := k, offloadT := tokens, hostBuf := hostBuf, hostBytes := hostBytes, layerBytes := bytesPerLayer } ∧
          answered = some (c, .ok))) →
      ∃ t, exec i s = .next t ∧ partOf t c.part = { partOf s c.part with stage := st' } ∧ (∀ n, n ≠ c.part → partOf t n = partOf s n) ∧
        t = { s with parts := t.parts, rings := t.rings } ∧
        match answered with
        | none => t.rings = s.rings
        | some a => replied a.1 { status := a.2 } s t) ∧
  (∀ (part mb : Nat) (items : List (List Byte)) (grads : List (Nat × List Lane)) (g : StageCfg) (r : StageRunState) (s s1 s2 : State)
      (d : Nat) (fwd : Bool),
    stageReady s part (if fwd then .forward mb else .backward mb) = some (g, r) →
    (fwd = false → (r.offloaded.any fun e => e.1 == mb && !r.returned.contains e) = false) →
    let i : Instr := if fwd then .forwardPass part mb items 0 else .backwardPass part mb ⟨items, grads⟩ 0
    let noIn := if fwd then g.index = 0 else g.index + 1 = g.stages
    let noOut := if fwd then g.index + 1 = g.stages else g.index = 0
    let q := if fwd then g.fwdIn else g.bwdIn
    ((noIn ∧ s1 = s ∨ ¬ noIn ∧ takeInput part q mb s = .taken s1) →
      let s1' := modOut (fun o => { o with lists := o.lists ++ [(part, g.plan, if fwd then g.fwdList else g.bwdList, mb)] })
        (endWaits part (modRun part (endStall s.time.now) s1))
      (noOut ∧ s2 = s1' ∨
        ¬ noOut ∧ publishOut part (if fwd then g.fwdOutModule else g.bwdOutModule) (if fwd then g.fwdOut else g.bwdOut) mb items s1' =
          ((.ok, d), s2)) →
      ∀ r2, (partOf s2 part).stage.run = some r2 →
        (fwd = true → ∃ t, exec i s = .next t ∧
          (partOf t part).stage.run = some { r2 with passes := r2.passes.erase (.forward mb), inFlight := r2.inFlight ++ [mb] } ∧
          t = { s2 with parts := t.parts } ∧ ∀ n, n ≠ part → partOf t n = partOf s2 n) ∧
        (fwd = false → r2.passes.erase (.backward mb) ≠ [] → (partOf s2 part).stage.drain = none → ∃ t, exec i s = .next t ∧
          t = { addGrads part grads s2 with parts := t.parts } ∧ (partOf t part).stage.run = some { r2 with
            passes := r2.passes.erase (.backward mb), inFlight := r2.inFlight.erase mb, completed := r2.completed + 1
            offloaded := r2.offloaded.filter (·.1 != mb), returned := r2.returned.filter (·.1 != mb)
            buffer := r2.buffer.filter fun c => c.mb != mb || r2.offloading.contains (c.mb, c.layer) }) ∧
        (fwd = false → r2.passes = [.backward mb] → (partOf s2 part).stage.drain = none → ∃ t, exec i s = .next t ∧
          (partOf t part).stage.run = none ∧
          t = { addGrads part grads s2 with parts := t.parts, rings := t.rings, objects := t.objects } ∧
          replied r2.cmd { status := .ok, words := [BitVec.ofNat 32 (r2.completed + 1), BitVec.ofNat 32 (r2.stallNs / 1000), BitVec.ofNat 32 0] } s2 t)) ∧
    (¬ noIn → takeInput part q mb s = .absent →
      ∃ t, exec i s = .next t ∧
        t = { s with parts := t.parts, objects := t.objects, rings := t.rings, out := t.out, log := t.log, pkg := t.pkg } ∧
        (∀ n, n ≠ part → partOf t n = partOf s n) ∧
        (partOf t part).stage.run = some { r with waitFrom := some (r.waitFrom.getD s.time.now) })) ∧
  (∀ (part mb layer tokens addr host bytes channel k : Nat) (r : StageRunState) (s : State), (partOf s part).stage.run = some r →
    let st := (partOf s part).stage
    let region := regionOfHbm (addr % 2 ^ 47) % 8
    pickChannel s region channel = some k →
    ∀ (i : Instr) (src dst : Nat) (purpose : DmaFor) (r' : StageRunState),
      ((i = .activationOffload part mb layer tokens addr host bytes channel ∧ src = addr ∧ dst = host ∧ purpose = .offload part mb layer ∧
          layer < st.offloadK ∧ st.offloadT ≤ tokens ∧ ((r.offloading ++ r.offloaded).filter fun e => e.1 == mb).length = layer ∧
          (mb ∈ r.inFlight ∨ nextPass st.cut r = some (.forward mb)) ∧ hostFits st r host bytes = true ∧
          r' = { r with offloading := r.offloading ++ [(mb, layer)], buffer := r.buffer ++ [⟨mb, layer, host, bytes⟩] }) ∨
        (i = .activationReturn part mb layer host addr bytes channel ∧ src = host ∧ dst = addr ∧ purpose = .bring part mb layer ∧
          nextReturn r mb layer = true ∧ nextPass st.cut r = some (.backward mb) ∧
          ⟨mb, layer, host, bytes⟩ ∈ r.buffer ∧ r' = { r with returning := some (mb, layer) })) →
      checkStarts s part src dst .copy = none → checkExtents s part src dst bytes .copy = none →
      ∃ t x, exec i s = .next t ∧ (partOf t part).stage.run = some r' ∧ (∀ n, n ≠ part → partOf t n = partOf s n) ∧
        t = { s with parts := t.parts, channels := t.channels, out := { s.out with packets := t.out.packets, arbs := t.out.arbs } } ∧
        (∀ q, q ≠ channelKey region k → tget q t.channels = tget q s.channels) ∧
        (channelOf t region k).transfers = (channelOf s region k).transfers ++ [x] ∧
        (x.purpose, x.part, x.op, x.src, x.dst, x.length) = (purpose, part, .copy, src, dst, bytes))

/-- R295, R297, R299, R300: an 8-byte doorbell write at its ring's offset, to a live ring pair and with the ring's present epoch, sets
SUBMIT to a count of at most a ring's size of new packets, or CONSUMED to a count that takes back no reply. One at another size or
offset, or to a pair that is not live, changes nothing but the ring's count of discarded writes and the log.

R297, R298, R305, R347: COMMAND_FETCH of a live ring with packets submitted takes the slot's packet and advances FETCHED and the
fetch pointer; COMMAND_START of its oldest packet, once it may start, starts its command where every intake check passes (and gives its
job the cores where its class needs them), and else holds a reply with the first failing check's status. Nothing else changes. -/
def Obligations.HostIntake : Prop :=
  (∀ (fn k offset size : Nat) (value : Word) (s : State), k < 4 →
    let r := ringOf s fn k
    (ringLive r = true → (value >>> 32).truncate 16 = r.epoch → value.toNat / 2 ^ 48 = 0 →
      ((value.truncate 32 - r.fetched).toNat ≤ ringSize r →
        ∃ t, exec (.submitDoorbell fn (64 * k) 8 value) s = .next t ∧ t = { s with rings := t.rings } ∧
          ringOf t fn k = { r with submitBell := value, submit := if value.truncate 32 = r.fetched then r.submit else value.truncate 32 } ∧
          ∀ j, j ≠ ringKey fn k → tget j t.rings = tget j s.rings) ∧
      ((r.completed - value.truncate 32).toNat ≤ unconsumed r →
        ∃ t, exec (.completionDoorbell fn (64 * k + 8) 8 value) s = .next t ∧ t = { s with rings := t.rings } ∧
          ringOf t fn k = { r with completionBell := value, consumed := value.truncate 32 } ∧
          ∀ j, j ≠ ringKey fn k → tget j t.rings = tget j s.rings)) ∧
    ((size ≠ 8 ∨ ringLive (ringOf s fn (offset / 64 % 4)) = false) → ∀ i, i ∈ [Instr.submitDoorbell fn offset size value, .completionDoorbell fn offset size value] →
      ∃ t, exec i s = .next t ∧ t = { s with rings := t.rings, log := t.log, pkg := t.pkg } ∧
        ringOf t fn (offset / 64 % 4) = { ringOf s fn (offset / 64 % 4) with
          discards := min 0xFFFFFFFF ((ringOf s fn (offset / 64 % 4)).discards + 1) })) ∧
  (∀ (fn ring : Nat) (bytes : List Byte) (p : Packet) (rest : List Packet) (s : State), fn ≤ 16 → ring < 4 →
    let r := ringOf s fn ring
    (ringLive r = true → r.submit ≠ r.fetched → serves s = true →
      ∃ t, exec (.commandFetch fn ring bytes) s = .next t ∧ t = { s with rings := t.rings } ∧
        ringOf t fn ring = { r with
          packets := r.packets ++ [parsePacket (r.count + 1) bytes], unfinished := r.unfinished ++ [r.count + 1], count := r.count + 1
          fetched := r.fetched + 1, fetchPtr := (r.fetchPtr + 1) % ringSize r } ∧
        ∀ j, j ≠ ringKey fn ring → tget j t.rings = tget j s.rings) ∧
    (r.packets = p :: rest → mayStart s fn ring p = true →
      (intake s fn p bytes = none →
        ∃ t, exec (.commandStart fn ring bytes) s = .next t ∧ t = { s with rings := t.rings, parts := t.parts } ∧
          ringOf t fn ring = { r with packets := rest, started := r.started ++ [cmdOf fn ring p] } ∧
          (∀ j, j ≠ ringKey fn ring → tget j t.rings = tget j s.rings) ∧ (∀ n, n ≠ p.part.toNat → partOf t n = partOf s n) ∧
          (if needsCores p then partOf t p.part.toNat = { partOf s p.part.toNat with holder := some (if fn = 16 then 4 else ring) }
            else t.parts = s.parts)) ∧
      ∀ e, intake s fn p bytes = some e →
        ∃ t, exec (.commandStart fn ring bytes) s = .next t ∧ t = { s with rings := t.rings } ∧
          ringOf t fn ring = { r with
            packets := rest
            replies := r.replies ++ [{ cmd := cmdOf fn ring p, answer := { status := e.1, detail := e.2.1 }, time := s.time.now, isSignalled := e.2.2 }] } ∧
          ∀ j, j ≠ ringKey fn ring → tget j t.rings = tget j s.rings))

/-- R299, R306: REPLY_WRITE of a live ring whose completion ring has room writes the oldest held reply's 32 bytes into the next entry
and then the completion record, and advances COMPLETED and the entry; where the record and the entry lie apart both read back. A final
reply of a command without a completion handle, message or pre-emption changes nothing else; one with a FLAG object EMPTY and without
waiters stores the completion value there.

R300, R301: REALIGNMENT at the latest qualifying boundary takes the packets and replies up to it off the counts, advances the epoch
and writes the record; RING_ERROR stops the pair, says so in the record and logs it. No other ring and no memory but the record
changes. -/
def Obligations.HostReplies : Prop :=
  (∀ (fn ring i : Nat) (p : Reply) (rest : List Reply) (o : SyncObj) (s : State), fn ≤ 16 → ring < 4 →
    let r := ringOf s fn ring
    let r' := { r with
      replies := rest, completed := r.completed + 1, cplPtr := (r.cplPtr + 1) % ringSize r, unfinished := r.unfinished.erase p.cmd.idx }
    let at_ := r.cplBase.toNat + r.cplPtr * 32
    s.keepers.headRestarting = false → ringLive r = true → ringFull r = false → r.replies = p :: rest → p.final = true →
    p.cmd.msix = false → p.cmd.fn = fn → p.cmd.ring = ring → r.interims.contains p.cmd.idx = false →
    (at_ + 32 ≤ r.recordAddr.toNat ∨ r.recordAddr.toNat + 64 ≤ at_) →
    (handleRef p.cmd.completion = .none →
      ∃ t, exec (.replyWrite fn ring) s = .next t ∧ t = { s with rings := t.rings, mem := t.mem } ∧ ringOf t fn ring = r' ∧
        (∀ j, j ≠ ringKey fn ring → tget j t.rings = tget j s.rings) ∧
        mreadN at_ 32 t.mem.host = replyBytes p ∧ mreadN r.recordAddr.toNat 64 t.mem.host = recordBytes s.time.now r' ∧
        (∀ x, (x < at_ ∨ at_ + 32 ≤ x) → (x < r.recordAddr.toNat ∨ r.recordAddr.toNat + 64 ≤ x) →
          mread x t.mem.host = mread x s.mem.host) ∧
        t.mem.hbm = s.mem.hbm ∧ t.mem.palette = s.mem.palette ∧ t.mem.acc = s.mem.acc) ∧
    (handleRef p.cmd.completion = .object i → tget i s.objects = some o → o.part = p.cmd.part → o.kind = .flag → o.full = false →
      o.waiters = [] → p.isSignalled = true →
      ∃ t o', exec (.replyWrite fn ring) s = .next t ∧ ringOf t fn ring = r' ∧ mreadN at_ 32 t.mem.host = replyBytes p ∧
        tget i t.objects = some o' ∧ o'.full = true ∧ o'.value = completionValue p.cmd.tag p.answer.status ∧
        ∀ k, k ≠ i → tget k t.objects = tget k s.objects)) ∧
  (∀ (fn ring b : Nat) (s : State), fn ≤ 16 → ring < 4 →
    let r := ringOf s fn ring
    let kept := fun (t : State) (r' : Ring) => ringOf t fn ring = r' ∧ (∀ j, j ≠ ringKey fn ring → tget j t.rings = tget j s.rings) ∧
      mreadN r.recordAddr.toNat 64 t.mem.host = recordBytes s.time.now r' ∧
      (∀ x, (x < r.recordAddr.toNat ∨ r.recordAddr.toNat + 64 ≤ x) → mread x t.mem.host = mread x s.mem.host) ∧
      t.mem.hbm = s.mem.hbm ∧ t.mem.palette = s.mem.palette ∧ t.mem.acc = s.mem.acc
    ((r.due.filter (qualifies r)).max? = some b →
      ∃ t, exec (.realignment fn ring) s = .next t ∧ t = { s with rings := t.rings, mem := t.mem } ∧ kept t { r with
        fetched := r.fetched - BitVec.ofNat 32 (b - r.base), submit := r.submit - BitVec.ofNat 32 (b - r.base)
        completed := r.completed - BitVec.ofNat 32 (repliesUpTo r b), consumed := r.consumed - BitVec.ofNat 32 (repliesUpTo r b)
        epoch := r.epoch + 1, realign := BitVec.ofNat 32 (b - r.base), realignCpl := BitVec.ofNat 32 (repliesUpTo r b), base := b
        interims := r.interims.filter (b < ·), due := r.due.filter (b < ·) }) ∧
    ∃ t, exec (.ringError fn ring true) s = .next t ∧ t = { s with rings := t.rings, mem := t.mem, log := t.log, pkg := t.pkg } ∧
      kept t { r with ringError := true })

/-- R320, R324, R326: SLOT_TRANSMIT of an UP port sends nothing new while 128 slots are unacknowledged, but from the oldest again; else the
new slot takes the port's next index and at most 16 frames, is kept for replay and leaves with its link word, and the next index follows;
one whose codewords are markers carries nothing but P2 frames of sub-channel 0. A slot being resent leaves with the bound fields it had.
SLOT_RECEIVE of 16 decoded codewords delivers the slot whose index is the next, once, and frees what its acknowledgement covers; its NAK
starts a resend after the last index delivered; one of another index or undecoded is not delivered. A full replay buffer resends from its
oldest slot. A port that is not UP sends no frame.

R316, R318, R330, R331, R340, R341: a packet for this module that comes in goes to its fabric; one for another leaves by the port its
route entry names, one hop older, a STREAM_OPEN with a stream number of its own, or, without a route, is dropped, counted and refused to its
source. A MSG_FRAME frees its buffer and brings in its packets, the reserved ones dropped and counted; a DATA_FRAME of an open stream brings
in its bytes and moves the stream on. Frames that wait without a credit raise the fog warning. The number a STREAM_OPEN bears in its status
field is the model's form of it (log entry 12). -/
def Obligations.LanternTraffic : Prop :=
  (∀ (port : Nat) (rx : SlotRx) (x : SentSlot) (rest : List SentSlot) (s : State), port < 6 →
    let p := portOf s port
    let ack := rx.link.toNat / 2 ^ 116 % 4096
    let idx := rx.link.toNat / 2 ^ 103 % 4096
    let good := rx.decoded = List.replicate 16 true
    let others := fun (t : State) => ∀ k, k ≠ port → portOf t k = portOf s k
    let sent := fun (t : State) (y : SentSlot) (up : Bool) => t.out = { s.out with slots := s.out.slots ++
      [{ port := port, slot := y, link := linkWord p y, marker := p.codewords % 8192 == 8191, lanes := p.laneTx, up := up
         count := p.codewords % 8192 }] }
    let clock := (p.slotClock + 1) % 4096
    let words := (p.codewords + 1) % 8192
    (isUp p = false → portDomain p = true →
      ∃ t y, exec (.slotTransmit port) s = .next t ∧ t = { s with lantern := t.lantern, out := t.out } ∧ others t ∧ sent t y false ∧
        y.frames = [] ∧ portOf t port = { p with state := 1, codewords := words }) ∧
    (isUp p = false → portDomain p = false → exec (.slotTransmit port) s = .next s) ∧
    (isUp p = false → exec (.slotReceive port rx) s = .next s) ∧
    (isUp p = true →
      (p.resending = none → p.replay.length < 128 →
        ∃ t y, exec (.slotTransmit port) s = .next t ∧ t = { s with lantern := t.lantern, out := t.out, pkg := t.pkg } ∧
          sent t y true ∧ t.pkg = { s.pkg with arbStats := t.pkg.arbStats } ∧
          y.index = p.txIndex ∧ y.frames.length ≤ 16 ∧ y.credits = p.freed ∧ y.p0 = p.p0Out.headD 0 ∧
          (p.codewords % 8192 = 8191 → ∀ f, f ∈ y.frames → f.cls = 2 ∧ f.subch = 0) ∧ (∀ f, f ∈ y.frames → f ∈ p.frames) ∧
          (portOf t port).replay = p.replay ++ [y] ∧ (portOf t port).txIndex = (p.txIndex + 1) % 4096 ∧
          (portOf t port).p0Out = p.p0Out.drop 1 ∧ (portOf t port).slotClock = clock ∧ (portOf t port).codewords = words ∧
          (portOf t port).rxNext = p.rxNext ∧ (portOf t port).state = 2 ∧ others t) ∧
      (p.resending = none → 128 ≤ p.replay.length → p.lostWords < 4096 → p.sameResends < 63 →
        ∃ t y q, exec (.slotTransmit port) s = .next t ∧ t = { s with lantern := t.lantern, out := t.out } ∧ others t ∧
          t.out = { s.out with slots := s.out.slots ++ [y] } ∧ y.port = port ∧ (y.slot ∈ p.replay ∨ y.slot.frames = []) ∧
          portOf t port = q ∧ q = { p with
            slotClock := clock, codewords := words, nakFrom := q.nakFrom, resending := q.resending, sameResends := q.sameResends
            resends := q.resends }) ∧
      (p.resending = some x.index → p.replay.find? (fun y => y.index == x.index) = some x →
        (p.codewords % 8192 ≠ 8191 →
          ∃ t, exec (.slotTransmit port) s = .next t ∧ t = { s with lantern := t.lantern, out := t.out } ∧ others t ∧ sent t x true ∧
            portOf t port = { p with
              slotClock := clock, codewords := words, resends := p.resends + 1, nakFrom := p.nakFrom.map fun n => (n.1, n.2 - 1)
              resending := if (p.replay.any fun y => y.index == (x.index + 1) % 4096) then some ((x.index + 1) % 4096) else none }) ∧
        (p.codewords % 8192 = 8191 →
          ∃ t y, exec (.slotTransmit port) s = .next t ∧ t = { s with lantern := t.lantern, out := t.out } ∧ others t ∧ sent t y true ∧
            y.frames = [] ∧ portOf t port = { p with
              slotClock := clock, codewords := words, nakFrom := p.nakFrom.map fun n => (n.1, n.2 - 1) })) ∧
      (failingLane (countBad rx p) = none → p.sameResends < 63 → p.lostWords < 4095 →
        ∃ t, exec (.slotReceive port rx) s = .next t ∧
          t = { s with lantern := t.lantern, parts := t.parts, pkg := t.pkg, log := t.log } ∧ others t ∧ t.pkg = { s.pkg with fog := t.pkg.fog } ∧
          (∀ n, partOf t n = { partOf s n with ckpt := (partOf t n).ckpt }) ∧
          (portOf t port).frames = p.frames ∧ (portOf t port).txIndex = p.txIndex ∧ (portOf t port).state = 2 ∧
          (good → (portOf t port).lostWords = 0 ∧ (portOf t port).replay = p.replay.filter (fun y => !idxLe y.index ack) ∧
            (rx.link.getLsbD 115 = false → (portOf t port).resending = p.resending) ∧
            (rx.link.getLsbD 115 = true → p.nakFrom = none →
              ((p.replay.filter fun y => !idxLe y.index ack).any fun y => y.index == (ack + 1) % 4096) = true →
              (portOf t port).resending = some ((ack + 1) % 4096)) ∧
            (idx = p.rxNext → (portOf t port).rxNext = (p.rxNext + 1) % 4096 ∧ (portOf t port).nak = false ∧
              (portOf t port).creditSeen = (List.range 6).map (fun i => rx.link.toNat / 2 ^ (33 + 8 * i) % 256))) ∧
          (¬ (good ∧ idx = p.rxNext) → (portOf t port).rxNext = p.rxNext ∧ (portOf t port).credits = p.credits ∧
            (portOf t port).p0In = p.p0In) ∧
          (¬ good → (portOf t port).nak = true ∧ (portOf t port).replay = p.replay ∧ (portOf t port).lostWords = p.lostWords + 1)) ∧
      (p.replay = x :: rest → 127 ≤ rest.length → p.resending = none → p.lostWords < 4096 →
        (p.nakFrom = none →
          ∃ t, exec (.replayBufferFull port) s = .next t ∧ t = { s with lantern := t.lantern } ∧ others t ∧
            portOf t port = { p with resending := some x.index, nakFrom := some (x.index, 64), sameResends := 1 }) ∧
        (∀ n, p.nakFrom = some (x.index, n + 1) → p.sameResends < 64 → ∃ t, exec (.replayBufferFull port) s = .next t ∧
          portOf t port = p ∧ others t ∧ t = { s with lantern := t.lantern })))) ∧
  (∀ (port cls subch stream addr left r n : Nat) (inPort : Option Nat) (p q : Pkt) (data : List Byte) (s : State), port < 6 →
    let x := portOf s port
    let freed := fun (b : Nat) => lmod b (fun n => (n + 1) % 256) x.freed
    let others := fun (t : State) => ∀ k, k ≠ port → portOf t k = portOf s k
    let gone := replyTo s p .refusal 0x45
    let bs := data.take (min 640 left)
    (p.dst = ownModule s → exec (.packetForward inPort p) s = .next (send p s)) ∧
    (p.dst ≠ ownModule s → (p.hops < 1023 ∨ inPort = none) → routePort s p = some r →
      let o := bondMember s r p
      let m := { p with hops := p.hops + 1, subch := subchAt s inPort o p, port := none }
      ∃ t, exec (.packetForward inPort p) s = .next t ∧ t = { s with lantern := t.lantern } ∧
        (∀ k, k ≠ o → k ≠ r → portOf t k = portOf s k) ∧
        (p.type ≠ .streamOpen → (∀ k, k ≠ o → portOf t k = portOf s k) ∧ portOf t o = enqueue m (portOf s o) ∧
          (p.type ≠ .write → portOf t o = { portOf s o with frames := addPacket m (portOf s o).frames })) ∧
        (p.type = .streamOpen → (portOf t r).turn = (portOf s r).turn + 1 ∧
          (freeStream (portOf s o) = some n → ∃ y, y ∈ (portOf t o).streamsOut ∧ y.number = n ∧ y.start = p.arg.toNat ∧
            y.total = p.arg2.toNat % 2 ^ 40 ∧ y.taken = 0))) ∧
    (p.dst ≠ ownModule s → (routePort s p = none ∨ 1023 ≤ p.hops ∧ inPort ≠ none) →
      ∃ t, exec (.packetForward inPort p) s = .next t ∧ t = { s with lantern := t.lantern, out := t.out } ∧
        portOf t (inPort.getD 0) = { portOf s (inPort.getD 0) with routeDrops := (portOf s (inPort.getD 0)).routeDrops + 1 } ∧
        (∀ k, k ≠ inPort.getD 0 → portOf t k = portOf s k) ∧
        t.out = { s.out with
          packets := s.out.packets ++
            if p.type = .write ∧ p.status = 1 then
              [{ gone with arg2 := BitVec.ofNat 64 (argSerial p * 2 ^ 40), data := toLe 2 p.data.length }]
            else if isRefused p.type then [gone] else []
          arbs := t.out.arbs }) ∧
    (p.type ≠ .reserved → q.type = .reserved →
      (p.dst = ownModule s → p.type ≠ .streamOpen →
        ∃ t, exec (.msgFrame port cls subch [p, q]) s = .next t ∧ t = { s with lantern := t.lantern, out := t.out } ∧ others t ∧
          t.out = { s.out with packets := s.out.packets ++ [p], arbs := t.out.arbs } ∧
          portOf t port = { x with reservedDrops := x.reservedDrops + 1, freed := freed (bufferOf cls subch) }) ∧
      (p.type = .streamOpen →
        ∃ t, exec (.msgFrame port cls subch [p, q]) s = .next t ∧ t = { s with lantern := t.lantern } ∧ others t ∧
          tget (p.status % 1024) (portOf t port).streamsIn = some (p.arg.toNat, p.arg2.toNat % 2 ^ 40, p) ∧
          portOf t port = { x with
            reservedDrops := x.reservedDrops + 1, freed := freed (bufferOf cls subch), streamsIn := (portOf t port).streamsIn })) ∧
    (∃ t, exec (.streamOpen port stream p) s = .next t ∧ t = { s with lantern := t.lantern } ∧ others t ∧
      tget (stream % 1024) (portOf t port).streamsIn = some (p.arg.toNat, p.arg2.toNat % 2 ^ 40, p) ∧
      portOf t port = { x with streamsIn := (portOf t port).streamsIn }) ∧
    (tget (stream % 1024) x.streamsIn = some (addr, left, p) → addr / 2 ^ 47 % 2 ^ 17 = ownModule s →
      (addr + 512) / 2 ^ 47 % 2 ^ 17 = ownModule s →
      ∃ t pkts, exec (.dataFrame port stream data) s = .next t ∧ t = { s with lantern := t.lantern, out := t.out } ∧ others t ∧
        t.out = { s.out with packets := s.out.packets ++ pkts, arbs := t.out.arbs } ∧ (pkts.flatMap fun y => y.data) = bs ∧
        (∀ y, y ∈ pkts → y.type = .write ∧ y.dst = ownModule s ∧ y.data.length ≤ 512) ∧
        (∀ y, pkts.head? = some y → y.arg.toNat = addr % 2 ^ 47) ∧
        tget (stream % 1024) (portOf t port).streamsIn =
          (if left ≤ bs.length then none else some (addr + bs.length, left - bs.length, p)) ∧
        portOf t port = { x with streamsIn := (portOf t port).streamsIn, freed := freed (bufferOf 3 p.subch) }) ∧
    (tget (stream % 1024) x.streamsIn = none → exec (.dataFrame port stream data) s = .next s) ∧
    (((x.frames.any fun f => f.cls == cls && f.subch == subch) = true ∧ nthNat x.credits (bufferOf cls subch) = 0) →
      exec (.creditStall port cls subch) s = .next (fogWarning 3 (0x0700 + port / 3) s)) ∧
    (((x.frames.any fun f => f.cls == cls && f.subch == subch) = false ∨ nthNat x.credits (bufferOf cls subch) ≠ 0) →
      exec (.creditStall port cls subch) s = .next s))

/-- R322: a lane that hunts and finds the pattern where a codeword decodes checks the next two places, 8,192 codewords apart, is locked
after both, and hunts on from past the candidate when one fails; the fourth marker absent in a row unlocks it, and a marker elsewhere is
only counted. R328: at its slot a mapped lane moves, in either direction; taking a receive lane logs it; a serving lane that loses lock asks
for the lowest locked spare. R325, R333, R335: a complete P0 message at the head of the port's stream is delivered and taken from it; a
probe is answered with the module's time, a question after a lost member's last index with that index, and an answer to one frees what the
lost member kept.

R314, R321, R323, R327, R333, R396, R402: an UP port that loses its link goes DOWN and says so in the log: with a bond's survivor it asks
that one for the partner's last index, and with nothing waiting or unacknowledged nothing else is left of it. A DOWN port whose domain is
on, of a module with an identifier, with 16 lanes in each direction that lock within 2 slots of each other and at most 600 ns of flight,
comes UP with new indices and credits; it stays DOWN and says why beyond 600 ns, without an identifier, or wired to itself, and without 16
lanes. An empty cage switches the port's domain off, an assembly in an enabled port's cage switches it on. -/
def Obligations.LanternLanesAndPorts : Prop :=
  (∀ (port lane n start seen place position spare logical physical slot failed index : Nat) (pattern decodes : Bool) (t1 t2 : BitVec 64)
    (chunks : List (BitVec 32)) (others : List Nat) (s : State), port < 6 →
    let p := portOf s port
    let x := tgetD lane {} p.lanes
    let found := pattern && decodes
    let apart := 8192 * 5440
    (∀ y, ((x.lock = .hunt start ∧ found = true ∧ start ≤ position ∧ y = LaneLock.check1 position) ∨
        (x.lock = .hunt start ∧ (found = false ∨ position < start) ∧ y = .hunt start) ∨
        (x.lock = .check1 seen ∧ position = seen + apart ∧ found = true ∧ y = .check2 seen) ∨
        (x.lock = .check1 seen ∧ position = seen + apart ∧ found = false ∧ y = .hunt (seen + 1)) ∨
        (x.lock = .check1 seen ∧ position ≠ seen + apart ∧ pattern = true ∧ y = .hunt (seen + 1)) ∨
        (x.lock = .check1 seen ∧ position ≠ seen + apart ∧ pattern = false ∧ y = .check1 seen) ∨
        (x.lock = .check2 seen ∧ position = seen + 2 * apart ∧ found = true ∧ y = .locked position 0) ∨
        (x.lock = .check2 seen ∧ position = seen + 2 * apart ∧ found = false ∧ y = .hunt (seen + 1)) ∨
        (x.lock = .check2 seen ∧ position ≠ seen + 2 * apart ∧ pattern = true ∧ y = .hunt (seen + 1)) ∨
        (x.lock = .check2 seen ∧ position ≠ seen + 2 * apart ∧ pattern = false ∧ y = .check2 seen) ∨
        (x.lock = .locked place n ∧ position = place + apart ∧ found = true ∧ y = .locked position 0) ∨
        (x.lock = .locked place n ∧ position = place + apart ∧ found = false ∧ n < 3 ∧ y = .locked position (n + 1)) ∨
        (x.lock = .locked place n ∧ position ≠ place + apart ∧ y = .locked place n)) →
      ∃ t, exec (.marker port lane position ⟨pattern, decodes⟩) s = .next t ∧ t = { s with lantern := t.lantern } ∧
        tget lane (portOf t port).lanes = some { x with lock := y } ∧ (∀ l, l ≠ lane → tget l (portOf t port).lanes = tget l p.lanes) ∧
        portOf t port = { p with
          lanes := (portOf t port).lanes
          falseMarkers := if x.lock = .locked place n ∧ position ≠ place + apart ∧ pattern = true then p.falseMarkers + 1 else p.falseMarkers } ∧
        ∀ k, k ≠ port → portOf t k = portOf s k) ∧
    (x.lock = .locked place 3 → position = place + apart → found = false →
      (isUp p = false ∨ logicalRx p lane = none ∨
        logicalRx p lane = some logical ∧ failingLane p = none ∧ sparesRx p = spare :: others ∧ p.mapRequest = none) →
      ∃ t y, exec (.marker port lane position ⟨pattern, decodes⟩) s = .next t ∧
        tget lane (portOf t port).lanes = some y ∧ y.lock = .hunt (position + 1) ∧ s.time.now ∈ y.resyncs ∧
        (portOf t port).resyncs = p.resyncs + 1 ∧ t = { s with lantern := t.lantern, log := t.log, pkg := t.pkg } ∧
        (isUp p = true → logicalRx p lane = some logical →
          (portOf t port).mapRequest = some (logical, spare, (p.slotClock + 64) % 4096)) ∧
        ∀ k, k ≠ port → portOf t k = portOf s k) ∧
    (p.mapTransmit = some (logical, physical, slot) →
      ∃ t, exec (.laneMapChange port true logical physical slot) s = .next t ∧ t = { s with lantern := t.lantern } ∧
        portOf t port = { p with laneTx := lset logical physical p.laneTx, mapTransmit := none } ∧ ∀ k, k ≠ port → portOf t k = portOf s k) ∧
    (p.mapRequest = some (logical, physical, slot) →
      ∃ t, exec (.laneMapChange port false logical physical slot) s = .next t ∧
        t = { s with lantern := t.lantern, log := t.log, pkg := t.pkg, parts := t.parts } ∧
        (portOf t port).laneRx = lset logical physical p.laneRx ∧ (portOf t port).mapRequest = none ∧
        (portOf t port).laneTx = p.laneTx ∧ (portOf t port).state = p.state ∧ ∀ k, k ≠ port → portOf t k = portOf s k) ∧
    (chunks ≠ [] → chunks.length ≤ 16 → (chunks.headD 0).toNat % 256 = chunks.length → p.p0In.take chunks.length = chunks →
      let two := fun (v : BitVec 64) => [(v.truncate 32 : BitVec 32), (v >>> 32).truncate 32]
      ∀ (meant : P0Says) (reply : List (BitVec 32)), ((meant = .other ∧ reply = []) ∨ (meant = .timeProbe t1 t2 true ∧ reply = []) ∨
          (meant = .lastIndex failed index ∧ isUp (portOf s failed) = true ∧ reply = []) ∨
          (meant = .timeProbe t1 t2 false ∧ reply = [0x00000407] ++ two t1 ++ two t2 ++ two s.time.now) ∨
          (meant = .askLastIndex failed ∧
            reply = [0x00000203, BitVec.ofNat 32 failed, BitVec.ofNat 32 (((portOf s failed).rxNext + 4095) % 4096)])) →
        ∃ t, exec (.p0Message port chunks meant) s = .next t ∧ t = { s with lantern := t.lantern, out := t.out } ∧
          t.out = { s.out with p0 := s.out.p0 ++ [(port, chunks)] } ∧
          portOf t port = { p with p0In := p.p0In.drop chunks.length, p0Out := p.p0Out ++ reply } ∧ ∀ k, k ≠ port → portOf t k = portOf s k) ∧
    (chunks ≠ [] → chunks.length ≤ 16 → (chunks.headD 0).toNat % 256 = chunks.length → p.p0In.take chunks.length = chunks →
      failed ≠ port → isUp (portOf s failed) = false →
      ∃ t, exec (.p0Message port chunks (.lastIndex failed index)) s = .next t ∧ t = { s with lantern := t.lantern, out := t.out } ∧
        t.out = { s.out with p0 := s.out.p0 ++ [(port, chunks)] } ∧ portOf t failed = clearPort (portOf s failed) ∧
        (portOf t port).p0In = p.p0In.drop chunks.length ∧ ∀ k, k ≠ port → k ≠ failed → portOf t k = portOf s k)) ∧
  (∀ (port cause flight peer boot k : Nat) (ks : List Nat) (rx : List RxLane) (tx : List Nat) (s : State), port < 6 →
    let p := portOf s port
    let others := fun (t : State) => ∀ k, k ≠ port → portOf t k = portOf s k
    let lanes := (List.range 18).filter fun n => tx.contains n
    let train := fun (self : Bool) => exec (.portTraining port rx tx flight peer boot self) s
    let time := { s.time with holdover := s.time.holdover || (s.time.source == 2 && s.time.parent == port) }
    (isUp p = true → p.frames = [] → p.replay = [] → p.streamsOut = [] → p.heldOpens = [] → lostPorts s port = [port] →
      survivors s port = [] →
      (∃ t, exec (.portDown port cause) s = .next t ∧ portOf t port = clearPort p ∧ others t ∧
        t = { s with lantern := t.lantern, log := t.log, pkg := t.pkg, time := time }) ∧
      ∃ t, exec (.cagePresenceChange port false) s = .next t ∧ portOf t port = { clearPort p with noAssembly := true } ∧ others t) ∧
    (isUp p = true → survivors s port = k :: ks →
      ∃ t, exec (.portDown port cause) s = .next t ∧ t = { s with lantern := t.lantern, log := t.log, pkg := t.pkg, time := time } ∧
        (portOf t port).state = 0 ∧ (portOf t port).replay = p.replay ∧ (portOf t port).frames = p.frames ∧
        portOf t k = { portOf s k with p0Out := (portOf s k).p0Out ++ [0x00000102, BitVec.ofNat 32 port] }) ∧
    (∃ t, exec (.portDown port cause) s = .next t ∧ (portOf t port).state = 0) ∧
    (isUp p = false → portDomain p = true →
      (s.pkg.moduleId = none → ∀ self, ∃ t, train self = .next t ∧ t = { s with lantern := t.lantern } ∧ others t ∧
        portOf t port = { p with state := 0 }) ∧
      (s.pkg.moduleId ≠ none → p.loopback = false → ∃ t, train true = .next t ∧ t = { s with lantern := t.lantern } ∧ others t ∧
        portOf t port = { p with state := 0, selfConnected := true }) ∧
      (s.pkg.moduleId ≠ none → ∀ self, (self = true → p.loopback = true) →
        (flight ≤ 600 → 16 ≤ (usableLanes rx).length → 16 ≤ lanes.length →
          ∃ t, train self = .next t ∧ others t ∧
            ((∀ b, p.peerBoot = some b → b = boot) → t = { s with lantern := t.lantern }) ∧
            (portOf t port).state = 2 ∧ (portOf t port).peerModule = peer ∧ (portOf t port).peerBoot = some boot ∧
            (portOf t port).flightNs = flight ∧ (portOf t port).laneRx = ((usableLanes rx).map fun l => l.lane).take 16 ∧
            (∀ l, l ∈ (portOf t port).laneRx → ∃ r, r ∈ rx ∧ r.lane = l ∧ r.sent < 18 ∧ r.skewPs ≤ 2 * 25600) ∧
            (portOf t port).laneTx = lanes.take 16 ∧
            (portOf t port).txIndex = 0 ∧ (portOf t port).rxNext = 0 ∧ (portOf t port).replay = [] ∧
            (portOf t port).credits = [32, 32, 64, 64, 960, 960]) ∧
        (600 < flight → ∃ t, train self = .next t ∧ t = { s with lantern := t.lantern } ∧ others t ∧
          portOf t port = { p with state := 0, selfConnected := false, flightLimit := true, flightNs := flight }) ∧
        (flight ≤ 600 → ((usableLanes rx).length < 16 ∨ lanes.length < 16) →
          ∃ t, train self = .next t ∧ t = { s with lantern := t.lantern } ∧ others t ∧ portOf t port = { p with state := 0 }))) ∧
    ((isUp p = true ∨ portDomain p = false) → ∀ self, train self = .next s) ∧
    (∃ t, exec (.cagePresenceChange port true) s = .next t ∧ t = { s with lantern := t.lantern, supplies := t.supplies, power := t.power } ∧
      portOf t port = { p with noAssembly := false } ∧ others t ∧ t.supplies = { s.supplies with cages := s.supplies.cages ||| BitVec.ofNat 6 (2 ^ port) } ∧
      t.power = { s.power with domains := t.power.domains } ∧
      ∀ k, k < 128 → t.power.domains.getLsbD k = if k = 120 + port then p.enable else s.power.domains.getLsbD k) ∧
    (isUp p = false → ∃ t, exec (.cagePresenceChange port false) s = .next t ∧
      t = { s with lantern := t.lantern, supplies := t.supplies, power := t.power } ∧
      portOf t port = { p with noAssembly := true, state := 0 } ∧ others t ∧
      ∀ k, k < 128 → t.power.domains.getLsbD k = (s.power.domains.getLsbD k && k != 120 + port)))

/-- R335 to R338: a probe leaves an UP port with the module's time; a reply from a delivered slot reports the offset to the peer, and the
parent's steers: more than 10 µs behind steps time forward, otherwise the rate moves by at most 200 ppm, and time never steps backward. A
confirmed edge of a PPS module loads a waiting TIME_SET or steers, and ends a holdover; two seconds without one begin it. -/
def Obligations.BeaconTime : Prop :=
  ∀ (c : Cmd) (port : Nat) (t1 t2 t3 t4 v : BitVec 64) (confirmed : Bool) (s : State), port < 6 →
    let p := portOf s port
    let off : Int := ((t2 - t1).toInt - (t4 - t3).toInt) / 2
    let parent := s.time.source = 2 ∧ s.time.parent = port
    (isUp p = true →
      (∃ t, exec (.timeProbe port) s = .next t ∧ t = { s with lantern := t.lantern } ∧ (∀ k, k ≠ port → portOf t k = portOf s k) ∧
        portOf t port = { p with p0Out := p.p0Out ++ [0x00000303, s.time.now.truncate 32, (s.time.now >>> 32).truncate 32] }) ∧
      (∃ t, exec (.timeReply port t1 t2 t3 t4 false) s = .next t ∧ t = { s with lantern := t.lantern, time := t.time } ∧
        portOf t port = { p with timeOffset := off } ∧ (∀ k, k ≠ port → portOf t k = portOf s k) ∧ (¬ parent → t.time = s.time) ∧
        (parent → t.time.holdover = false ∧ t.time.source = 2 ∧ t.time.parent = port ∧
          (10000 < off → t.time.now = s.time.now + BitVec.ofInt 64 off) ∧
          (off ≤ 10000 → t.time.now = s.time.now ∧ t.time.rate.natAbs ≤ 200))) ∧
      exec (.timeReply port t1 t2 t3 t4 true) s = .next s) ∧
    (isUp p = false → exec (.timeProbe port) s = .next s ∧ ∀ replayed, exec (.timeReply port t1 t2 t3 t4 replayed) s = .next s) ∧
    (s.time.source = 1 → s.time.lastPps.toNat + 2000000000 ≤ s.time.now.toNat →
      exec .ppsHoldover s = .next { s with time := { s.time with holdover := true } }) ∧
    (s.time.source = 1 → s.time.loadAtPps = some v → s.time.now ≤ v →
      exec (.timePps t1 true) s = .next { s with time := { s.time with
        now := v, rate := 0, loadAtPps := none, lastPps := v, holdover := false } }) ∧
    (s.time.source = 1 → s.time.loadAtPps = none → ∃ t, exec (.timePps t1 true) s = .next t ∧ t = { s with time := t.time } ∧
      t.time.holdover = false ∧ t.time.rate.natAbs ≤ 200 ∧
      (t1.toNat % 1000000000 < 500000000 → t.time.now = s.time.now)) ∧
    (s.time.source ≠ 1 → exec (.timePps t1 confirmed) s = .next s) ∧
    (∃ t, exec (.timeSet c v false) s = .next t ∧ replied c { status := .ok } { s with time := t.time } t ∧ t = { s with rings := t.rings, time := t.time } ∧
      (s.time.now ≤ v → t.time = { s.time with now := v, rate := 0 }) ∧ (v < s.time.now → t.time = { s.time with rate := -200 })) ∧
    ∃ t, exec (.timeSet c v true) s = .next t ∧ replied c { status := .ok } s t ∧
      t = { s with rings := t.rings, time := { s.time with loadAtPps := some v } }

/-- R145, R147, R149, R152: an access of one line by a partition that reaches it is served in the cache of the line's home region: a hit line
becomes the most recent, dirty from then on if the access writes; a missed one is filled into a way the partition's mask permits, at the
most recent position, or for STREAM the least recent, and nowhere for NONE; a unit that reads uncorrectable is poisoned; an access outside
the partition is not performed. R362, R426: a flush starts over a range of the partition; once complete no line of it is dirty, and after a
purge none of it is cached. The cache's side of an access changes tags, poison and error records: no byte of any memory.

R143, R149, R153 to R155, R377, R378: a stream prefetcher brings in the line at its next stride, at the least recent position, an
uncorrectable unit of it poisoned without a report, and none past 16 ahead; it ends after 64 lines without a hit and where its allocation
does; a hinted one brings in the hint's next line within its distance, and ends with the last; a miss that a stream covers moves the
stream's demand; another trains a prefetcher, and a third at one legal stride makes it a stream. A refresh counts its bank's turn; a counting sweep's result and a temperature go to their stacks' readings, 64 errors
raising the fog warning. A palette word with one wrong bit is logged; one with more is poisoned and its span taken offline. -/
def Obligations.CachesAndHbm : Prop :=
  (∀ (part addr bytes key line base len w : Nat) (write isPurge : Bool) (path : RegPath) (x : CacheLine) (s : State),
    let region := regionOfHbm (line * 128)
    let r := regionOf s region
    let held := r.lines.filter fun (y : CacheLine) => Machine.setOf y.line == Machine.setOf line
    let victim := fun (y : CacheLine) => Machine.setOf y.line == Machine.setOf line && y.way == w
    let others := fun (t : State) => t = { s with regions := t.regions } ∧ ∀ k, k ≠ region → regionOf t k = regionOf s k
    let filled := fun (t : State) => t = { s with regions := t.regions, mem := { s.mem with poisonHbm := t.mem.poisonHbm } } ∧
      (∀ k, k ≠ region → regionOf t k = regionOf s k) ∧
      ((∀ y, y ∈ r.lines → victim y = true → y.latent = [] ∨ y.dirty = true) → t.mem = s.mem)
    (localRange s part addr bytes = some (.hbm, key) → 0 < bytes → key / 128 = line → (key + bytes - 1) / 128 = line →
      (r.lines.find? (fun y => y.line == line) = some x → x.latent = [] → ∀ cls bad,
        ∃ t, exec (.cacheAccess part addr write bytes cls bad) s = .next t ∧ others t ∧
          (regionOf t region).lines = { x with dirty := x.dirty || (write && cls != .none), prefetched := false } ::
            r.lines.filter (fun y => y.line != line) ∧
          (x.prefetched = false → regionOf t region = { r with lines := (regionOf t region).lines })) ∧
      (r.lines.find? (fun y => y.line == line) = none → ∀ bad, (∀ u, u ∈ bad → u / 2 ≠ line) →
        exec (.cacheAccess part addr write bytes .none bad) s = .next s ∧
        (victimWay (waysOf s part region (Machine.setOf line)) held = some w →
          (∃ t, exec (.cacheAccess part addr write bytes .normal bad) s = .next t ∧ filled t ∧
            (regionOf t region).lines = { line := line, part := part, way := w, dirty := write } :: r.lines.filter (fun y => !victim y)) ∧
          ∃ t, exec (.cacheAccess part addr write bytes .stream bad) s = .next t ∧ filled t ∧
            (regionOf t region).lines = r.lines.filter (fun y => !victim y) ++ [{ line := line, part := part, way := w, dirty := write }])) ∧
      (r.lines.find? (fun y => y.line == line) = none → ∀ u, u / 2 = line →
        ∃ t, exec (.cacheAccess part addr false bytes .none [u]) s = .next t ∧ u ∈ t.mem.poisonHbm ∧
          t = { s with mem := { s.mem with poisonHbm := t.mem.poisonHbm }, repair := t.repair, flash := t.flash, log := t.log, pkg := t.pkg
                       parts := t.parts })) ∧
    (∀ sp n cls, accessSpace part sp key n write cls s =
      { s with
        mem := { s.mem with poisonHbm := (accessSpace part sp key n write cls s).mem.poisonHbm }
        regions := (accessSpace part sp key n write cls s).regions, repair := (accessSpace part sp key n write cls s).repair
        flash := (accessSpace part sp key n write cls s).flash, log := (accessSpace part sp key n write cls s).log
        pkg := (accessSpace part sp key n write cls s).pkg, parts := (accessSpace part sp key n write cls s).parts }) ∧
    (victimWay (waysOf s part region (Machine.setOf line)) held = some w →
      (((partOf s part).wayMask[region]?).getD 0xFFFF).getLsbD w = true ∧ (15 ≤ w → 512 ≤ Machine.setOf line % 7168) ∧ w < 16) ∧
    (localRange s part addr bytes = none → ∀ cls bad, exec (.cacheAccess part addr write bytes cls bad) s = .next s) ∧
    (path = .pf → part < 16 → base < 2 ^ 64 → len < 2 ^ 62 → len % 128 = 0 → (partOf s part).hbmBase ≤ base →
      base + len ≤ hbmEnd (partOf s part) → (partOf s part).flushBusy = none →
      ∃ t, exec (if isPurge then .purge part base len path else .writeback part base len path) s = .next t ∧ t = { s with parts := t.parts } ∧
        partOf t part = { partOf s part with
          flushBase := BitVec.ofNat 64 base, flushLen := BitVec.ofNat 64 len, flushBusy := some (isPurge, base, len) } ∧
        ∀ n, n ≠ part → partOf t n = partOf s n) ∧
    ((partOf s part).flushBusy = some (isPurge, base, len) →
      ∃ t, exec (.flushComplete part) s = .next t ∧
        t = { s with parts := t.parts, regions := t.regions, mem := { s.mem with poisonHbm := t.mem.poisonHbm } } ∧
        partOf t part = { partOf s part with flushBusy := none } ∧ (∀ n, n ≠ part → partOf t n = partOf s n) ∧
        ∀ e, e ∈ t.regions → ∀ l, l ∈ e.2.lines → l.part = part → base < l.line * 128 + 128 → l.line * 128 < base + len →
          isPurge = false ∧ l.dirty = false)) ∧
  (∀ (region index part addr stack bank count core word : Nat) (last : Nat) (stride reading : Int) (ahead unused stamp i job misses : Nat)
    (seen bits k : Nat) (h : Hint) (s : State), region < 8 → stack < 16 → core < 864 →
    let r := regionOf s region
    let at_ : Int := last + stride * (ahead + 1)
    let line := at_.toNat / 128
    let others := fun (t : State) => t = { s with regions := t.regions } ∧ ∀ k, k ≠ region → regionOf t k = regionOf s k
    let filled := fun (t : State) => t = { s with regions := t.regions, mem := { s.mem with poisonHbm := t.mem.poisonHbm } } ∧
      ∀ k, k ≠ region → regionOf t k = regionOf s k
    (∀ bad, tgetD index .idle r.prefetchers = .streaming last stride ahead unused part stamp →
      (16 ≤ ahead → exec (.prefetchIssue region index bad) s = .next s) ∧
      (ahead < 16 → unused < 63 → prefetchable s region part at_ = true →
        ∃ t, exec (.prefetchIssue region index bad) s = .next t ∧ filled t ∧
          tget index (regionOf t region).prefetchers = some (.streaming last stride (ahead + 1) (unused + 1) part r.clock) ∧
          (waysOf s part region (Machine.setOf line) ≠ [] → (r.lines.any fun y => y.line == line) = false →
            (∃ l, l ∈ (regionOf t region).lines ∧ l.line = line ∧ l.part = part ∧ l.prefetched = true ∧
              ∀ u, u ∈ bad → u / 2 = line → ¬ u ∈ s.mem.poisonHbm → u ∈ l.latent ∧ u ∈ t.mem.poisonHbm)) ∧
          (r.hintQueue = [] → ∀ k, k ≠ index → tget k (regionOf t region).prefetchers = tget k r.prefetchers)) ∧
      (ahead < 16 → 63 ≤ unused → prefetchable s region part at_ = true → r.hintQueue = [] →
        ∃ t, exec (.prefetchIssue region index bad) s = .next t ∧ filled t ∧ tget index (regionOf t region).prefetchers = some .idle) ∧
      (ahead < 16 → prefetchable s region part at_ = false → r.hintQueue = [] →
        ∃ t, exec (.prefetchIssue region index bad) s = .next t ∧ others t ∧
          regionOf t region = { r with
            clock := r.clock + 1, prefetchDrops := r.prefetchDrops + 1, prefetchers := tput index .idle r.prefetchers })) ∧
    (∀ bad, tgetD index .idle r.prefetchers = .hinted h i job part seen →
      ((seen + h.distance ≤ i ∨ h.count ≤ i) → exec (.prefetchIssue region index bad) s = .next s) ∧
      (i < seen + h.distance → i < h.count → r.hintQueue = [] →
        ∃ t, exec (.prefetchIssue region index bad) s = .next t ∧ filled t ∧
          tget index (regionOf t region).prefetchers = some (if h.count ≤ i + 1 then .idle else .hinted h (i + 1) job part seen))) ∧
    ((r.prefetchers.any fun e => covered part addr e.2) = true →
      ∃ t, exec (.prefetchTrainingMiss region part addr) s = .next t ∧ others t ∧ (regionOf t region).lines = r.lines ∧
        (tget index r.prefetchers = some (.streaming last stride ahead unused part stamp) → stride ≠ 0 → k ≤ 16 →
          (addr : Int) = last + stride * k →
          tget index (regionOf t region).prefetchers = some (.streaming addr stride (ahead - k) unused part r.clock))) ∧
    ((r.prefetchers.any fun e => covered part addr e.2) = false →
      (∀ e, r.prefetchers.find? (fun e => trains part addr e.2) = some e → e.2 = .training last stride 2 misses part →
        (addr : Int) - last = stride → 128 ≤ stride.natAbs → stride.natAbs ≤ 0x10000 →
        ∃ t, exec (.prefetchTrainingMiss region part addr) s = .next t ∧ others t ∧
          tget e.1 (regionOf t region).prefetchers = some (.streaming addr stride 0 0 part r.clock)) ∧
      (r.prefetchers.find? (fun e => trains part addr e.2) = none → freePrefetcher r = some index →
        ∃ t, exec (.prefetchTrainingMiss region part addr) s = .next t ∧ others t ∧
          regionOf t region = { r with prefetchers := tput index (.training addr 0 0 0 part) r.prefetchers }) ∧
      (r.prefetchers.find? (fun e => trains part addr e.2) = none → freePrefetcher r = none →
        exec (.prefetchTrainingMiss region part addr) s = .next s)) ∧
    (∃ t, exec (.hbmRefresh stack bank) s = .next t ∧ t = { s with repair := { s.repair with refreshed := t.repair.refreshed } } ∧
      tget (stack * 64 + bank % 64) t.repair.refreshed = some (tgetD (stack * 64 + bank % 64) 0 s.repair.refreshed + 1)) ∧
    (∃ t, exec (.ecsRead stack count) s = .next t ∧ t = { s with repair := { s.repair with ecs := t.repair.ecs }, parts := t.parts, pkg := t.pkg, log := t.log } ∧
      tget stack t.repair.ecs = some ((count :: tgetD stack [] s.repair.ecs).take 3) ∧ (64 ≤ count → t.pkg.fog.getLsbD 4 = true)) ∧
    (∃ t, exec (.hbmTemperatureRead stack reading) s = .next t ∧ t = { s with thermal := { s.thermal with hbm := t.thermal.hbm } } ∧
      tget stack t.thermal.hbm = some reading ∧ ∀ k, k ≠ stack → tget k t.thermal.hbm = tget k s.thermal.hbm) ∧
    exec (.paletteScrub core word 0) s = .next s ∧
    (∃ t, exec (.paletteScrub core word 1) s = .next t ∧ t = { s with repair := t.repair, parts := t.parts, pkg := t.pkg, log := t.log } ∧
      t.repair = { s.repair with rowErrors := t.repair.rowErrors }) ∧
    (2 ≤ bits → ∃ t, exec (.paletteScrub core word bits) s = .next t ∧ t = { s with mem := { s.mem with poisonPalette := t.mem.poisonPalette }, repair := { s.repair with offline := t.repair.offline } } ∧
      core * 0x8000 + word % 24576 ∈ t.mem.poisonPalette ∧ 2 ^ 40 + (core * 0x200000 + word % 24576 * 64) / 2048 ∈ t.repair.offline))

/-- R99, R401, R403, R404, R423: each tick compares the input power with P_lim, the lowest of the cap, the fused maximum, the brake level
while braking and the thermal limit; while lowering, the clock goes down in sixteenths to the lowest and only then is issue held; while
raising, issue is released and only then the clock rises. The brake's pin applies and releases it. PWR_CAP keeps 1,200 W to the fused
maximum and says where it clamped; PWR_CCLK_MHZ keeps 400 to 1,350 in steps of 25, in force from CCLK_CHANGE on.

R405: each millisecond a sensor at or above its throttle threshold lowers the thermal limit by 50 W, not below 1,200 W, and with every
sensor 3 °C below its threshold it rises by 50 W, not above the fused maximum. A reading at its alert threshold sets the sticky bit and
is logged; one at the trip threshold, 110 °C on a die and 105 °C on a stack, switches the main rails off with the trip latched. -/
def Obligations.PowerAndThermal : Prop :=
  (∀ (inputW : Nat) (v : Word) (path : RegPath) (s : State),
    let p := s.power
    let fused := fusedMax s
    let lim := min (min p.cap fused) (min (if p.brakePin || p.brakeUv then p.brakeLevel else fused) p.thermalLimit)
    (p.phases = [] → exec (.powerControlTick inputW) s = .next { s with power := { p with
      inputW := inputW, lowering := decide (lim < inputW), raising := decide (inputW < lim) } }) ∧
    (∃ t, exec (.powerControlTick inputW) s = .next t ∧
      t = { s with power := { p with inputW := inputW, lowering := t.power.lowering, raising := t.power.raising } } ∧
      ((t.power.lowering = true ↔ pLim10 s < inputW * 10) ∧ (t.power.raising = true ↔ inputW * 10 < pLim10 s)) ∧ pLim10 s ≤ lim * 10) ∧
    (p.lowering = true → p.stretch ≤ 16 → p.hold ≤ 15 →
      (∃ t, exec .clockStretchStep s = .next t ∧ t = { s with power := { p with stretch := min 16 (p.stretch + 1), fEff := t.power.fEff } } ∧
        t.power.fEff ≤ p.cclkRun ∧ (15 ≤ p.stretch → 400 ≤ p.cclkRun → t.power.fEff = 400)) ∧
      exec .issueHoldStep s = .next { s with power := { p with hold := if p.stretch < 16 then p.hold else min 15 (p.hold + 1) } }) ∧
    (p.lowering = false → p.raising = true →
      (∃ t, exec .clockStretchStep s = .next t ∧
        t = { s with power := { p with stretch := if p.hold = 0 then p.stretch - 1 else p.stretch, fEff := t.power.fEff } } ∧
        (p.hold = 0 → p.stretch ≤ 1 → t.power.fEff = p.cclkRun)) ∧
      exec .issueHoldStep s = .next { s with power := { p with hold := p.hold - 1 } }) ∧
    (p.lowering = false → p.raising = false → exec .issueHoldStep s = .next s ∧
      ∃ t, exec .clockStretchStep s = .next t ∧ t = { s with power := { p with fEff := t.power.fEff } }) ∧
    (tilesInFlight s = true → exec .cclkChange s = .next s) ∧
    ((∀ e, e ∈ s.cores → e.2.tiles = []) → ∃ t, exec .cclkChange s = .next t ∧ t = { s with power := { p with cclkRun := p.cclk, fEff := t.power.fEff } } ∧
      (p.stretch = 0 → t.power.fEff = p.cclk) ∧ (p.stretch = 16 → 400 ≤ p.cclk → t.power.fEff = 400)) ∧
    exec .brakeApply s = .next { s with power := { p with brakePin := true, brakeSeen := true } } ∧
    exec .brakeRelease s = .next { s with power := { p with brakePin := false } } ∧
    (path ∈ [RegPath.pf, .smbus, .i3c, .mctp] → ∃ t n, exec (.pwrCap path v) s = .next t ∧
      n = (if v.toNat % 2 ^ 16 < 1200 then 1200 else if fused < v.toNat % 2 ^ 16 then fused else v.toNat % 2 ^ 16) ∧
      t = { s with power := { p with cap := n, capClamped := p.capClamped || n != v.toNat % 2 ^ 16 } }) ∧
    (¬ path ∈ [RegPath.pf, .smbus, .i3c, .mctp] →
      exec (.pwrCap path v) s = .next { s with pkg := { s.pkg with errStatus := s.pkg.errStatus ||| 4 } }) ∧
    (∀ asked, asked = v.toNat % 2 ^ 11 → (∀ n, path ≠ .vf n) →
      (400 ≤ asked → asked ≤ 1350 → asked % 25 = 0 → exec (.pwrCclkMhz path v) s = .next { s with power := { p with cclk := asked } }) ∧
      (400 ≤ asked → asked ≤ 1350 → asked % 25 ≠ 0 → exec (.pwrCclkMhz path v) s = .next { s with
        power := { p with cclk := asked / 25 * 25 }, pkg := { s.pkg with errStatus := s.pkg.errStatus ||| 8 } }) ∧
      (asked < 400 → exec (.pwrCclkMhz path v) s = .next { s with
        power := { p with cclk := 400 }, pkg := { s.pkg with errStatus := s.pkg.errStatus ||| 8 } }) ∧
      (1350 < asked → exec (.pwrCclkMhz path v) s = .next { s with
        power := { p with cclk := 1350 }, pkg := { s.pkg with errStatus := s.pkg.errStatus ||| 8 } }))) ∧
  (∀ (sensor : Nat) (reading : Int) (readings : List (Nat × Int)) (s s1 : State), s1 = readings.foldl (fun s r => putReading r.1 r.2 s) s →
    let h := s1.thermal
    let hot := (∃ k x, tget k h.sensors = some x ∧ (h.throttle * 8 : Int) ≤ x) ∨ (∃ k x, tget k h.hbm = some x ∧ (h.hbmThrottle * 8 : Int) ≤ x)
    let cool := (∀ e, e ∈ h.sensors → e.2 + 24 ≤ (h.throttle * 8 : Int)) ∧ (∀ e, e ∈ h.hbm → e.2 + 24 ≤ (h.hbmThrottle * 8 : Int))
    let limit := min (fusedMax s) s.power.thermalLimit
    (s1 = { s with thermal := { s.thermal with sensors := s1.thermal.sensors, hbm := s1.thermal.hbm } } ∧
      ∃ t, exec (.thermalLimitStep readings) s = .next t ∧
      t = { s with power := { s.power with thermalLimit := t.power.thermalLimit }, thermal := { h with throttling := t.thermal.throttling } } ∧
      (hot → t.power.thermalLimit = max 1200 (limit - 50)) ∧ (¬ hot → cool → t.power.thermalLimit = min (fusedMax s) (limit + 50)) ∧
      (¬ hot → ¬ cool → t.power.thermalLimit = limit) ∧ t.thermal.throttling = decide (t.power.thermalLimit < fusedMax s))) ∧
  (∀ (sensor : Nat) (reading : Int) (s : State),
    let h := s.thermal
    (reading < ((if sensor < 0x100 then h.alert else h.hbmAlertAt) * 8 : Int) → ∃ t, exec (.thermalAlert sensor reading) s = .next t ∧
      t = { s with thermal := { h with sensors := t.thermal.sensors, hbm := t.thermal.hbm } }) ∧
    (sensor < 0x100 → (h.alert * 8 : Int) ≤ reading →
      ∃ t, exec (.thermalAlert sensor reading) s = .next t ∧ t = { s with thermal := t.thermal, log := t.log, pkg := t.pkg } ∧
        t.thermal = { h with sensors := tput sensor reading h.sensors, junctionAlert := true }) ∧
    (0x100 ≤ sensor → (h.hbmAlertAt * 8 : Int) ≤ reading →
      ∃ t, exec (.thermalAlert sensor reading) s = .next t ∧ t = { s with thermal := t.thermal, log := t.log, pkg := t.pkg } ∧
        t.thermal = { h with hbm := tput (sensor - 0x100) reading h.hbm, hbmAlert := true }) ∧
    ((if sensor < 0x100 then (110 : Int) else 105) * 8 ≤ reading →
      ∃ t, exec (.thermalTrip sensor reading) s = .next t ∧ t.thermal.tripPin = true ∧ t.thermal.tripSeen = true ∧ t.supplies.mainOn = false ∧
        t.pkg.state = 2 ∧ t.pkg.errStatus.getLsbD 4 = true ∧ t.mem = { host := s.mem.host } ∧ t.cores = [] ∧ t.jobs = [] ∧ t.parts = [] ∧ t.flash = s.flash ∧
        t.fuse = s.fuse ∧ t.pending = s.pending) ∧
    (reading < (if sensor < 0x100 then (110 : Int) else 105) * 8 → ∃ t, exec (.thermalTrip sensor reading) s = .next t ∧
      t = { s with thermal := { h with sensors := t.thermal.sensors, hbm := t.thermal.hbm } }))

/-- R374, R390, R391: an undervoltage brakes the module until the input is back in range, and an overvoltage is recorded; a brownout
switches the main rails off, losing every memory of the module and all running work but not the log, the boot count or the flash; losing
the auxiliary supply loses the log as well. A lost regulator phase is shed and logged once.

R391 to R394, R397, R402: MOD_RST_N loses all of the module but the log, the flash and the fuses, PWR_CAP is the fused maximum, and every incarnation is 0. At its release the
straps latch; with both supplies in range the ACTIVE firmware slot boots, or else the other, the boot count advances and the main rails
come up; without a bootable slot the module is in RECOVERY. When the boot ends the module is READY
with its logical map, its retired units recorded, its failing rows repaired or retired, its fog warnings raised, and the regions or the package lost whose edges or keepers
are. PERST_N's release trains the host link. -/
def Obligations.SupplyAndReset : Prop :=
  (∀ (rail phase : Nat) (s : State),
    exec .inputUndervoltage s = .next { s with power := { s.power with uv := true, brakeUv := true, brakeSeen := true } } ∧
    exec .inputOvervoltage s = .next { s with power := { s.power with ov := true } } ∧
    exec .inputBackInRange s = .next { s with power := { s.power with brakeUv := false }, supplies := { s.supplies with inputOk := true } } ∧
    (∃ t, exec .inputBrownout s = .next t ∧ t.pkg.state = 2 ∧ t.supplies.mainOn = false ∧ t.supplies.inputOk = false ∧ t.mem = { host := s.mem.host } ∧
      t.cores = [] ∧ t.jobs = [] ∧ t.parts = [] ∧ t.rings = [] ∧ t.objects = [] ∧ t.flash = s.flash ∧ t.fuse = s.fuse ∧
      t.time = s.time ∧ t.thermal = s.thermal ∧ t.pending = s.pending ∧ t.log = (note 0x0409 (fun e => { e with source := 0x0410 }) s).log) ∧
    (∃ t, exec .auxLoss s = .next t ∧ t.supplies.auxOk = false ∧ t.supplies.mainOn = false ∧ t.log = State.reset.log ∧ t.mem = { host := s.mem.host } ∧
      t.cores = [] ∧ t.parts = [] ∧ t.power.domains = 0 ∧ t.power.cap = fusedMax s ∧ t.flash = s.flash ∧ t.fuse = s.fuse ∧ t.pending = s.pending) ∧
    exec .auxInRange s = .next { s with
      power := { s.power with domains := s.power.domains ||| 0x80000000000000000000000000000000 }
      supplies := { s.supplies with auxOk := true } } ∧
    (s.power.phases.contains (rail * 64 + phase % 64) = true → exec (.regulatorPhaseLoss rail phase) s = .next s) ∧
    (s.power.phases.contains (rail * 64 + phase % 64) = false →
      ∃ t, exec (.regulatorPhaseLoss rail phase) s = .next t ∧ t = { s with power := t.power, log := t.log, pkg := t.pkg, parts := t.parts } ∧
        t.power = { s.power with phases := s.power.phases ++ [rail * 64 + phase % 64] } ∧
        (phasesLost s rail = 1 → t.pkg.fog.getLsbD 9 = true))) ∧
  (∀ (straps : BitVec 4) (aOk bOk flit : Bool) (rate width : Nat) (f : BootFindings) (s : State),
    let okA := aOk && s.flash.slotA.valid
    let okB := bOk && s.flash.slotB.valid
    (∃ t, exec .modRstNAssert s = .next t ∧ t.supplies.mainOn = false ∧ t.supplies.resetHeld = true ∧ t.mem = { host := s.mem.host } ∧ t.power.cap = fusedMax s ∧
      (∀ k, k < 6 → (portOf t k).state = 0 ∧ (portOf t k).frames = []) ∧ t.cores = [] ∧ t.jobs = [] ∧
      t.parts = [] ∧ t.rings = [] ∧ t.units = State.reset.units ∧ t.pkg.moduleId = none ∧ t.pkg.lock = 0 ∧ t.log = s.log ∧ t.fuse = s.fuse ∧
      t.flash.bootCount = s.flash.bootCount ∧ t.flash.retiredUnits = s.flash.retiredUnits ∧ t.pending = s.pending) ∧
    (s.supplies.resetHeld = true → mayBoot s = true →
      (∀ b, ((b = s.flash.activeB ∧ (if b then okB else okA) = true) ∨
          (b = !s.flash.activeB ∧ (if b then okB else okA) = true ∧ (if b then okA else okB) = false)) →
        ∃ t, exec (.coldBoot straps aOk bOk) s = .next t ∧ t.pkg.straps = straps ∧ t.pkg.state = 0 ∧ t.supplies.mainOn = true ∧
          t.supplies.resetHeld = false ∧ t.flash = { s.flash with activeB := b, bootCount := (s.flash.bootCount + 1) % 2 ^ 16 } ∧
          t.keepers.runningVersion = (if b then s.flash.slotB else s.flash.slotA).version ∧ t.thermal.tripPin = false ∧
          t = { s with
            pkg := t.pkg, supplies := t.supplies, flash := t.flash, keepers := { s.keepers with runningVersion := t.keepers.runningVersion }
            thermal := { s.thermal with tripPin := false }, log := t.log } ∧ (b = s.flash.activeB → t.log = s.log)) ∧
      (okA = false → okB = false → ∃ t, exec (.coldBoot straps aOk bOk) s = .next t ∧ t.pkg.state = 3 ∧ t.flash = s.flash ∧
        t.supplies.mainOn = s.supplies.mainOn)) ∧
    (s.pkg.state = 0 → s.supplies.mainOn = true →
      let b := bootBuilt f s
      b.pkg = { s.pkg with state := 1 } ∧ b.mem = s.mem ∧ b.log = s.log ∧ b.parts = s.parts ∧ b.flash = { s.flash with
          retiredUnits := bootRetired s f, retiredSpans := b.flash.retiredSpans, repairedRows := b.flash.repairedRows } ∧
        (∀ addr, addr ∈ f.hbmFailing → addr / 2048 ∈ b.flash.retiredSpans ∨ addr / 2048 ∈ b.flash.repairedRows) ∧
        b.units.retired = bootRetired s f ∧
        (∀ n p, (n, p) ∈ b.units.logical → n < 800 ∧ p < 864 ∧ n / 100 = p / 108 ∧ p ∉ s.flash.retiredUnits ∧ p ∉ f.failedCores) ∧
        (∀ r e, r < 8 → e ∈ bootPositions s r → e.2 ∉ s.flash.retiredUnits → e.2 ∉ f.failedCores → e ∈ b.units.logical) ∧
        (∀ k, k < 120 → b.power.domains.getLsbD k = true) ∧
        ∃ t, exec (.bootReady f) s = .next t ∧ (bootFatal b = true → t.pkg.state = 4) ∧
          (∀ r, r ∈ bootRegionsLost b → r ∈ t.units.regionsOut) ∧
          (bootRegionsLost b = [] → bootFatal b = false →
            t = { b with pkg := t.pkg, log := t.log, parts := t.parts } ∧
              t.pkg = { b.pkg with fog := t.pkg.fog, errStatus := t.pkg.errStatus } ∧
              (∀ e, e ∈ bootShort b → t.pkg.fog.getLsbD e.1 = true) ∧
              (bootLost s f = [] → f.ucieFailed = [] → bootShort b = [] → b.flash.retiredSpans = s.flash.retiredSpans → t = b))) ∧
    (∃ t, exec (.perstNRelease rate width flit) s = .next t ∧ t = { s with
        supplies := { s.supplies with perstHeld := false }, pkg := { s.pkg with linkRate := rate, linkWidth := width, noFlit := !flit }
        power := { s.power with domains := t.power.domains } } ∧
      ∀ k, k < 128 → t.power.domains.getLsbD k = (s.power.domains.getLsbD k || k == 126)))

/-- R37, R148, R222, R296, R332, R335, R396, R402, R417, R422 to R428: each register keeps what its field rule says: PKG_MODULE_ID once;
a PKG_LOCK bit for good; PKG_ARB_CLEAR empties the counts; CLEAR empties a posted record and a queue's counts; TIME_SOURCE its source
and parent; LP_CTRL its fields, ENABLE switching the port's domain; LP_BOND ports UP to one partner; a ring's CTRL, in READY, enables a
ring whose fields lie in range, from zero counts; a way mask that is not zero; SNAP copies the object's view.

R20 to R22, R417, R420: a register access other than an aligned one of 4 or 8 bytes, or where no register lies, or by a virtual function
outside its rings, changes nothing but the access-error bit. A locked register changes nothing but the lock error and the log. -/
def Obligations.Registers : Prop :=
  (∀ (v : Word) (core port fn ring part region queue r k : Nat) (m : BitVec 6) (q : Queue) (path : RegPath) (s : State), core < 864 →
    port < 6 → (∀ n, path ≠ .vf n) →
    let p := s.pkg
    let w := v.toNat
    (p.moduleId = none → exec (.pkgModuleId path v) s = .next { s with pkg := { p with moduleId := some (w % 2 ^ 17) } }) ∧
    (p.moduleId ≠ none → ∃ t, exec (.pkgModuleId path v) s = .next t ∧ t = { s with pkg := { p with errStatus := t.pkg.errStatus }, log := t.log } ∧
      t.pkg.errStatus.getLsbD 0 = true) ∧
    (v.truncate 7 &&& p.lock = 0 → exec (.pkgLock path v) s = .next { s with pkg := { p with lock := p.lock ||| v.truncate 7 } }) ∧
    (v.truncate 7 &&& p.lock ≠ 0 → ∃ t, exec (.pkgLock path v) s = .next t ∧ t.pkg.errStatus.getLsbD 0 = true ∧
      t = { s with pkg := { p with lock := p.lock ||| v.truncate 7, errStatus := t.pkg.errStatus }, log := t.log }) ∧
    (w % 2 = 1 → ∃ t, exec (.pkgArbClear path v) s = .next t ∧
      t = { s with pkg := { p with arbStats := [0, 0, 0, 0, 0] }, out := { s.out with arbs := t.out.arbs } } ∧
      (∀ e, e ∈ t.out.arbs → e.2.urgentHeld = 0) ∧ ∀ level, level < 5 → arbCount t level = 0) ∧
    (w % 2 = 0 → exec (.pkgArbClear path v) s = .next s) ∧
    (2 ^ 63 ≤ w → ∃ t, exec (.errPostedRecordClear path core v) s = .next t ∧ t = { s with cores := t.cores } ∧
      coreOf t core = { coreOf s core with posted := {} } ∧ ∀ c, c ≠ core → coreOf t c = coreOf s c) ∧
    (p.lock.getLsbD 1 = false → w % 4 ≤ 2 → w / 16 % 8 ≤ 5 →
      ∃ t, exec (.timeSource path v) s = .next t ∧ t = { s with time := t.time } ∧ t.time.now = s.time.now ∧ t.time.source = w % 4 ∧
        t.time.parent = w / 16 % 8 ∧ t.time.holdover = (w % 4 == 2 && !isUp (portOf s (w / 16 % 8)))) ∧
    (p.lock.getLsbD 1 = false → ¬ (w % 4 ≤ 2 ∧ w / 16 % 8 ≤ 5) →
      ∃ t, exec (.timeSource path v) s = .next t ∧ t = { s with time := t.time, pkg := { p with errStatus := p.errStatus ||| 8 } } ∧
        t.time.now = s.time.now ∧ t.time.source = min 2 (w % 4) ∧ t.time.parent = min 5 (w / 16 % 8)) ∧
    (p.lock.getLsbD 5 = false → (w % 2 = 1 ∨ isUp (portOf s port) = false) →
      ∃ t, exec (.lpCtrl path port v) s = .next t ∧ t = { s with lantern := t.lantern, power := { s.power with domains := t.power.domains } } ∧
        portOf t port = { portOf s port with
          enable := w % 2 == 1, loopback := w / 2 % 2 == 1, axis := w / 4 % 8, dateline := w / 32 % 2 == 1
          state := if w % 2 = 1 then (portOf s port).state else 0 } ∧
        t.power.domains.getLsbD (120 + port) = (w % 2 == 1 && !(portOf s port).noAssembly) ∧ ∀ j, j ≠ port → portOf t j = portOf s j) ∧
    (p.lock.getLsbD 5 = false → w % 2 = 0 → ∃ t, exec (.lpCtrl path port v) s = .next t ∧ (portOf t port).state = 0 ∧
      (portOf t port).enable = false ∧ t.power.domains.getLsbD (120 + port) = false) ∧
    (p.lock.getLsbD 5 = false → m = v.truncate 6 → m ≠ 0 →
      (bondOk s port m = true → ∃ t, exec (.lpBond path port v) s = .next t ∧ t = { s with lantern := t.lantern } ∧
        ∀ j, (j < 6 ∧ m.getLsbD j = true → portOf t j = { portOf s j with bond := m }) ∧
          (m.getLsbD j = false → (∃ k, k < 6 ∧ m.getLsbD k = true ∧ (portOf s k).bond.getLsbD j = true) →
            portOf t j = { portOf s j with bond := 0 }) ∧
          (m.getLsbD j = false → (∀ k, k < 6 → m.getLsbD k = true → (portOf s k).bond.getLsbD j = false) → portOf t j = portOf s j)) ∧
      (bondOk s port m = false → exec (.lpBond path port v) s = .next { s with pkg := { p with errStatus := p.errStatus ||| 4 } })) ∧
    (p.lock.getLsbD 5 = false → w % 64 = 0 → ∃ t, exec (.lpBond path port v) s = .next t ∧ t = { s with lantern := t.lantern } ∧
      ∀ j, portOf t j = if j < 6 ∧ (portOf s port).bond.getLsbD j = true then { portOf s j with bond := 0 } else portOf s j) ∧
    (fn ≤ 16 → ring < 4 → w % 2 = 1 → ringOn (ringOf s fn ring) = false → ∀ at_, (at_ = path ∨ at_ = .vf fn ∧ fn < 16) → ∀ x,
      x = { ringOf s fn ring with log2Size := w / 2 % 32, vector := w / 2 ^ 16 % 2 ^ 10 } → Machine.ringOk fn x = true →
      ∃ t, exec (.hostRingCtrl at_ fn ring v) s = .next t ∧ t = { s with rings := t.rings } ∧
        (p.state = 1 → ringOf t fn ring = enableRing x ∧
          (ringOf t fn ring).submit = 0 ∧ (ringOf t fn ring).epoch = 0 ∧ (ringOf t fn ring).enabled = true) ∧
        (p.state ≠ 1 → ringOf t fn ring = { x with enableHeld := true }) ∧
        ∀ j, j ≠ ringKey fn ring → tget j t.rings = tget j s.rings) ∧
    (fn ≤ 16 → ring < 4 → w % 2 = 0 → ringOn (ringOf s fn ring) = true → w / 2 % 32 = (ringOf s fn ring).log2Size →
      w / 2 ^ 16 % 2 ^ 10 = (ringOf s fn ring).vector → ∃ t, exec (.hostRingCtrl path fn ring v) s = .next t ∧ t = { s with rings := t.rings } ∧
        ringOf t fn ring = { ringOf s fn ring with enabled := false, enableHeld := false } ∧
        ∀ j, j ≠ ringKey fn ring → tget j t.rings = tget j s.rings) ∧
    (part < 16 → region < 8 → w % 2 ^ 16 ≠ 0 → ∃ t, exec (.partWayMask path part region v) s = .next t ∧ t = { s with parts := t.parts } ∧
      partOf t part = { partOf s part with wayMask := lset region (BitVec.ofNat 16 w) (partOf s part).wayMask } ∧
      ∀ n, n ≠ part → partOf t n = partOf s n) ∧
    (queueRef queue = some (r, k) → queueOf s r k = some q → 2 ^ 63 ≤ w →
      ∃ t, exec (.queueClear path queue v) s = .next t ∧ t = { s with engines := t.engines } ∧ queueOf t r k = some (clearQueue q) ∧
        (clearQueue q).stats = {} ∧ (clearQueue q).ptrA = q.ptrA ∧ (clearQueue q).occ = q.occ ∧
        ∀ j, j ≠ k → queueOf t r j = queueOf s r j) ∧
    (∃ t, exec (.syncDbgSelect path v) s = .next t ∧ t = { s with pkg := { p with dbgSelect := t.pkg.dbgSelect, dbgView := t.pkg.dbgView } } ∧
      t.pkg.dbgView.length = p.dbgView.length ∧ (∀ j, j ≠ dbgPath path → t.pkg.dbgView[j]? = p.dbgView[j]?) ∧
      (2 ^ 63 ≤ w → dbgPath path < p.dbgView.length → t.pkg.dbgView[dbgPath path]? = some (snapView s (v.truncate 32))) ∧
      (w < 2 ^ 63 → t.pkg.dbgView = p.dbgView))) ∧
  (∀ (path : RegPath) (n off width : Nat) (v : Word) (s : State),
    let err : Result := .next { s with pkg := { s.pkg with errStatus := s.pkg.errStatus ||| 4 } }
    ((width ≠ 4 ∧ width ≠ 8) ∨ off % width ≠ 0 → exec (.registerWrite path off width v) s = err) ∧
    (off < 0x8000 ∨ 0x8100 ≤ off → exec (.registerWrite (.vf n) off width v) s = err) ∧
    (∀ core port part region queue, core < 864 → port < 6 → part < 16 → region < 8 →
      ∀ i, i ∈ [Instr.pkgModuleId (.vf n) v, .pkgLock (.vf n) v, .pkgArbClear (.vf n) v, .errPostedRecordClear (.vf n) core v,
        .timeSource (.vf n) v, .pwrCap (.vf n) v, .pwrCclkMhz (.vf n) v, .lpCtrl (.vf n) port v, .lpBond (.vf n) port v,
        .partWayMask (.vf n) part region v, .queueClear (.vf n) queue v, .syncDbgSelect (.vf n) v] → exec i s = err) ∧
    (off % 8 = 0 → off ≥ 0x800000 → (∀ k, path ≠ .vf k) → exec (.registerWrite path off 8 v) s = err) ∧
    (v.toNat % 16 ≤ 8 → s.pkg.lock.getLsbD 4 = false → (∀ k, path ≠ .vf k) →
      exec (.registerWrite path 0x60000 8 v) s = .next { s with repair := { s.repair with reserveMin := v.toNat % 16 } }) ∧
    (s.pkg.lock.getLsbD 4 = true → (∀ k, path ≠ .vf k) → ∃ t, exec (.registerWrite path 0x60000 8 v) s = .next t ∧
      t = { s with pkg := { s.pkg with errStatus := t.pkg.errStatus }, log := t.log } ∧ t.pkg.errStatus.getLsbD 0 = true))

/-- R81, R87, R91, R115 to R120, R130 to R136, R310: a GEMM, a batched GEMM by pointer or a CONV of a loaded plan, with sizes its buckets
hold, operands in its partition, a candidate that fits and legal tiles, becomes one job of its products; every tile of the chosen grid goes
to its logical core's work, after what that core already had, the selection enters the cache, and the command stays started until the tiles
are done. With an illegal tile among them, or a true-colour sum past its guard bits, nothing is executed; with K zero it is answered at
once.

R90, R91, R135, R310, R311: a product with M, N or the batch zero, a plan that is not loaded in the partition, a template of another
command's kind (the model's choice, log entry 119), and a partition with fewer cores than the plan requires, are each answered at once, and
nothing is executed. -/
def Obligations.Products : Prop :=
  (∀ (c : Cmd) (p : GemmParams) (v : ConvParams) (list count id tmpl rowsA rowsB outer pick : Nat) (bound : Option Nat) (pl : Plan)
    (tm : Template) (m : MatCmd) (i : Instr) (bm bn bk : Nat × Nat) (cand : Candidate) (s : State),
    planOf s c.part id tmpl = some (pl, tm) → pl.coresRequired ≤ activeCores s c.part → m.c = c → m.plan = pl → m.t = tm →
    let entries := (List.range count).map fun x => readGlobal s (list + 32 * x) 32
    let live := entries.filter fun e => !(BitVec.ofNat 8 (fieldAt e 26 1)).getLsbD 0 && fieldAt e 24 2 != 0
    let largest := (entries.map fun e => fieldAt e 24 2).foldl max 0
    let convK := v.kh * v.kw * v.c
    let convM := v.nb * convOut v.h v.pt v.pb v.dh v.kh v.sh * convOut v.w v.pl v.pr v.dw v.kw v.sw
    ((i = .gemm c p ∧ tm.isMatrix = true ∧ id = p.head.plan ∧ tmpl = p.head.template ∧ p.batch ≤ 65535 ∧ p.m ≠ 0 ∧ p.n ≠ 0 ∧ p.batch ≠ 0 ∧
        m.h = p.head ∧ m.n = p.n ∧ m.k = p.k ∧ m.sizeM = ((gemmProds tm p).map fun e => e.1.m).headD p.m ∧ m.epi = p.epi ∧ m.conv = none ∧
        m.prods = gemmProds tm p ∧ m.lda = (if p.head.axisA then m.sizeM else p.k) ∧ m.ldb = (if p.head.axisB then p.k else p.n) ∧
        m.startsOk = (decide ((gemmProds tm p).length ≤ 1) || (tm.strideA % groupOf tm.fmtA == 0 && tm.strideB % groupOf tm.fmtB == 0)) ∧
        rowsA = (if p.head.axisA then p.k else m.sizeM) ∧ rowsB = (if p.head.axisB then p.n else p.k) ∧ outer = p.batch * p.m ∧ bound = none) ∨
      (i = .gemmBatchedPtr c p list count ∧ tm.isMatrix = true ∧ id = p.head.plan ∧ tmpl = p.head.template ∧ list % 64 = 0 ∧ 0 < count ∧
        count ≤ 4096 ∧ p.n ≠ 0 ∧ largest ≠ 0 ∧
        (∃ r, localRange s c.part list (32 * count) = some r ∧ readsPoison s r.1 r.2 (32 * count) = false) ∧
        m.h = p.head ∧ m.n = p.n ∧ m.k = p.k ∧ m.sizeM = largest ∧ m.epi = p.epi ∧ m.conv = none ∧ m.startsOk = true ∧
        (m.prods.map fun e => (e.1.a, e.1.b, e.1.d, e.1.m)) = live.map (fun e => (fieldAt e 0 8, fieldAt e 8 8, fieldAt e 16 8, fieldAt e 24 2)) ∧
        (∀ e x rest, m.prods = e ++ x :: rest → x = ({ x.1 with outer := (e.map fun y => y.1.m).sum, rows := [], cols := [] }, x.1.a + tm.scaleA, x.1.b + tm.scaleB)) ∧
        m.lda = (if p.head.axisA then largest else p.k) ∧ m.ldb = (if p.head.axisB then p.k else p.n) ∧
        rowsA = (if p.head.axisA then p.k else largest) ∧ rowsB = (if p.head.axisB then p.n else p.k) ∧
        outer = (live.map fun e => fieldAt e 24 2).sum ∧ bound = none) ∨
      (i = .conv c v ∧ tm.isConv = true ∧ id = v.head.plan ∧ tmpl = v.head.template ∧ convRange tm v = true ∧ convM ≠ 0 ∧
        operandOk s c.part v.input (operandBytes tm.fmtA (v.nb * v.h) (v.w * v.c)) = true ∧
        m.h = v.head ∧ m.n = v.oc ∧ m.k = convK ∧ m.sizeM = convM ∧ m.epi = v.epi ∧ m.conv = some v ∧ m.startsOk = true ∧
        m.prods = [({ a := v.input, b := v.weight, d := v.output, m := convM }, v.input + tm.scaleA, v.weight + tm.scaleB)] ∧ m.lda = v.c ∧
        m.ldb = (if v.head.axisB then convK else v.oc) ∧ rowsA = 2 ∧ rowsB = (if v.head.axisB then v.oc else convK) ∧ outer = convM ∧ bound = some v.c)) →
    drawsExceed m.h outer = false → prodsCheck s m rowsA rowsB = none → bucketFor tm.bucketsM m.sizeM = some bm → bucketFor tm.bucketsN m.n = some bn →
    bucketFor tm.bucketsK m.k = some bk → (∀ n, bound = some n → bucketFor tm.bucketsC n ≠ none) →
    (m.k = 0 → ∃ t nan inf, exec i s = .next t ∧ replied c { status := .ok, detail := 1, words := countWords nan inf } s t) ∧
    (m.k ≠ 0 → pickIndex s c.part id tmpl (comboOf tm bm.1 bn.1 bk.1) pl tm bm.2 bn.2 bk.2 = some pick →
      (candidatesAt tm (comboOf tm bm.1 bn.1 bk.1))[pick]? = some cand →
      let desc := fun (q : MatItem × Nat × Nat) => baseDesc s.nextJob tm m.h (if tm.shape = .auto then cand.shape else tm.shape) q.1.a q.1.b q.2.1 q.2.2
        (if m.h.axisA && m.conv.isNone then q.1.m else m.lda) m.ldb c.trueColour (isSwapped m) (hasBeta m.epi) (m.epi.bias != 0)
      let todo := todoOf s m s.nextJob cand bm.2 bn.2 bk.2
      let mine := fun (t : State) => (∀ n, n ≠ c.part → partOf t n = partOf s n) ∧
        partOf t c.part = { partOf s c.part with
          selection := (partOf t c.part).selection
          gens := { (partOf s c.part).gens with vectors := (partOf t c.part).gens.vectors } } ∧
        cachedAt t c.part id tmpl (comboOf tm bm.1 bn.1 bk.1) = some pick
      (c.trueColour = false → todo = (m.prods.map fun q => ({ item := q.1, base := desc q } : Machine.Prod)).zipIdx.flatMap fun e =>
        tilesOf cand (positions cand (logicalsOf s c.part)) bm.2 bn.2 bk.2 m.n m.k e.2 e.1) ∧
      (rangeExceeded s m s.nextJob cand = true →
        ∃ t, exec i s = .next t ∧ replied c { status := .exactRange } s t ∧ t = { s with rings := t.rings, parts := t.parts } ∧ mine t) ∧
      (rangeExceeded s m s.nextJob cand = false → (∃ e, e ∈ todo ∧ legalTile e.2 = false) →
        ∃ t, exec i s = .next t ∧ replied c { status := .tileIllegal } s t ∧ t = { s with rings := t.rings, parts := t.parts } ∧ mine t) ∧
      (rangeExceeded s m s.nextJob cand = false → (∀ e, e ∈ todo → legalTile e.2 = true) → todo ≠ [] →
        ∃ t job, exec i s = .next t ∧
          t = { s with
            jobs := t.jobs, nextJob := s.nextJob + 1, cores := t.cores, regions := t.regions, parts := t.parts
            out := { s.out with packets := t.out.packets, arbs := t.out.arbs } } ∧ mine t ∧ (m.conv = none → t.out = s.out) ∧
          tget s.nextJob t.jobs = some job ∧ job.cmd = c ∧ job.plan = id ∧ job.todo = todo ∧ job.exact = c.trueColour ∧
          (job.items.map fun x => (x.a, x.b, x.d, x.m, x.outer)) = m.prods.map (fun x => (x.1.a, x.1.b, x.1.d, x.1.m, x.1.outer)) ∧
          (∀ k, k ≠ s.nextJob → tget k t.jobs = tget k s.jobs) ∧
          ∀ core, coreOf t core = { coreOf s core with
            work := (coreOf s core).work ++ (todo.filter fun e => physOf s e.1 == some core).map (·.2)
            haloWait := (coreOf t core).haloWait } ∧ (m.conv = none → (coreOf t core).haloWait = (coreOf s core).haloWait)))) ∧
  (∀ (c : Cmd) (p : GemmParams) (v : ConvParams) (list count : Nat) (x : Plan × Template) (kind : Bool) (r : Space × Nat) (s : State),
    (p.head.plan = v.head.plan → p.head.template = v.head.template → ∀ i,
      (((i = .gemm c p ∨ i = .gemmBatchedPtr c p list count) ∧ kind = x.2.isMatrix) ∨ (i = .conv c v ∧ kind = x.2.isConv)) →
      ((planOf s c.part p.head.plan p.head.template = none ∨ planOf s c.part p.head.plan p.head.template = some x ∧ kind = false) →
        ∃ t, exec i s = .next t ∧ t = { s with rings := t.rings } ∧ replied c { status := .planRejected, detail := 0x0F00 } s t) ∧
      (planOf s c.part p.head.plan p.head.template = some x → kind = true → activeCores s c.part < x.1.coresRequired →
        ∃ t, exec i s = .next t ∧ t = { s with rings := t.rings } ∧ replied c { status := .hwFault } s t)) ∧
    (planOf s c.part p.head.plan p.head.template = some x → x.2.isMatrix = true → x.1.coresRequired ≤ activeCores s c.part →
      (p.batch ≤ 65535 → (p.m = 0 ∨ p.n = 0 ∨ p.batch = 0) →
        ∃ t, exec (.gemm c p) s = .next t ∧ t = { s with rings := t.rings } ∧ replied c { status := .emptyShape } s t) ∧
      (list % 64 = 0 → 0 < count → count ≤ 4096 → localRange s c.part list (32 * count) = some r → readsPoison s r.1 r.2 (32 * count) = false →
        (p.n = 0 ∨ ∀ y, y < count → fieldAt (readGlobal s (list + 32 * y) 32) 24 2 = 0) →
        ∃ t, exec (.gemmBatchedPtr c p list count) s = .next t ∧ t = { s with rings := t.rings } ∧ replied c { status := .emptyShape } s t)))

/-- R120, R122: the tiles of a candidate's grid hold every multiplication of an m × n × k product within its buckets exactly once,
whatever the visit order. -/
def Obligations.TilesCoverProduct : Prop :=
  ∀ (cand : Candidate) (bm bn bk m n k i j q : Nat), 0 < cand.gm → 0 < cand.gn → 0 < cand.gk → 0 < cand.mt → 0 < cand.nt → 0 < cand.kt →
    m ≤ bm → n ≤ bn → k ≤ bk → i < m → j < n → q < k →
    let holds := fun (x : Nat × Nat × Nat × Cut) =>
      x.1 < cand.gm ∧ x.2.1 < cand.gn ∧ x.2.2.1 < cand.gk ∧ x.2.2.2 ∈ cuts cand bm bn bk m n k x.1 x.2.1 x.2.2.1 ∧
        x.2.2.2.row ≤ i ∧ i < x.2.2.2.row + x.2.2.2.mt ∧ x.2.2.2.col ≤ j ∧ j < x.2.2.2.col + x.2.2.2.nt ∧
        x.2.2.2.k ≤ q ∧ q < x.2.2.2.k + x.2.2.2.kt
    ∃ x, holds x ∧ ∀ y, holds y → y = x

/-- R105, R111, R67, R250 to R252, R307, R310: BRUSH_RUN starts its program on every active core of the partition, at position zero with its
counts zero; REDUCE of operands that pass their checks answers ST_OK with its NaN and Inf counts, having written one output a position and
element, converted to the output format; attention forward and backward whose list and entries pass theirs write their rows and answer
ST_OK with both counts. -/
def Obligations.OtherComputeRuns : Prop :=
  (∀ (c : Cmd) (plan program args argBytes : Nat) (stream : BitVec 32) (seed : BitVec 64) (pl : Plan) (s : State),
    tget plan s.plans = some pl → pl.part = c.part → program < pl.body.programs.length → pl.coresRequired ≤ activeCores s c.part →
      operandOk s c.part args argBytes = true →
      ∃ t job, exec (.brushRun c plan program args argBytes stream seed) s = .next t ∧
        t = { s with jobs := t.jobs, nextJob := s.nextJob + 1, cores := t.cores } ∧ tget s.nextJob t.jobs = some job ∧ job.cmd = c ∧
        job.isBrush = true ∧ job.cores = (logicalsOf s c.part).filterMap (physOf s) ∧ (∀ k, k ≠ s.nextJob → tget k t.jobs = tget k s.jobs) ∧
        ∀ core, coreOf t core = if core ∈ job.cores then { coreOf s core with
            brush := { (coreOf s core).brush with nanCount := 0, infCount := 0, position := 0, exactRange := false } }
          else coreOf s core) ∧
  (∀ (c : Cmd) (pl : Plan) (tm : Template) (r : ReduceParams) (key w : Nat) (s : State),
    planOf s c.part r.head.plan r.head.template = some (pl, tm) → pl.coresRequired ≤ activeCores s c.part → reduceCheck s c tm r = none →
    (∃ t nan inf, exec (.reduce c r) s = .next t ∧ replied c { status := .ok, words := countWords nan inf } s t ∧
      t = { s with
        rings := t.rings, jobs := t.jobs, nextJob := s.nextJob + 1, cores := t.cores, mem := t.mem
        out := { s.out with packets := t.out.packets, arbs := t.out.arbs } }) ∧
    (r.head.sr = false → isMx tm.fmtOut = false → elemBits tm.fmtOut = 8 * w →
      let P := reducePositions r
      let n := r.outer * P * r.inner * w
      let value := fun (o pos x : Nat) => reduceValue c.trueColour tm r.op ((reduceWindow r pos).map (reduceInput s tm r o x))
      localRange s c.part r.dst n = some (.hbm, key) → key + n ≤ hbmTop → (∀ x, key ≤ x → x < key + n → isOffline s .hbm x = false) →
      ∃ t nan inf, exec (.reduce c r) s = .next t ∧ replied c { status := .ok, words := countWords nan inf } s t ∧
        t = { s with rings := t.rings, jobs := t.jobs, nextJob := s.nextJob + 1, mem := t.mem } ∧
        (∀ o pos x, o < r.outer → pos < P → x < r.inner →
          mreadN (key + ((o * P + pos) * r.inner + x) * w) w t.mem.hbm = toLe w (convert tm.fmtOut r.head.sat .rne (value o pos x).1)) ∧
        (∀ x, (x < key ∨ key + n ≤ x) → mread x t.mem.hbm = mread x s.mem.hbm) ∧ t.mem.palette = s.mem.palette ∧ t.mem.acc = s.mem.acc ∧
        t.mem.host = s.mem.host)) ∧
  ∀ (c : Cmd) (a : AttnParams) (dO dQ dKV pick : Nat) (pl : Plan) (tm : Template) (es : List AttnEntry) (run : AttnRun) (b : Nat × Nat)
    (cand : Candidate) (s : State),
    planOf s c.part a.head.plan a.head.template = some (pl, tm) → tm.isAttn = true → pl.coresRequired ≤ activeCores s c.part →
    a.list % 64 = 0 → 0 < a.count → a.count ≤ 4096 → a.qHeads ≠ 0 → a.kvHeads ≠ 0 → a.headDim ≠ 0 →
    operandOk s c.part a.list (64 * a.count) = true → globalPoisoned s a.list (64 * a.count) = false → es = attnEntries s a.list a.count →
    run = { part := c.part, t := tm, p := a, bptl := pl.body.bptl, layers := pl.body.layers, exact := c.trueColour, chunk := 256 } →
    (∀ e, e ∈ es → entryCheck s run (maxOf pl.body.kvBuckets) e = none) →
    bucketFor pl.body.kvBuckets (maxOf (es.map AttnEntry.keys)) = some b →
    pickIndex s c.part a.head.plan a.head.template b.1 pl tm (max 1 (maxOf tm.bucketsM)) (max 1 (maxOf tm.bucketsN)) b.2 = some pick →
    (candidatesAt tm b.1)[pick]? = some cand →
    ∀ i outs reads writes, ((i = .attnFwd c a ∧ outs = a.qHeads ∧ reads = (fun _ => []) ∧
          writes = fun e => [entryRows a.o tm.fmtOut (a.qHeads * a.headDim) e]) ∨
        (i = .attnBwd c a dO dQ dKV ∧ outs = max a.qHeads (2 * a.kvHeads) ∧
          reads = (fun e => [entryRows a.o tm.fmtOut (a.qHeads * a.headDim) e,
            entryRows dO tm.fmtOut (a.qHeads * a.headDim) e, (e.stats, e.qCount * a.qHeads * 8)]) ∧
          writes = fun e => [entryRows dQ tm.fmtOut (a.qHeads * a.headDim) e, entryRows dKV tm.fmtOut (2 * a.kvHeads * a.headDim) e])) →
      attnDraws a outs es = false → (∀ e, e ∈ es → furtherCheck s c.part (reads e) (writes e) = none) →
      ∃ t n1 i1 n2 i2, exec i s = .next t ∧ replied c { status := .ok, words := countWords n1 i1 ++ countWords n2 i2 } s t ∧
        t = { s with
          rings := t.rings, jobs := t.jobs, nextJob := t.nextJob, cores := t.cores, mem := t.mem, parts := t.parts
          out := { s.out with packets := t.out.packets, arbs := t.out.arbs } } ∧
        (a.head.sr = false → t.cores = s.cores) ∧
        ∀ n, partOf t n = { partOf s n with selection := (partOf t n).selection }

/-- R42, R83, R85, R100 to R102, R109, R113, R120, R121, R367: a core takes the next legal tile of its work while it holds fewer than two, no
change of CCLK waits and its groups have credits, and an illegal one ends its command; a brush program's descriptor it takes, or holds the
program on while the canvases hold two; its oldest tile completes into the canvases, into partials where K is split, or, with the last of
its outputs, into its command's reply.

R74, R75, R101 to R103, R367: a sum whose residue disagrees, or two copies of the FP32 stage that differ, have the tile restored and reissued,
at most twice, and then the core stops and reports; an error the residue misses stays in its column's cells; a poisoned operand ends its
command.

R41 to R43, R121, R358: a core sends a partial tile's next piece to its region against a credit, and gets one back for a piece that left
the buffer, two at most; the region drops a piece of another placement epoch or a finished output, counting it, and else accepts the first
whose chunk is its output's next: the first starts the running sum, a later one is added, rounded once, and the last ends it. -/
def Obligations.TilesAndPartials : Prop :=
  (∀ (core region addr off pass column : Nat) (delta : Int) (stage copy : Lane) (d : TileDesc) (ws : List TileDesc) (x : RunTile)
    (rest : List RunTile) (job : Option MatJob) (m : MatJob) (s : State), core < 864 →
    let c := coreOf s core
    let others := fun (t : State) => ∀ q, q ≠ core → coreOf t q = coreOf s q
    (c.work = d :: ws → mayIssue s core = true → s.keepers.takingOver.contains (core / 108) = false → haloDue s core = false →
      (∀ g, g ∈ groupsOf s core d.job → ∀ p, p ∈ g.2.ports → (coreOf s p).tiles.length < 2) →
      (legalTile d = true →
        (c.haloWait = false → ∃ t, exec (.tile core d) s = .next t ∧ t = { s with cores := t.cores, regions := t.regions } ∧ others t ∧
          coreOf t core = { c with tiles := c.tiles ++ [{ desc := d }], work := ws } ∧
          ∀ k, regionOf t k = { regionOf s k with groups := (regionOf t k).groups }) ∧
        ∃ t, exec (.tile core d) s = .next t ∧ (coreOf t core).tiles = c.tiles ++ [{ desc := d }] ∧ (coreOf t core).work = ws) ∧
      (legalTile d = false → tget d.job s.jobs = some m → ∃ t, exec (.tile core d) s = .next t ∧ replied m.cmd { status := .tileIllegal } s t ∧
        t = { s with rings := t.rings, jobs := tdel d.job s.jobs, cores := t.cores, regions := t.regions, combine := t.combine })) ∧
    (c.work.head? ≠ some d → isMatrixTile s d = false → mayAccept s core = true → c.tileWait = none → legalTile d = true →
      (loopsAligned d = true → ∃ t, exec (.tile core d) s = .next t ∧ t = { s with cores := t.cores } ∧ others t ∧
        coreOf t core = if c.tiles.length < 2 then { c with tiles := c.tiles ++ [{ desc := d }] } else { c with tileWait := some d }) ∧
      (loopsAligned d = false → tget d.job s.jobs = some m →
        ∃ t, exec (.tile core d) s = .next t ∧ replied m.cmd { status := .badAlign } s t)) ∧
    (c.tiles = x :: rest → x.desc = d → tget d.job s.jobs = job →
      (x.restoring = false → spaceHeld c d = false → readOutBad s core d = false → c.accWaits = [] →
        (tilePoison s (job.bind (·.conv)) d = none → stopDue s core = false → c.tileWait = none → x.upset = [] →
          (job = none ∨ (job = some m ∧ (m.isBrush = true ∨ d.lastK = false)) →
            ∃ t, exec (.tileCompletion core) s = .next t ∧ others t ∧
              t = { s with
                cores := t.cores, mem := { s.mem with acc := t.mem.acc }, power := { s.power with zgate := t.power.zgate }
                regions := t.regions } ∧
              (∀ k, regionOf t k = { regionOf s k with groups := (regionOf t k).groups }) ∧
              coreOf t core = { c with tiles := rest, accFlags := (coreOf t core).accFlags }) ∧
          (job = some m → m.isBrush = false → d.lastK = true → 1 < d.chunks →
            ∃ t ps, exec (.tileCompletion core) s = .next t ∧ others t ∧ t.jobs = s.jobs ∧ t.rings = s.rings ∧ t.mem.hbm = s.mem.hbm ∧
              coreOf t core = { c with tiles := rest, accFlags := (coreOf t core).accFlags, partials := c.partials ++ ps } ∧
              ps.length = (d.mt + 15) / 16 * ((d.nt + 15) / 16) ∧
              ∀ p, p ∈ ps → p.job = d.job ∧ p.chunk = d.chunk ∧ p.chunks = d.chunks ∧ p.epoch = (partOf s m.cmd.part).epoch ∧
                p.pieces = (if d.exact then 4 else 1)) ∧
          (job = some m → m.isBrush = false → d.lastK = true → d.chunks ≤ 1 →
            let left := m.todo.filter fun e => !(e.2.item == d.item && e.2.rowOff == d.rowOff && e.2.colOff == d.colOff)
            (left = [] → ∃ t nan inf, exec (.tileCompletion core) s = .next t ∧
              replied m.cmd { status := .ok, words := countWords nan inf } s t ∧
              tget d.job t.jobs = none ∧ ∀ k, k ≠ d.job → tget k t.jobs = tget k s.jobs) ∧
            (left ≠ [] → ∃ t y, exec (.tileCompletion core) s = .next t ∧ t.rings = s.rings ∧ tget d.job t.jobs = some y ∧ y.todo = left ∧
              ∀ k, k ≠ d.job → tget k t.jobs = tget k s.jobs))) ∧
        (∀ a, tilePoison s (job.bind (·.conv)) d = some a → job = some m →
          ∃ t, exec (.tileCompletion core) s = .next t ∧ replied m.cmd { status := .poisoned, detail := destRegion (a % 2 ^ 47) } s t ∧
            tget d.job t.jobs = none)) ∧
      ((x.restoring = true ∨ spaceHeld c d = true) → exec (.tileCompletion core) s = .next s) ∧
      (∀ source, ((source = .residue pass column delta ∧ residueMismatch s (job.bind (·.conv)) d pass column delta = true) ∨
          (source = .duplicate stage copy ∧ d.exact = false ∧ stage ≠ copy)) →
        (x.reissues < 2 → stopDue s core = false → ∃ t, exec (.computeFault core source) s = .next t ∧ others t ∧
          coreOf t core = { c with tiles := { x with restoring := true, upset := [] } :: rest, computeFaults := c.computeFaults + 1 } ∧
          t = { s with cores := t.cores, units := { s.units with compute := t.units.compute }, log := t.log, pkg := t.pkg, parts := t.parts }) ∧
        (x.reissues < 2 → stopDue s core = true → ∃ t, exec (.computeFault core source) s = .next t ∧ others t ∧
          coreOf t core = { c with tiles := [], work := c.tiles.map (·.desc) ++ c.work, computeFaults := c.computeFaults + 1 }) ∧
        (2 ≤ x.reissues → ∃ t, exec (.computeFault core source) s = .next t ∧ others t ∧
          coreOf t core = { c with stopped := true, computeFaults := c.computeFaults + 1 } ∧
          ((s.reports.countP fun q => q.1 == 1 && q.2.1 == blockOfCore core) < 16 →
            t.reports = s.reports ++ [(1, blockOfCore core, .persistentCore core)]))) ∧
      (residueMismatch s (job.bind (·.conv)) d pass column delta = false →
        ∃ t, exec (.computeFault core (.residue pass column delta)) s = .next t ∧ others t ∧ t = { s with cores := t.cores } ∧
          (delta = 0 → t = s) ∧
          (delta ≠ 0 → coreOf t core = { c with tiles := { x with upset := x.upset ++ columnCells d column } :: rest })) ∧
      ((d.exact = true ∨ stage = copy) → exec (.computeFault core (.duplicate stage copy)) s = .next s) ∧
      (x.restoring = true → stopDue s core = false → ∃ t, exec (.tileReissue core) s = .next t ∧ others t ∧ t = { s with cores := t.cores } ∧
        coreOf t core = { c with tiles := { x with restoring := false, reissues := x.reissues + 1 } :: rest }) ∧
      (job = some m → ∀ source r, ((source = .memory region addr ∧ r = region) ∨ (source = .palette off ∧ r = core / 108)) →
        ∃ t, exec (.computeFault core source) s = .next t ∧ replied m.cmd { status := .poisoned, detail := r } s t ∧
          tget d.job t.jobs = none))) ∧
  (∀ (core region : Nat) (p : Partial) (rest : List Partial) (y : Combining) (s : State), core < 864 → region < 8 →
    let c := coreOf s core
    let b := tgetD region ([], []) s.combine
    let taken := dropFirst (· == p) b.1
    let unmade := b.2.filter fun q => !sameOut p q
    let others := fun (t : State) (r : Nat) => ∀ k, k ≠ r → tget k t.combine = tget k s.combine
    (c.partials = p :: rest → 0 < c.credits →
      ∃ t, exec (.partialTileDelivery core) s = .next t ∧ t = { s with cores := t.cores, combine := t.combine } ∧ others t (core / 108) ∧
        coreOf t core = { c with
          credits := c.credits - 1, partials := if p.pieces ≤ 1 then rest else { p with pieces := p.pieces - 1 } :: rest } ∧
        (∀ q, q ≠ core → coreOf t q = coreOf s q) ∧
        tget (core / 108) t.combine = some ((tgetD (core / 108) ([], []) s.combine).1 ++ [{ p with pieces := p.pieces - 1 }],
          (tgetD (core / 108) ([], []) s.combine).2)) ∧
    ((c.partials = [] ∨ c.credits = 0) → exec (.partialTileDelivery core) s = .next s) ∧
    (c.credits + bufferedOf s core < 2 → ∃ t, exec (.combineCreditReturn core) s = .next t ∧ t = { s with cores := t.cores } ∧
      coreOf t core = { c with credits := c.credits + 1 } ∧ ∀ q, q ≠ core → coreOf t q = coreOf s q) ∧
    (2 ≤ c.credits + bufferedOf s core → exec (.combineCreditReturn core) s = .next s) ∧
    (b.1.find? (isStale s) = some p → ∃ t, exec (.combineAccept region) s = .next t ∧ t = { s with combine := t.combine, parts := t.parts } ∧
      tget region t.combine = some (taken, b.2) ∧ others t region ∧ partOf t p.part = { partOf s p.part with staleDrops := (partOf s p.part).staleDrops + 1 } ∧
      ∀ n, n ≠ p.part → partOf t n = partOf s n) ∧
    (b.1.find? (isStale s) = none → b.1.find? (fun q => nextChunk b.2 q == q.chunk) = some p →
      (p.pieces ≠ 0 → exec (.combineAccept region) s = .next { s with combine := tput region (taken, b.2) s.combine }) ∧
      (p.pieces = 0 → b.2.find? (sameOut p) = some y → p.chunk ≠ 0 → y.next + 1 < p.chunks →
        ∃ t z, exec (.combineAccept region) s = .next t ∧ t = { s with combine := t.combine } ∧ others t region ∧
          tget region t.combine = some (taken, unmade ++ [z]) ∧ z.next = y.next + 1 ∧
          z.data = (List.zipWith (fun u v => round32 (addV (val32 u) (val32 v))) y.data p.data) ∧
          z.exact = List.zipWith mergeExact y.exact p.exact ∧ (z.job, z.item, z.row, z.col) = (y.job, y.item, y.row, y.col)) ∧
      (p.pieces = 0 → p.chunk = 0 → 1 < p.chunks → b.2.find? (sameOut p) = none →
        ∃ t z, exec (.combineAccept region) s = .next t ∧ t = { s with combine := t.combine } ∧ others t region ∧
          tget region t.combine = some (taken, unmade ++ [z]) ∧
          z = { job := p.job, item := p.item, row := p.row, col := p.col, next := 1, data := p.data, exact := p.exact }) ∧
      (p.pieces = 0 → p.chunks ≤ p.chunk + 1 → ∃ t, exec (.combineAccept region) s = .next t ∧
        ∀ z, z ∈ (tgetD region ([], []) t.combine).2 → sameOut p z = false)))

/-- R233 to R235, R243, R262, R307: SEQ_CREATE that passes its checks gives the lowest free entry a sequence in PREFILL with the operands'
properties, now as its arrival and an empty window, or one that starts with what the prompt tree matched; and its client a record; it
replies with the handle. PREFIX_LOOKUP replies with how many blocks match, changing no memory.

R234 to R236, R244, R249, R255, R256, R259: a command on a sequence that its partition's running step holds waits for the commit. Else
SEQ_VERIFY attaches its candidates to a DECODE sequence; SEQ_ROLLBACK sets LENGTH and the pending token; SEQ_FORK makes a child at the same
length in a free entry; SEQ_RELEASE frees the entry and advances its reuse count; DEADLINE_SET sets the deadline. Each replies ST_OK. A
handle that names no sequence is refused with detail 6.

R258: SWAP_OUT of a PREFILL or DECODE sequence with private pages queues their copy to the host address on the home region's engine, and
the sequence is SWAPPED; SWAP_IN of a SWAPPED one finds it fresh pages and queues the copy back. Neither replies before its copy ends. A
sequence with nothing to do is answered ST_OK with nothing moved; one whose copy is in flight, ST_LOCKED. R235, R262, R307: ACCOUNT_READ
writes the record it names. -/
def Obligations.SequencesLive : Prop :=
  (∀ (c : Cmd) (model priority client maxLength promptLength prompt tokenRec topK i : Nat) (temperature stop : BitVec 32) (seed : BitVec 64)
    (isLookup : Bool) (s : State),
    (seqCreateCheck s c.part model priority client maxLength promptLength prompt tokenRec topK = none → freeSeqEntry s c.part = some i →
      ∃ t q, exec (.seqCreate c model priority client maxLength promptLength isLookup prompt tokenRec temperature topK stop seed) s = .next t ∧
        replied c { status := .ok, words := [seqHandle s i] } s t ∧ t = { s with rings := t.rings, serving := t.serving, mem := t.mem, out := t.out } ∧
        tget i t.serving.seqs = some q ∧ (∀ j, j ≠ i → tget j t.serving.seqs = tget j s.serving.seqs) ∧
        (t.serving.clients.any fun x => x.part == c.part && x.client == client) = true ∧
        q = { q with
          handle := seqHandle s i, state := .prefill, priority := priority, part := c.part, model := model, client := client
          maxLength := maxLength, promptLength := promptLength, promptAddr := prompt, tokenRec := tokenRec, temperature := temperature
          topK := topK, seed := seed, arrival := s.time.now, stopTok := stop, pendingTok := 0xFFFFFFFF, deadline := 0, verify := none } ∧
        q.length = q.prefilled ∧ q.length < promptLength ∧ (isLookup = false → q.length = 0 ∧ q.pages = [] ∧ t.mem = s.mem)) ∧
    (checkList s c.part prompt (4 * promptLength) 1 = none → modelPlan s c.part model ≠ none →
      ∃ t n, exec (.prefixLookup c model promptLength prompt) s = .next t ∧ replied c { status := .ok, words := [BitVec.ofNat 32 n] } s t ∧
        t = { s with rings := t.rings, serving := { s.serving with nodes := t.serving.nodes, stamp := t.serving.stamp, collisions := t.serving.collisions } } ∧
        n ≤ promptLength / 64 ∧ n = (lookupPrompt s c.part model prompt promptLength).1.length)) ∧
  (∀ (c : Cmd) (h tok : BitVec 32) (i j n count cand interval fallback tokenRec : Nat) (ext : Bool) (deadline seed : BitVec 64) (b : BatchStep)
    (ps : List PageRef) (q : Seq) (s s1 : State),
    let cmds := [Instr.seqVerify c h count ext cand, .seqRollback c h n tok, .seqFork c h seed tokenRec, .seqRelease c h,
      .deadlineSet c h interval deadline fallback, .swapOut c h n, .swapIn c h]
    let only := fun (t : State) => ∀ k, k ≠ i → tget k t.serving.seqs = tget k s.serving.seqs
    (seqRef s h = none → ∀ x, x ∈ cmds → ∃ t, exec x s = .next t ∧ t = { s with rings := t.rings } ∧
      replied c { status := .badLength, detail := 6 } s t) ∧
    (seqRef s h = some (i, q) → q.part = c.part → q.state ≠ .shadow → swapping s i = false →
      (tget q.part s.serving.steps = some b → (b.entries.any fun e => e.seq == i) = true → 0 < count → count ≤ 16 →
        checkList s c.part cand (4 * count) 1 = none → ∀ x, x ∈ cmds →
          ∃ t y, exec x s = .next t ∧ t = { s with serving := { s.serving with steps := t.serving.steps } } ∧
            tget q.part t.serving.steps = some { b with held := b.held ++ [y] }) ∧
      (inStep s q i = false →
        (0 < count → count ≤ 16 → checkList s c.part cand (4 * count) 1 = none → q.state = .decode →
          ∃ t, exec (.seqVerify c h count ext cand) s = .next t ∧ replied c { status := .ok } s t ∧
            t = { s with rings := t.rings, serving := { s.serving with seqs := t.serving.seqs } } ∧ only t ∧
            tget i t.serving.seqs = some { q with
              verify := some ((List.range count).map fun k => BitVec.ofNat 32 (readNum s (cand + 4 * k) 4), ext) }) ∧
        (q.promptLength ≤ n → n ≤ q.length → (∀ x, seqRef s q.shadow ≠ some (i, x)) →
          ∃ t, exec (.seqRollback c h n tok) s = .next t ∧ replied c { status := .ok } s t ∧
            (seqRef s q.shadow = none → only t) ∧
            (∀ k x, seqRef s q.shadow = some (k, x) → tget k t.serving.seqs = some { x with length := min x.length n } ∧
              ∀ l, l ≠ i → l ≠ k → tget l t.serving.seqs = tget l s.serving.seqs) ∧
            t = { s with rings := t.rings, serving := { s.serving with seqs := t.serving.seqs }, mem := t.mem, out := t.out } ∧
            tget i t.serving.seqs = some { q with
              length := n, pendingTok := tok, lag := 0, sharedBlocks := min q.sharedBlocks (n / 64)
              prefilled := if q.recompute then min q.prefilled n else q.prefilled }) ∧
        (q.state ≠ .swapped → checkOperand s c.part tokenRec (16 * q.maxLength) 1 = none → freeSeqEntry s c.part = some j →
          forkPages q.part q.homeRegion q.pages 0 [] s = some (ps, s1) → q.pages.length ≤ 8192 → ps.length ≤ 8192 →
          ∃ t x, exec (.seqFork c h seed tokenRec) s = .next t ∧ replied c { status := .ok, words := [seqHandle s j] } s t ∧
            tget j t.serving.seqs = some x ∧ x.handle = seqHandle s j ∧ x.length = q.length ∧ x.pendingTok = q.pendingTok ∧ x.seed = seed ∧
            x.tokenRec = tokenRec ∧ x.pages = ps ∧ x.state = q.state ∧ x.preempts = 0 ∧ j ≠ i ∧
            tget i t.serving.seqs = some { q with
              pageListAddr := pageListPlace i, pages := q.pages.map fun p => { p with shared := p.shared || ps.any (·.page == p.page) } } ∧
            ∀ k, k ≠ i → k ≠ j → tget k t.serving.seqs = tget k s.serving.seqs) ∧
        ((partOf s q.part).gens.retires = [] → seqRef s q.shadow = none →
          ∃ t, exec (.seqRelease c h) s = .next t ∧ replied c { status := .ok } s t ∧ t = { s with rings := t.rings, serving := t.serving } ∧
            tget i t.serving.seqs = none ∧ only t ∧ tget i t.serving.reuse = some ((tgetD i 0 s.serving.reuse + 1) % 256)) ∧
        (fallback = 0xFF ∨ deadline = 0 → seqRef s q.shadow = none →
          ∃ t, exec (.deadlineSet c h interval deadline fallback) s = .next t ∧ replied c { status := .ok } s t ∧ only t ∧
            t = { s with rings := t.rings, serving := { s.serving with seqs := t.serving.seqs } } ∧
            tget i t.serving.seqs = some { q with
              deadline := deadline, interval := interval, shadow := 0xFFFFFFFF, fallbackEnabled := false }) ∧
        (fallback ≠ 0xFF → deadline ≠ 0 → seqRef s q.shadow = none → fallbackCheck s q fallback = none → freeSeqEntry s q.part = some j →
          ∃ t x, exec (.deadlineSet c h interval deadline fallback) s = .next t ∧ replied c { status := .ok } s t ∧
            t = { s with rings := t.rings, serving := { s.serving with seqs := t.serving.seqs } } ∧ j ≠ i ∧
            tget j t.serving.seqs = some x ∧ x.handle = seqHandle s j ∧ x.state = .shadow ∧ x.model = fallback ∧ x.length = 0 ∧ x.pages = [] ∧
            tget i t.serving.seqs = some { q with
              deadline := deadline, interval := interval, shadow := seqHandle s j, fallbackEnabled := true } ∧
            ∀ k, k ≠ i → k ≠ j → tget k t.serving.seqs = tget k s.serving.seqs)))) ∧
  (∀ (c : Cmd) (h x : BitVec 32) (i k host what client dest key : Nat) (clear : Bool) (q : Seq) (ps : List PageRef) (s s1 : State),
    let queued := fun (t u : State) (p : DmaFor) (src dst : List (Nat × Nat)) => ∃ tr,
      channelOf t q.homeRegion k = { channelOf u q.homeRegion k with
        serial := ((channelOf u q.homeRegion k).serial + 1) % 2 ^ 24, transfers := (channelOf u q.homeRegion k).transfers ++ [tr] } ∧
      tr.purpose = p ∧ tr.op = .pieces src dst ∧ tr.length = privateSize q ∧ tr.part = q.part ∧ tr.checks = 0 ∧ tr.next = 0
    let hostAt := ownModule s * 2 ^ 47 + 0x400000000000 + host
    (seqRef s h = some (i, q) → q.part = c.part → q.state ≠ .shadow → inStep s q i = false →
      (swapping s i = true → ∀ y, y ∈ [Instr.swapOut c h host, .swapIn c h] →
        ∃ t, exec y s = .next t ∧ t = { s with rings := t.rings } ∧ replied c { status := .locked, words := noBytes } s t) ∧
      (swapping s i = false → pickChannel s q.homeRegion 255 = some k → privateSize q ≠ 0 →
        ((q.state = .prefill ∨ q.state = .decode) → checkOperand s c.part hostAt (privateSize q) 1 = none →
          ∃ t, exec (.swapOut c h host) s = .next t ∧ queued t s (.swapOut (some c) i) (privatePieces s q) [(hostAt, privateSize q)] ∧
            t = { s with channels := t.channels, serving := { s.serving with seqs := t.serving.seqs } } ∧
            tget i t.serving.seqs = some { countPreempt q with state := .swapped, swapAddr := 0x400000000000 + host } ∧
            ∀ j, j ≠ i → tget j t.serving.seqs = tget j s.serving.seqs) ∧
        (q.state = .swapped → refill q.part q.homeRegion q.pages 0 [] s = some (ps, s1) → ps.length ≤ 8192 →
          ∃ t, exec (.swapIn c h) s = .next t ∧ t.rings = s.rings ∧
            queued t s (.swapIn (some c) i) [(ownModule s * 2 ^ 47 + q.swapAddr, privateSize q)] (privatePieces s { q with pages := ps }) ∧
            tget i t.serving.seqs = some { q with pages := ps, pageListAddr := pageListPlace i } ∧
            ∀ j, j ≠ i → tget j t.serving.seqs = tget j s.serving.seqs) ∧
        (q.state = .finished → ∀ y, y ∈ [Instr.swapOut c h host, .swapIn c h] →
          ∃ t, exec y s = .next t ∧ t = { s with rings := t.rings } ∧ replied c { status := .ok, words := noBytes } s t)) ∧
      (swapping s i = false → (∀ p, p ∈ q.pages → p.shared = true) →
        ((q.state = .prefill ∨ q.state = .decode) → checkOperand s c.part hostAt 0 1 = none →
          ∃ t, exec (.swapOut c h host) s = .next t ∧ replied c { status := .ok, words := noBytes } s t ∧
            t = { s with rings := t.rings, serving := { s.serving with seqs := t.serving.seqs } } ∧
            tget i t.serving.seqs = some { countPreempt q with state := .swapped, swapAddr := 0x400000000000 + host } ∧
            ∀ j, j ≠ i → tget j t.serving.seqs = tget j s.serving.seqs) ∧
        (q.state = .swapped →
          ∃ t, exec (.swapIn c h) s = .next t ∧ replied c { status := .ok, words := noBytes } s t ∧
            t = { s with rings := t.rings, serving := { s.serving with seqs := t.serving.seqs } } ∧
            tget i t.serving.seqs = some { q with state := liveState q, swapAddr := 0 } ∧
            ∀ j, j ≠ i → tget j t.serving.seqs = tget j s.serving.seqs))) ∧
    (∀ bs, bs = accountBytes s c what client x → accountCheck s c what x dest bs.length = none →
      localRange s c.part dest bs.length = some (.hbm, key) →
      (∀ a, key ≤ a → a < key + bs.length → isOffline s .hbm a = false) →
        ∃ t, exec (.accountRead c what clear client x dest) s = .next t ∧ replied c { status := .ok } s t ∧
          t = { s with rings := t.rings, mem := t.mem, parts := t.parts, serving := t.serving } ∧
          (clear = false ∨ (what ≠ 1 ∧ what ≠ 3) → t.parts = s.parts ∧ t.serving = s.serving) ∧
          (clear = true → what = 3 → (partOf t c.part).experts.drops = [] ∧ ∀ n, n ≠ c.part → partOf t n = partOf s n) ∧
          (clear = true → what = 1 → ∀ y, y ∈ t.serving.clients → isClient c.part client y = true → y = { part := c.part, client := client }) ∧
          mreadN key bs.length t.mem.hbm = bs ∧
          (∀ a, (a < key ∨ key + bs.length ≤ a) → mread a t.mem.hbm = mread a s.mem.hbm) ∧ t.mem.palette = s.mem.palette ∧
          t.mem.acc = s.mem.acc ∧ t.mem.host = s.mem.host))

/-- R245, R246, R248 to R250, R254: SEQ_STEP that passes its checks with ready sequences starts one step: its entries are ready sequences of
the model, at most as many as results fit, taking at most BUDGET tokens together, and each ATTN_FWD it issues has a list of entries of 64
bytes; without any it answers ST_EMPTY_SHAPE. At the commit of a greedy decode entry whose scatters have completed, the sequence is one
position longer and its pending token is the first largest logit; the step is gone and replies with its counts. A step whose command
failed commits nothing, and the named sequences fault. One whose logits or scatters are not all there waits. -/
def Obligations.StepsComposeAndCommit : Prop :=
  ∀ (c : Cmd) (model chunk budget result resultEntries predictNs part ns code : Nat) (g : BitVec 16) (logits : List StepLogits)
    (row : List Lane) (kv : List (List Byte)) (named : List (BitVec 32)) (b : BatchStep) (e : StepEntry) (q : Seq) (s : State),
    let cap := min resultEntries 4096
    let all := readyList s c.part model
    let ready := all.filter fun x => x.2.oldGen == drainedGen all
    let es := compose s (predictedEnd s c.part model predictNs) (if chunk = 0 then 512 else chunk) cap budget ready
    (seqStepCheck s c model chunk budget result cap = none → modelGen s c.part model = some g →
      (es = [] → ∃ t, exec (.seqStep c model chunk budget result resultEntries predictNs) s = .next t ∧ t = { s with rings := t.rings } ∧
        replied c { status := .emptyShape } s t) ∧
      (es ≠ [] → ∃ t x, exec (.seqStep c model chunk budget result resultEntries predictNs) s = .next t ∧ t.rings = s.rings ∧
        t = { s with serving := t.serving, mem := t.mem } ∧ tget c.part t.serving.steps = some x ∧ x.cmd = c ∧ x.model = model ∧ x.held = [] ∧
        x.gen = (drainedGen all).getD g ∧ x.entries.length ≤ cap ∧ (x.entries.map (·.count)).sum ≤ budget ∧
        (∀ y, y ∈ x.entries → y ∈ es ∧ ∃ r, (y.seq, r) ∈ s.serving.seqs ∧ isReady s c.part model y.seq r = true) ∧
        (∀ a, a ∈ x.attn → a.entries ≠ [] ∧ ∀ y, y ∈ a.entries → y.length = 64) ∧
        ∀ p, p ≠ c.part → tget p t.serving.steps = tget p s.serving.steps)) ∧
    (tget part s.serving.steps = some b → cmdStopped s b.cmd = false → (jobOf (partOf s part) (jobOfCmd b.cmd)).soft = none →
      b.held = [] → (partOf s part).gens.retires = [] → (partOf s part).gens.flips = [] → b.leftOut = [] →
      let r := ringOf s b.cmd.fn b.cmd.ring
      let replies := fun (t : State) (a : Answer) => ringOf t b.cmd.fn b.cmd.ring = { r with
        started := r.started.erase b.cmd, replies := r.replies ++ [{ cmd := b.cmd, answer := a, time := s.time.now }], due := r.due ++ [b.cmd.idx] }
      (b.entries = [e] → e.prefill = false → e.fallback = false → e.count = 1 → tget e.seq s.serving.seqs = some q → q.lag = 0 → q.verify = none →
        isGreedy q = true → q.length + 1 < q.maxLength → logits = [{ seq := q.handle, rows := [row], kv := kv }] → row ≠ [] →
        seqRef s q.shadow = none →
        (∀ p, modelPlan s q.part q.model = some p → kv.map List.length = List.replicate p.body.layers p.body.bptl) →
        ∃ t x, exec (.stepCommit part logits none ns) s = .next t ∧ tget part t.serving.steps = none ∧
          replies t { status := .ok, words := [1, 1, b.gen.setWidth 32] } ∧ tget e.seq t.serving.seqs = some x ∧ x.length = q.length + 1 ∧
          x.pendingTok = BitVec.ofNat 32 (argmax row) ∧ x.gen = b.gen ∧ x.tokenRec = q.tokenRec ∧ x.handle = q.handle) ∧
      ∃ t, exec (.stepCommit part logits (some (code, named)) ns) s = .next t ∧ tget part t.serving.steps = none ∧
        replies t { status := statusOf code } ∧ t.mem = s.mem ∧
        (∀ k, tget k t.serving.seqs = if (b.entries.any fun y => y.seq == k) = true then
            (tget k s.serving.seqs).map fun y => if named.contains y.handle then { y with state := .faulted } else y
          else tget k s.serving.seqs)) ∧
    (tget part s.serving.steps = some b → cmdStopped s b.cmd = false → logitsOk s b logits = false →
      exec (.stepCommit part logits none ns) s = .next s) ∧
    (tget part s.serving.steps = none → exec (.stepCommit part logits none ns) s = .next s)

/-- R263, R264, R272, R339: GROUP_SET with 2 to 131,072 members of a legal kind, of a group that is new and has room or is the partition's
own, sets the group; BUCKET_CONFIG of a group this module belongs to, with buckets of 32 to 256 MiB in the partition, sets the partition's
buckets, none of them filled, and its telemetry table. Nothing else changes.

R34, R67, R263 to R267: a bucket that fills, and an ALLREDUCE that passes its checks, join their group's reductions. On an idle ring the
first pieces leave for both neighbours on the group's ports, in packets within their class's limit, or in true colour the top exponents for
the next; a bucket fills once. In normal mode a step of the reduce-scatter adds this member's elements to those that arrived, each rounded
once, and passes them on; every step but the last leaves the reduction one step on, and the last step of the all-gather ends it: its
command answers ST_OK, or its bucket is reduced. A ring that stalls or loses a member ends it with ST_TIMEOUT or ST_UNIT_DARK. What the
messages hold, and that a bucket's reduction is in true colour by BUCKET_CONFIG's flag, are the model's choices (log entries 18, 54, 132).

R268 to R271: NORM_GLOBAL puts this module's message in its tree node; at a leaf it leaves for the parent at once, elsewhere the node
waits for its children. With the last child's arrival a node's sums go up or, at the root, complete the command with G, c and the flag
word, ST_NONFINITE_SKIP where a flagged step is to be skipped; G is the root of the summed squares divided by the loss scale, and c is 1.0
or MAX_NORM ÷ G, whichever applies. A timeout answers ST_TIMEOUT and skips the step; a node that gave up takes no more. -/
def Obligations.Learning : Prop :=
  (∀ (c : Cmd) (group kind format telemetry records : Nat) (members : List GroupMember) (buckets : List (Nat × Nat × Nat × Nat)) (s : State),
    (kind ≤ 4 → 2 ≤ members.length → members.length ≤ 131072 →
      (tget group s.lantern.groups = none ∧ s.lantern.groups.length < 256 ∨ ∃ g, tget group s.lantern.groups = some g ∧ g.part = c.part) →
      ∃ t, exec (.groupSet c group kind members) s = .next t ∧ replied c { status := .ok } s t ∧
        t = { s with rings := t.rings, lantern := { s.lantern with groups := t.lantern.groups } } ∧
        tget group t.lantern.groups = some { part := c.part, kind := kind, members := members } ∧
        ∀ k, k ≠ group → tget k t.lantern.groups = tget k s.lantern.groups) ∧
    (groupCheck s c.part group = none → (format = 0 ∨ format = 2) → (∀ b, b ∈ buckets → 32 ≤ b.2.1 ∧ b.2.1 ≤ 256 ∧
        checkOperand s c.part b.1 (b.2.1 * 0x100000) 1 = none) → buckets.length ≤ 1024 →
      (telemetry = 0 ∨ 1 ≤ records ∧ records ≤ 65536 ∧ checkOperand s c.part telemetry (32 * records) 1 = none) →
      ∃ t, exec (.bucketConfig c group format buckets telemetry records) s = .next t ∧ replied c { status := .ok } s t ∧
        t = { s with rings := t.rings, parts := t.parts } ∧ (∀ n, n ≠ c.part → partOf t n = partOf s n) ∧
        partOf t c.part = { partOf s c.part with learning := { (partOf s c.part).learning with
          group := group, format := format, exact := c.trueColour, telemetry := telemetry, telemetryRecords := records, telemetryNext := 0
          buckets := buckets.map fun b => { base := b.1, mib := b.2.1, first := b.2.2.1, last := b.2.2.2 } } })) ∧
  (∀ (c : Cmd) (group format addr length part bucket : Nat) (incoming : List Byte) (isDark : Bool) (x : RingPlace) (b : Bucket) (r : Reduction)
    (s : State),
    let l := (partOf s part).learning
    let fresh : Reduction := { cmd := some c, bucket := none, format := format, addr := addr, length := length, exact := c.trueColour }
    let message := fun (next : Bool) (step : Nat) (bs : List Byte) =>
      let m := if next then (x.next, x.nextPort) else (x.prev, x.prevPort)
      piecesOf (viaPort s m.2 (relayPacket s 4 group m.1 step bs))
    let own := fun (q : Reduction) (forward : Bool) => ownHalf s q (pieceHalf q x.size x.index forward)
    let sent := fun (t : State) (step : Nat) (fs bs : List Byte) => t.out = { s.out with
      packets := s.out.packets ++ message true step fs ++ message false step bs, arbs := t.out.arbs }
    let sentExps := fun (t : State) (q : Reduction) => t.out = { s.out with
      packets := s.out.packets ++ message true 0 ((localExps s q).flatMap expBytes), arbs := t.out.arbs }
    let listed := fun (t : State) (rs : List Reduction) => tget group (partOf t part).learning.reductions = some rs ∧
      ∀ n, n ≠ part → partOf t n = partOf s n
    (c.part = part → groupCheck s part group = none → ringFormatOk format length = true →
      checkList s part addr length 1 = none → ringPlace s part group = some x →
      (tgetD group [] l.reductions = [] → ∃ t, exec (.allreduce c group format addr length) s = .next t ∧ t = { s with parts := t.parts, out := t.out } ∧
        (c.trueColour = false → listed t [fresh] ∧ sent t 0 (own fresh true) (own fresh false)) ∧
        (c.trueColour = true → listed t [{ fresh with exps := localExps s fresh }] ∧ sentExps t fresh)) ∧
      (tgetD group [] l.reductions ≠ [] → ∃ t, exec (.allreduce c group format addr length) s = .next t ∧ t = { s with parts := t.parts } ∧
        listed t (tgetD group [] l.reductions ++ [fresh]))) ∧
    (l.buckets[bucket]? = some b → l.group = group → ringPlace s part group = some x →
      (b.filled = true → exec (.bucketFill part bucket) s = .next s) ∧
      (b.filled = false → ∀ q,
        q = { cmd := none, bucket := some bucket, format := l.format, addr := b.base, length := b.mib * 0x100000, exact := l.exact } →
        ∃ t, exec (.bucketFill part bucket) s = .next t ∧ t = { s with parts := t.parts, out := t.out } ∧
          (partOf t part).learning.buckets[bucket]? = some { b with filled := true } ∧
          (tgetD group [] l.reductions ≠ [] → listed t (tgetD group [] l.reductions ++ [q]) ∧ t.out = s.out) ∧
          (tgetD group [] l.reductions = [] → l.exact = false → listed t [q] ∧ sent t 0 (own q true) (own q false)) ∧
          (tgetD group [] l.reductions = [] → l.exact = true → listed t [{ q with exps := localExps s q }] ∧ sentExps t q))) ∧
    (∀ last, last = (if r.exact then 3 else 2) * (x.size - 1) → tgetD group [] l.reductions = [r] → ringPlace s part group = some x →
      r.cmd = none → r.bucket = some bucket → l.buckets[bucket]? = some b → r.step + 1 = last → 2 ≤ x.size →
      ∃ t, exec (.ringStep part group r.step incoming) s = .next t ∧ listed t [] ∧
        (partOf t part).learning.buckets[bucket]? = some { b with reduced := true }) ∧
    (∀ last, last = (if r.exact then 3 else 2) * (x.size - 1) → tgetD group [] l.reductions = [r] → ringPlace s part group = some x →
      r.cmd = some c → cmdStopped s c = false →
      (r.step + 1 < last → ∃ t q, exec (.ringStep part group r.step incoming) s = .next t ∧ listed t [q] ∧
        q = { r with step := r.step + 1, exps := q.exps } ∧ (r.exact = false → q.exps = r.exps)) ∧
      (r.exact = false → r.step + 1 < x.size - 1 →
        ∃ t, exec (.ringStep part group r.step incoming) s = .next t ∧ t = { s with parts := t.parts, out := t.out } ∧
          listed t [{ r with step := r.step + 1 }] ∧
          let f := pieceHalf r x.size (reducePieces x r.step).1 true
          let k := pieceHalf r x.size (reducePieces x r.step).2 false
          sent t (r.step + 1) (addHalf s r f incoming).flatten (addHalf s r k (incoming.drop (f.2 * travelBytes r))).flatten) ∧
      (r.step + 1 = last → 2 ≤ x.size → ∃ t, exec (.ringStep part group r.step incoming) s = .next t ∧ replied c { status := .ok } s t ∧
        listed t []) ∧
      (∀ k, k ≠ r.step → exec (.ringStep part group k incoming) s = .next s) ∧
      ∃ t, exec (.ringStepTimeout part group isDark) s = .next t ∧ replied c { status := if isDark then .unitDark else .timeout } s t ∧
        listed t [] ∧ t = { s with rings := t.rings, parts := t.parts })) ∧
  (∀ (c : Cmd) (group layers timeout die node child m : Nat) (skip : Bool) (maxNorm : Lane) (v v0 : List Lane) (nf f0 : Option Nat) (g : Group)
    (r : NormRun) (n n0 : NormNode) (rest : List (List Lane × Option Nat)) (s : State),
    let l := (partOf s c.part).learning
    let run : NormRun :=
      { cmd := c, group := group, layers := layers, skip := skip, maxNorm := maxNorm
        own := (List.range layers).map fun k => tgetD k 0 l.layerSq }
    let up := fun (t : State) (dst : Nat) (bs : List Lane) => ∃ p, t.out = { s.out with packets := s.out.packets ++ piecesOf p, arbs := t.out.arbs } ∧
      p.type = .relay ∧ p.dst = dst ∧ p.data = lanesBytes bs
    (groupCheck s c.part group = none → 1 ≤ layers → layers ≤ 1024 → timeout < 2 ^ 32 → l.norm = none → tget group s.lantern.groups = some g →
      n0 = tgetD (normKey group) {} s.lantern.norms → n0.timedOut = false → tget 0 n0.arrived = none →
      ((∃ k, k ≤ (groupKids s g).length ∧ 0 < k ∧ tget k n0.arrived = none) ∨ (groupKids s g = [] ∧ groupParent s g = some m)) →
      ∃ t x, exec (.normGlobal c group layers skip maxNorm timeout) s = .next t ∧ t.rings = s.rings ∧ t.mem = s.mem ∧
        (partOf t c.part).learning = { l with norm := some run } ∧
        tget (normKey group) t.lantern.norms = some x ∧ x.part = c.part ∧ x.children = 1 + (groupKids s g).length ∧ x.parent = groupParent s g ∧
        x.timedOut = false ∧ (∀ k, k ≠ normKey group → tget k t.lantern.norms = tget k s.lantern.norms) ∧
        (groupKids s g ≠ [] → x.arrived = tput 0 (ownVector run, ownFlag s c.part) n0.arrived ∧ t.out = s.out) ∧
        (c.trueColour = false → ownVector run = run.own) ∧
        (groupKids s g = [] → x.arrived = [] ∧ up t m (ownVector run))) ∧
    (tget (treeKey die node) s.lantern.norms = some n → n.timedOut = true → allArrived n = none →
      exec (.normNodeArrival die node child v nf) s = .next s) ∧
    (tget (treeKey die node) s.lantern.norms = some n → n.timedOut = false → tget child n.arrived = none →
      (allArrived { n with arrived := tput child (v, nf) n.arrived } = none →
        ∃ t, exec (.normNodeArrival die node child v nf) s = .next t ∧ t = { s with lantern := { s.lantern with norms := t.lantern.norms } } ∧
          tget (treeKey die node) t.lantern.norms = some { n with arrived := tput child (v, nf) n.arrived } ∧
          ∀ k, k ≠ treeKey die node → tget k t.lantern.norms = tget k s.lantern.norms) ∧
      (allArrived { n with arrived := tput child (v, nf) n.arrived } = some ((v0, f0) :: rest) → n.part = c.part → l.norm = some r →
        normKey r.group = treeKey die node → r.cmd.trueColour = false →
        let sums := rest.foldl (fun a y => combineVectors 0 a y.1) v0
        let G := div32 (val32 (sqrt32 (val32 (Config.normSum sums)))) (val32 (lossScale s c.part))
        let cl := if ltV (val32 r.maxNorm) (val32 G) then div32 (val32 r.maxNorm) (val32 G) else 0x3F800000
        (n.parent = some m → ∃ t, exec (.normNodeArrival die node child v nf) s = .next t ∧ up t m sums ∧
          t = { s with out := t.out, lantern := { s.lantern with norms := t.lantern.norms } } ∧
          tget (treeKey die node) t.lantern.norms = some { n with arrived := [] }) ∧
        (n.parent = none → ∃ t flag, exec (.normNodeArrival die node child v nf) s = .next t ∧
          replied r.cmd { status := if flag.getLsbD 31 && r.skip then .nonfiniteSkip else .ok, words := [G, cl, flag] } s t ∧
          (partOf t c.part).learning.norm = none ∧ (partOf t c.part).learning.clip = cl ∧
          (partOf t c.part).learning.skipped = (l.skipped || (flag.getLsbD 31 && r.skip)) ∧ tget (normKey r.group) t.lantern.norms = none))) ∧
    (l.norm = some r → ∃ t, exec (.normGlobalTimeout c.part) s = .next t ∧ replied r.cmd { status := .timeout } s t ∧
      (partOf t c.part).learning = { l with norm := none, skipped := true } ∧ (∀ k, k ≠ c.part → partOf t k = partOf s k) ∧
      t = { s with rings := t.rings, parts := t.parts, log := t.log, pkg := t.pkg, lantern := { s.lantern with norms := tdel (normKey r.group) s.lantern.norms } }) ∧
    (tget (treeKey die node) s.lantern.norms = some n → allArrived n = none →
      ∃ t, exec (.normNodeTimeout die node) s = .next t ∧ t = { s with lantern := { s.lantern with norms := t.lantern.norms } } ∧
        tget (treeKey die node) t.lantern.norms = some { n with timedOut := true } ∧
        ∀ k, k ≠ treeKey die node → tget k t.lantern.norms = tget k s.lantern.norms))

/-- R270, R272, R273: an OPTIMIZER_STEP whose state, arrays and telemetry table lie apart in the partition's HBM: a step marked skipped
changes no array, sets the count of steps in a row to 0, and answers ST_NONFINITE_SKIP; an applied one of Adam or SGD writes every moment
and weight by its line, each rounded once, under the step count t + 1, and answers ST_OK. Either clears the mark and the norm partials. A
reserved working format is answered ST_BAD_OPCODE (R46). -/
def Obligations.OptimizerSteps : Prop :=
  ∀ (c : Cmd) (p : OptParams) (kb kw km kv kc kt : Nat) (s : State),
    let l := (partOf s c.part).learning
    let b := optBlock s p.state
    let copyBytes := (b.n * elemBits p.workingFormat + 7) / 8 + (if isMx p.workingFormat then (b.n + 31) / 32 else 0)
    let areas := [(kb, 64), (kw, 4 * b.n), (km, 4 * b.n), (kc, copyBytes)] ++ (if p.sgd then [] else [(kv, 4 * b.n)]) ++
      (if l.telemetry = 0 ∨ l.telemetryRecords = 0 then [] else [(kt, 32 * l.telemetryRecords)])
    let apart := areas.Pairwise fun x y => x.1 + x.2 ≤ y.1 ∨ y.1 + y.2 ≤ x.1
    let lane := fun (u : State) (k i : Nat) => BitVec.ofNat 32 (leNat (mreadN (k + 4 * i) 4 u.mem.hbm))
    (12 < p.workingFormat → ∃ t, exec (.optimizerStep c p) s = .next t ∧ t = { s with rings := t.rings } ∧ replied c { status := .badOpcode } s t) ∧
    (optCheck s c.part p l.format = none → apart →
    localRange s c.part p.state 64 = some (.hbm, kb) → localRange s c.part b.w (4 * b.n) = some (.hbm, kw) →
    localRange s c.part b.m (4 * b.n) = some (.hbm, km) → (p.sgd = false → localRange s c.part b.v (4 * b.n) = some (.hbm, kv)) →
    (l.telemetry ≠ 0 → l.telemetryRecords ≠ 0 →
      localRange s c.part l.telemetry (32 * l.telemetryRecords) = some (.hbm, kt) ∧ l.telemetryNext < l.telemetryRecords) →
    localRange s c.part b.copy copyBytes = some (.hbm, kc) → (∀ x, x ∈ areas → x.1 + x.2 ≤ hbmTop) →
    (∀ x, x ∈ areas → ∀ a, x.1 ≤ a → a < x.1 + x.2 → isOffline s .hbm a = false) →
      ∃ t, exec (.optimizerStep c p) s = .next t ∧ (partOf t c.part).learning.skipped = false ∧ (partOf t c.part).learning.layerSq = [] ∧
        (∀ n, n ≠ c.part → partOf t n = partOf s n) ∧ t.mem.host = s.mem.host ∧
        (∀ a, (∀ x, x ∈ areas → a < x.1 ∨ x.1 + x.2 ≤ a) → mread a t.mem.hbm = mread a s.mem.hbm) ∧
        (l.skipped = true → replied c { status := .nonfiniteSkip } s t ∧ (∀ i, i < b.n →
            lane t kw i = lane s kw i ∧ lane t km i = lane s km i ∧ (p.sgd = false → lane t kv i = lane s kv i)) ∧
          leNat (mreadN kb 4 t.mem.hbm) = b.step ∧ leNat (mreadN (kb + 8) 4 t.mem.hbm) = 0) ∧
        (l.skipped = false → replied c { status := .ok } s t ∧ leNat (mreadN kb 4 t.mem.hbm) = b.step + 1 ∧
          ∀ i, i < b.n →
            let g := optGrad (decodeElem l.format (readElem s b.grad l.format i)) l.clip b.scale
            (p.sgd = true → lane t km i = sgdM p.b1 (lane s km i) g ∧
              lane t kw i = sgdW p.lr p.wd (sgdM p.b1 (lane s km i) g) (lane s kw i)) ∧
            (p.sgd = false → lane t km i = optM p.b1 (lane s km i) g ∧ lane t kv i = optV p.b2 (lane s kv i) g ∧
              lane t kw i = adamW p.lr p.wd p.eps p.b1 p.b2 (b.step + 1) (lane s kw i) (optM p.b1 (lane s km i) g)
                (optV p.b2 (lane s kv i) g))))

/-- R61, R279 to R283, R290: a GEN_STAGE that passes its checks, of layers no staging holds that find places, opens their standby slots in
STAGING and stays started; without places it is answered ST_QUOTA. An increment of a layer's counter copies the next chunk out of a source
buffer and has it checked against its CRC-64: it is verified, or counted as failed, the third failure ending the command; more increments
than chunks end it too. The pre-pass of a layer whose chunks are all verified forms the exponent vectors its active image has for the new
one, the layer becomes COMPLETE, and the command answers when every layer is; a stall ends it with ST_TIMEOUT. -/
def Obligations.GenerationsStaged : Prop :=
  ∀ (c : Cmd) (gen stallMs layerList layers noticeModule model source part layer i : Nat) (notice : BitVec 32) (g : StageCmd) (t0 : Staging)
    (s : State),
    let opened := fun (es : List (Nat × Nat × Nat)) => es.foldl (fun o e => o.bind (openLayer c.part model (BitVec.ofNat 16 gen) e))
      (some (es.foldl (fun u e => modLayer c.part model e.1 (fun l => { l with standby := {}, staging := none }) u) s))
    let es := (List.range layers).map fun k => layerEntry (readGlobal s (layerList + 16 * k) 16)
    let gens := fun (u : State) (p : Nat) => (partOf u p).gens
    let slot := layerAt s part model layer
    let others := fun (t : State) (p : Nat) => ∀ k, k ≠ p → partOf t k = partOf s k
    (stageCheck s c gen stallMs layerList layers notice model source es = none → (gens s c.part).stagings = [] → opened es = none →
      ∃ t, exec (.genStage c gen stallMs layerList layers notice noticeModule model source) s = .next t ∧ replied c { status := .quota } s t ∧
        t = { s with rings := t.rings }) ∧
    (stageCheck s c gen stallMs layerList layers notice model source es = none → (gens s c.part).stagings = [] → (es.map (·.1)).Nodup →
      (∀ e, e ∈ es → e.1 < 65536) → opened es ≠ none →
      ∃ t, exec (.genStage c gen stallMs layerList layers notice noticeModule model source) s = .next t ∧ t.rings = s.rings ∧ others t c.part ∧
        (gens t c.part).stagings = [{ cmd := c, model := model, gen := BitVec.ofNat 16 gen, layers := es.map (·.1), notice := notice,
                                      noticeModule := noticeModule, source := source }] ∧
        ∀ e, e ∈ es → (layerAt t c.part model e.1).standby.state = .staging ∧ (layerAt t c.part model e.1).standby.gen = BitVec.ofNat 16 gen ∧
          (layerAt t c.part model e.1).standby.bytes = e.2.1 ∧ (layerAt t c.part model e.1).active = (layerAt s c.part model e.1).active ∧
          (layerAt t c.part model e.1).staging = some { bytes := e.2.1, crcTable := e.2.2, chunks := (e.2.1 + 0x1FFFFF) / 0x200000 }) ∧
    (stageOf s part model layer = some g → g.model = model → slot.staging = some t0 → slot.standby.state = .staging →
      let copied := copyChunk part g layer i t0 s
      (g.source = 0 → copied = s) ∧
      (t0.counter < t0.chunks → nextChunkOf t0 = some i → chunkOk copied part model layer i t0 = true →
        ∃ t, exec (.stagingChunk part model layer) s = .next t ∧ t = { s with parts := t.parts, mem := copied.mem } ∧ others t part ∧
          layerAt t part model layer = { slot with staging := some { t0 with
            counter := t0.counter + 1, next := max t0.next (i + 1), verified := t0.verified ++ [i] } }) ∧
      (t0.counter < t0.chunks → nextChunkOf t0 = some i → chunkOk copied part model layer i t0 = false → tgetD i 0 t0.fails < 2 → g.notice = 0xFFFFFFFF →
        ∃ t x, exec (.stagingChunk part model layer) s = .next t ∧ t.rings = s.rings ∧ others t part ∧
          (layerAt t part model layer).staging = some x ∧ x.counter = t0.counter ∧ x.verified = t0.verified ∧
          tget i x.fails = some (tgetD i 0 t0.fails + 1) ∧ (layerAt t part model layer).standby = slot.standby) ∧
      (t0.counter < t0.chunks → nextChunkOf t0 = some i → chunkOk copied part model layer i t0 = false → tgetD i 0 t0.fails = 2 → g.notice = 0xFFFFFFFF →
        ∃ t, exec (.stagingChunk part model layer) s = .next t ∧ others t part ∧ replied g.cmd { status := .genChecksum, detail := layer } s t ∧
          g ∉ (gens t part).stagings) ∧
      (t0.chunks ≤ t0.counter → ∃ t, exec (.stagingChunk part model layer) s = .next t ∧ t = { s with rings := t.rings, parts := t.parts } ∧
        replied g.cmd { status := .genChecksum, detail := 2 } s t ∧ g ∉ (gens t part).stagings) ∧
      (t0.chunks ≤ t0.verified.length → (gens s part).flips = [] → g.layers = [layer] → layer < modelLayers s part model →
        ∃ t, exec (.layerPrePass part model layer) s = .next t ∧ t = { s with rings := t.rings, parts := t.parts } ∧ others t part ∧
          (slot.standby.gen = g.gen → replied g.cmd { status := .ok, words := [1] } s t) ∧
          (gens t part).vectors = ((gens s part).vectors.filter fun v => !inSlot s slot.standby v.b) ++
            ((gens s part).vectors.filter fun v => inSlot s slot.active v.b).map
              (fun v => vectorAt s v (v.b - slot.active.addr + slot.standby.addr)) ∧
          layerAt t part model layer = { slot with standby := { slot.standby with state := .complete }, staging := none })) ∧
    ((gens s part).stagings.find? (fun x => x.model == model) = some g →
      ∃ t, exec (.stagingStallTimeout part model) s = .next t ∧ t = { s with rings := t.rings, parts := t.parts } ∧ others t part ∧
        replied g.cmd { status := .timeout, words := [BitVec.ofNat 32 (stagedCount s part g)] } s t ∧ g ∉ (gens t part).stagings ∧
        ∀ l, l ∈ g.layers → l < 65536 → (layerAt t part model l).standby.state = .staging → (layerAt t part model l).standby.gen ≠ g.gen)

/-- R279, R284, R285, R289: while no step of the model runs, an ATOMIC flip with every layer COMPLETE in its generation makes them all
ACTIVE at once and answers ST_OK; with one missing it waits for a boundary or its timeout; with one COMPLETE in another generation it is
refused. A PER_LAYER flip takes the layers that are COMPLETE and waits for the others. While a step runs a flip waits. A flip at a boundary
takes what is COMPLETE. A retirement of a generation nothing uses empties its PREVIOUS slots; one in use waits. A drain timeout leaves no
sequence of the model on an old generation. Which layers an ATOMIC flip takes while one has no ACTIVE slot is the model's choice (log entry
131). -/
def Obligations.GenerationsFlipAndRetire : Prop :=
  ∀ (c : Cmd) (model gen timeout part : Nat) (layers : List Nat) (f : FlipCmd) (r : Cmd × Nat × BitVec 16) (s : State),
    let g := BitVec.ofNat 16 gen
    let flip := fun (a : Bool) => ({ cmd := c, model := model, atomic := a, gen := g, layers := layers } : FlipCmd)
    let all := atomicLayers s c.part (flip true)
    let gens := (partOf s c.part).gens
    let now := layers.filter (isComplete s c.part model g)
    let left := layers.filter fun l => !isComplete s c.part model g l
    let others := fun (t : State) => ∀ k, k ≠ c.part → partOf t k = partOf s k
    (stepRuns s c.part model = false → gens.flips = [] →
      (all ≠ [] → all.Nodup → (∀ l, l ∈ all → isComplete s c.part model g l = true) →
        ∃ t, exec (.genFlip c model true gen timeout layers) s = .next t ∧ replied c { status := .ok } s t ∧ t = { s with rings := t.rings, parts := t.parts, serving := t.serving } ∧ others t ∧
          (partOf t c.part).gens.flips = [] ∧
          ∀ l, l ∈ all → layerAt t c.part model l = flipLayer (layerAt s c.part model l) ∧ (layerAt t c.part model l).active.gen = g ∧
            (layerAt t c.part model l).active.state = .active) ∧
      ((∀ l, l ∈ all → isOther s c.part model g l = false) → (∃ l, l ∈ all ∧ isComplete s c.part model g l = false) →
        ∃ t, exec (.genFlip c model true gen timeout layers) s = .next t ∧ t = { s with parts := t.parts } ∧ others t ∧
          partOf t c.part = { partOf s c.part with gens := { gens with flips := [flip true] } }) ∧
      (layers.Nodup → ∃ t, exec (.genFlip c model false gen timeout layers) s = .next t ∧
        t = { s with rings := t.rings, parts := t.parts, serving := t.serving } ∧ others t ∧
        (∀ l, l ∈ now → layerAt t c.part model l = flipLayer (layerAt s c.part model l)) ∧
        (∀ l, l ∉ now → layerAt t c.part model l = layerAt s c.part model l) ∧
        (left = [] → replied c { status := .ok } s t ∧ (partOf t c.part).gens.flips = []) ∧
        (left ≠ [] → t.rings = s.rings ∧ (partOf t c.part).gens.flips = [{ flip false with layers := left }])) ∧
      ((∃ l, l ∈ all ∧ isOther s c.part model g l = true) → ∃ t, exec (.genFlip c model true gen timeout layers) s = .next t ∧
        t = { s with rings := t.rings } ∧ replied c { status := .genMismatch, detail := 2 } s t)) ∧
    (∀ a, stepRuns s c.part model = true → (a = true → ∀ l, l ∈ all → isOther s c.part model g l = false) →
      ∃ t, exec (.genFlip c model a gen timeout layers) s = .next t ∧ t = { s with parts := t.parts } ∧ others t ∧
        partOf t c.part = { partOf s c.part with gens := { gens with flips := gens.flips ++ [flip a] } }) ∧
    (∀ ls, ls = (if f.atomic then atomicLayers s c.part f else f.layers) → stepRuns s c.part model = false → gens.flips = [f] → f.model = model →
      (∀ l, l ∈ ls → isComplete s c.part model f.gen l = true) → ls.Nodup → (f.atomic = true → ls ≠ []) →
      ∃ t, exec (.repaint c.part model) s = .next t ∧ replied f.cmd { status := .ok } s t ∧ others t ∧ (partOf t c.part).gens.flips = [] ∧
        ∀ l, l ∈ ls → layerAt t c.part model l = flipLayer (layerAt s c.part model l)) ∧
    (stepRuns s c.part model = true → exec (.repaint c.part model) s = .next s) ∧
    (gens.flips.find? (fun x => x.model == model) = some f →
      ∃ t, exec (.genFlipTimeout c.part model) s = .next t ∧ replied f.cmd { status := .timeout } s t ∧ t = { s with rings := t.rings, parts := t.parts } ∧
        others t ∧ partOf t c.part = { partOf s c.part with gens := { gens with flips := gens.flips.filter (· != f) } }) ∧
    (gens.retires = [] →
      (genInUse s c.part model g = false → ∃ t, exec (.genRetire c model gen timeout) s = .next t ∧ replied c { status := .ok } s t ∧
        t = { s with rings := t.rings, parts := t.parts } ∧ others t ∧ (partOf t c.part).gens.retires = [] ∧
        ∀ l, l < 65536 → (layerAt t c.part model l).active = (layerAt s c.part model l).active ∧
          ((layerAt t c.part model l).standby.state = .previous → (layerAt t c.part model l).standby.gen ≠ g)) ∧
      (genInUse s c.part model g = true → ∃ t, exec (.genRetire c model gen timeout) s = .next t ∧ t = { s with parts := t.parts } ∧
        partOf t c.part = { partOf s c.part with gens := { gens with retires := [(c, model, g)] } } ∧ others t)) ∧
    (gens.retires.find? (fun x => x.2.1 == model) = some r →
      ∃ t, exec (.genRetireTimeout c.part model) s = .next t ∧ replied r.1 { status := .timeout } s t ∧ t = { s with rings := t.rings, parts := t.parts } ∧
        others t ∧ partOf t c.part = { partOf s c.part with gens := { gens with retires := gens.retires.filter (· != r) } }) ∧
    ∃ t, exec (.drainTimeout part model) s = .next t ∧ t.mem = s.mem ∧ t.cores = s.cores ∧
      ∀ e, e ∈ t.serving.seqs → e.2.part = part → e.2.model = model → e.2.oldGen = none

/-- R274 to R277: EXPERT_MAP_SET's entries wait, and EXPERT_MAP_APPLY, once no dispatch is in flight, applies all that wait, in order, and
answers them. TOKEN_DISPATCH that passes its checks answers with the rows its first pass placed, those a later choice placed, and the drops,
at once where every segment is in this module and else when the DMAs that carry the others have ended; it changes of the expert tables the
drop counts alone; no expert is given more rows than its segment has slots. TOKEN_COMBINE writes the tokens' rows and nothing else in
memory. -/
def Obligations.ExpertsRouted : Prop :=
  ∀ (c : Cmd) (count list t k routing rows out listCount rowBytes key : Nat) (nextChoice addResidual : Bool) (w : Cmd × List (Nat × Expert)) (s : State),
    let x := (partOf s c.part).experts
    let others := fun (u : State) => ∀ n, n ≠ c.part → partOf u n = partOf s n
    let es := (List.range count).map fun i => (readNum s (list + 32 * i) 4, expertOf (readGlobal s (list + 32 * i + 16) 16))
    let segs := segmentsOf s list listCount
    let placed := firstPass s segs routing t k
    let both := if nextChoice then secondPass s segs routing k placed.1 placed.2 else placed
    let segsOk := ∀ g, g ∈ segs → checkOperand s c.part g.addr (g.cap * (16 + rowBytes)) 2 = none
    (1 ≤ count → count ≤ 65536 → checkList s c.part list (32 * count) 1 = none → (∀ e, e ∈ es → e.1 ≤ 65535) →
      ∃ u, exec (.expertMapSet c count list) s = .next u ∧ u = { s with parts := u.parts } ∧ others u ∧
        partOf u c.part = { partOf s c.part with experts := { x with waiting := x.waiting ++ [(c, es)] } }) ∧
    (x.dispatches ≠ [] → exec (.expertMapApply c.part) s = .next s) ∧
    (x.dispatches = [] → x.waiting = [w] → ∃ u, exec (.expertMapApply c.part) s = .next u ∧ replied w.1 { status := .ok } s u ∧ u = { s with rings := u.rings, parts := u.parts } ∧
      others u ∧ partOf u c.part = { partOf s c.part with experts := { x with waiting := [], map := w.2.foldl (fun m e => tput e.1 e.2 m) x.map } }) ∧
    (x.waiting = [] → exec (.expertMapApply c.part) s = .next s) ∧
    (expertCheck s c t k routing rows list listCount rowBytes = none → segsOk → (∀ g, g ∈ segs → handleRef g.counter = .none) →
      remoteSegments s rows rowBytes both.1 segs ≠ 0 → pickChannel s (regionOfHbm (rows % 2 ^ 47) % 8) 255 ≠ none →
      ∃ u, exec (.tokenDispatch c t k nextChoice routing rows list listCount rowBytes) s = .next u ∧ u.rings = s.rings ∧ others u ∧
        (partOf u c.part).experts = { x with
          drops := (partOf u c.part).experts.drops
          dispatches := x.dispatches ++ [{ cmd := c, left := remoteSegments s rows rowBytes both.1 segs
                                           words := [BitVec.ofNat 32 placed.1.length, BitVec.ofNat 32 (both.1.length - placed.1.length),
                                                     BitVec.ofNat 32 both.2.length] }] }) ∧
    (expertCheck s c t k routing rows list listCount rowBytes = none → segsOk → (∀ g, g ∈ segs → handleRef g.counter = .none) →
      remoteSegments s rows rowBytes both.1 segs = 0 →
      ∃ u, exec (.tokenDispatch c t k nextChoice routing rows list listCount rowBytes) s = .next u ∧
        replied c { status := .ok, words := [BitVec.ofNat 32 placed.1.length, BitVec.ofNat 32 (both.1.length - placed.1.length), BitVec.ofNat 32 both.2.length] } s u ∧
        others u ∧ (partOf u c.part).experts = { x with drops := (partOf u c.part).experts.drops } ∧
        (both.2 = [] → (partOf u c.part).experts = x) ∧ placed.1.length + placed.2.length ≤ t * k ∧
        ∀ e, both.1.countP (fun p => p.expert == e) ≤ ((segs.find? fun g => g.expert == e).map (·.cap)).getD 0) ∧
    (expertCheck s c t k routing out list listCount rowBytes = none → segsOk → localRange s c.part out (t * rowBytes) = some (.hbm, key) →
      ∃ u, exec (.tokenCombine c t k addResidual routing out list listCount rowBytes) s = .next u ∧ replied c { status := .ok } s u ∧
        u = { s with rings := u.rings, mem := u.mem, free := s.free + 1 } ∧ u.mem.palette = s.mem.palette ∧ u.mem.acc = s.mem.acc ∧ u.mem.host = s.mem.host ∧
        ∀ a, (a < key ∨ key + t * rowBytes ≤ a) → mread a u.mem.hbm = mread a s.mem.hbm)

/-- R158, R383 to R387: CKPT_POLICY with allowed codes sets them, and else is refused. A copy that passes its checks starts the DMA of its
image into the older half of the buddy's area, after the range check the buddy is asked for, writes nothing of this module's memory and stays
started until it is acknowledged; one that does not answers its first refusal and writes nothing. A copy a fog warning asked for starts once
the optimizer step has let it, with the next epoch; where no copy was ever taken, or the last is too recent, none is. A restore without a
COMPLETE copy answers ST_BUDDY_UNAVAILABLE with detail 6, and one of another signature ST_SHAPE_MISMATCH; neither writes anything. The
engine that runs a copy is the model's choice (log entry 56). -/
def Obligations.BuddyCopies : Prop :=
  ∀ (c last : Cmd) (epoch buddy table source minInterval ch : Nat) (onFog : Bool) (codes : List Nat) (signature : BitVec 64) (found : BuddyFound)
    (copy : Option (List Byte)) (read : Nat → Nat → List Byte) (e : Status × Nat) (s : State),
    let k := (partOf s c.part).ckpt
    let others := fun (t : State) => ∀ n, n ≠ c.part → partOf t n = partOf s n
    let set := fun (x : Ckpt) => { partOf s c.part with ckpt := x }
    let noted := { k with last := some (c, epoch, buddy, table, signature), lastTime := s.time.now }
    let copies := fun (t : State) (by_ : Option Cmd) (n : Nat) =>
      let a := buddy * 2 ^ 47 + found.base + olderHalf found.epochs * found.halfBytes
      let ts := tableTensors s c.part table
      let q := channelOf s 0 ch
      t = { s with parts := t.parts, channels := t.channels, out := { s.out with packets := t.out.packets, arbs := t.out.arbs } } ∧ others t ∧
        ∃ tr p, channelOf t 0 ch = { q with serial := (q.serial + 1) % 2 ^ 24, transfers := q.transfers ++ [tr] } ∧
          tr.purpose = .buddy by_ c.part (some (a, headBytes n ts.length (ownModule s) signature)) ∧ tr.dst = a + 0x1000 ∧
          tr.op = .image (copyImage ts (storedTensors s ts)) ∧ tr.checks = 1 ∧ tr.next = 0 ∧
          t.out.packets = s.out.packets ++ [p] ∧ p.type = .rangeCheck ∧ p.dst = buddy ∧ p.arg.toNat = a % 2 ^ 47 + 0x1000
    let reached := buddy ≠ ownModule s ∧ buddy < 2 ^ 17 ∧ found.base + 2 * found.halfBytes ≤ 2 ^ 47 ∧ pickChannel s 0 255 = some ch
    (policyOk codes = true → ∃ t, exec (.ckptPolicy c codes onFog minInterval) s = .next t ∧ replied c { status := .ok } s t ∧
      t = { s with rings := t.rings, parts := t.parts } ∧ others t ∧ partOf t c.part = set { k with codes := codes, onFog := onFog, minInterval := minInterval }) ∧
    (policyOk codes = false → ∃ t, exec (.ckptPolicy c codes onFog minInterval) s = .next t ∧ t = { s with rings := t.rings } ∧
      replied c { status := .badLength, detail := 0xC } s t) ∧
    (copyCheck s c.part epoch table found = some e →
      ∃ t, exec (.ckptBuddy c epoch buddy table signature found) s = .next t ∧ replied c { status := e.1, detail := e.2 } s t ∧ others t ∧
        t = { s with rings := t.rings, parts := t.parts } ∧ partOf t c.part = set noted) ∧
    (copyCheck s c.part epoch table found = none → reached →
      ∃ t, exec (.ckptBuddy c epoch buddy table signature found) s = .next t ∧ copies t (some c) epoch ∧ partOf t c.part = set noted) ∧
    (k.fogWaiting = false ∨ (k.holding = false ∧ k.last ≠ none) → exec (.fogBuddyCopy c.part found) s = .next s) ∧
    (k.fogWaiting = true → (k.last = none ∨ (k.holding = true ∧ s.time.now.toNat < k.lastTime.toNat + k.minInterval * 1000000)) → ∃ t, exec (.fogBuddyCopy c.part found) s = .next t ∧
      t = { s with parts := t.parts, log := t.log, pkg := t.pkg } ∧ partOf t c.part = set { k with fogWaiting := false, holding := false } ∧ others t) ∧
    (k.fogWaiting = true → k.holding = true → k.last = some (last, epoch, buddy, table, signature) →
      k.lastTime.toNat + k.minInterval * 1000000 ≤ s.time.now.toNat → copyCheck s c.part (epoch + 1) table found = some e →
      ∃ t, exec (.fogBuddyCopy c.part found) s = .next t ∧ t = { s with parts := t.parts } ∧ others t ∧
        partOf t c.part = set { k with
          fogWaiting := false, holding := false, last := some (last, epoch + 1, buddy, table, signature), lastTime := s.time.now }) ∧
    (k.fogWaiting = true → k.holding = true → k.last = some (last, epoch, buddy, table, signature) →
      k.lastTime.toNat + k.minInterval * 1000000 ≤ s.time.now.toNat → copyCheck s c.part (epoch + 1) table found = none → reached →
      ∃ t, exec (.fogBuddyCopy c.part found) s = .next t ∧ copies t none (epoch + 1) ∧
        partOf t c.part = set { k with
          fogWaiting := false, holding := false, last := some (last, epoch + 1, buddy, table, signature), lastTime := s.time.now }) ∧
    (checkList s c.part table 32 1 = none →
      (restoreSource s source epoch copy = none → ∃ t, exec (.ckptRestore c epoch source table signature copy) s = .next t ∧
        t = { s with rings := t.rings } ∧ replied c { status := .buddyUnavailable, detail := 6 } s t) ∧
      (restoreSource s source epoch copy = some read → fieldAt (read 8 8) 0 8 ≠ signature.toNat →
        ∃ t, exec (.ckptRestore c epoch source table signature copy) s = .next t ∧ t = { s with rings := t.rings } ∧
          replied c { status := .shapeMismatch } s t) ∧
      (restoreSource s source epoch copy = some read → fieldAt (read 8 8) 0 8 = signature.toNat →
        ∀ stored wanted ts, stored = tensorsFrom (fun i => read (0x1000 + 32 * i) 32) 0 (min (fieldAt (read 4 4) 0 4) 4096) →
          wanted = tableTensors s c.part table → sameTable stored wanted = true → (∀ x, x ∈ wanted → checkOperand s c.part x.addr x.size 1 = none) →
          ts = (stored.zip wanted).map (fun x => { x.1 with addr := x.2.addr, format := x.2.format }) →
          (∀ x i, (x, i) ∈ (tensorStarts ts recordSize).zipIdx → x.1.code = 4 ∨ crc64 (read x.2 (storedSize x.1)) = fieldAt (read (0x21000 + 8 * i) 8) 0 8) →
          ∃ t, exec (.ckptRestore c epoch source table signature copy) s = .next t ∧ replied c { status := .ok } s t ∧
            t = { s with rings := t.rings, mem := t.mem, out := t.out }))

/-- R346 to R348, R351, R352, R356: SCHED_PARAMS sets a partition's five parameters. PREEMPT of a job that runs stays waiting for its stop,
a hard one taking over a soft one's waiters; of a job that runs nothing it stops the job at once and answers; of a stopped job it answers,
after the save where that still runs. RESUME of a job that is not stopped answers, else it waits for the restore. A slice that ends with
another job waiting asks the holder to stop at its next cheap point; a cheap point where R351 allows it stops the job and begins its save,
one where it does not is passed over and counted. -/
def Obligations.PreemptionsAskedFor : Prop :=
  ∀ (c : Cmd) (target job h : Nat) (mode kvPolicy pageMax slice drain tileIndex : Nat) (template : Option Nat)
    (ranges : List (Nat × Nat × Nat × Nat)) (s : State),
    let x := jobOf (partOf s target) job
    let others := fun (t : State) => ∀ k, k ≠ target → partOf t k = partOf s k
    let jobIs := fun (t : State) (j : Nat) (y : Job) => partOf t target = { partOf s target with jobs := (partOf t target).jobs } ∧ others t ∧
      jobOf (partOf t target) j = y ∧ ∀ k, k ≠ j → jobOf (partOf t target) k = jobOf (partOf s target) k
    let runs := fun (j : Nat) (y : Job) => ∃ d, d ∈ startedOfJob s target j ∧ d ≠ c ∧ d ∉ stopWaiters y
    let idle := ∀ d, d ∈ startedOfJob s target job → d = c
    let calm := x.soft = none ∧ x.hard = none ∧ x.waiters = []
    let z := jobOf (partOf s target) h
    (target < 16 → ∃ t, exec (.schedParams c target mode kvPolicy pageMax slice drain) s = .next t ∧ replied c { status := .ok } s t ∧ others t ∧
      t = { s with rings := t.rings, parts := t.parts } ∧ partOf t target = { partOf s target with
        mode := mode, kvPolicy := kvPolicy, pageMax := pageMax, slice := slice, drainMs := drain }) ∧
    (16 ≤ target → ∃ t, exec (.schedParams c target mode kvPolicy pageMax slice drain) s = .next t ∧ t = { s with rings := t.rings } ∧
      replied c { status := .badLength, detail := 0xE } s t) ∧
    (targetCheck c target job = none →
      (x.stopped = false → x.hard = none → (x.soft = none ∨ x.soft = some none) → runs job x →
        ∃ t, exec (.preemptSoft c target job) s = .next t ∧ t = { s with parts := t.parts } ∧ jobIs t job { x with soft := some (some c), sliced := false }) ∧
      (x.stopped = false → x.hard = none → runs job x → ∃ t, exec (.preemptHard c target job) s = .next t ∧ t = { s with parts := t.parts } ∧
        jobIs t job { x with hard := some c, soft := none, sliced := false, waiters := x.waiters ++ (x.soft.bind id).toList }) ∧
      (x.stopped = false → calm → idle → pointAllowed s target job = true → ∃ t, exec (.preemptSoft c target job) s = .next t ∧ replied c { status := .ok } s t ∧
        (jobOf (partOf t target) job).stopped = true ∧ (jobOf (partOf t target) job).saving = false ∧ t.mem = s.mem ∧ others t) ∧
      (x.stopped = false → calm → idle → x.locks = [] → tilesDone s target job = true → ∃ t, exec (.preemptHard c target job) s = .next t ∧
        replied c { status := .ok } s t ∧ (jobOf (partOf t target) job).stopped = true ∧ t.mem = s.mem ∧ others t) ∧
      (∀ i, (i = Instr.preemptSoft c target job ∨ i = Instr.preemptHard c target job) → x.stopped = true →
        (x.saving = false → ∃ t, exec i s = .next t ∧ replied c { status := .ok } s t ∧ t = { s with rings := t.rings, parts := t.parts } ∧
          jobIs t job { x with restoring := if x.restoring = some [] then none else x.restoring }) ∧
        (x.saving = true → ∃ t, exec i s = .next t ∧ t = { s with parts := t.parts } ∧ jobIs t job { x with waiters := x.waiters ++ [c], sliced := false })) ∧
      (x.stopped = false → ∃ t, exec (.resume c target job) s = .next t ∧ t = { s with rings := t.rings } ∧ replied c { status := .ok } s t) ∧
      (x.stopped = true → ∃ t, exec (.resume c target job) s = .next t ∧ t = { s with parts := t.parts } ∧
        jobIs t job { x with restoring := some (x.restoring.getD [] ++ [c]) })) ∧
    ((partOf s target).holder = some h → (partOf s target).slice ≠ 0 → (partOf s target).mode ≠ 1 → z.stopped = false → z.soft = none → z.hard = none →
      (∃ j, j < 5 ∧ j ≠ h ∧ jobWants s target j = true) → (∃ d, d ∈ startedOfJob s target h ∧ d ∉ z.waiters) →
      ∃ t, exec (.sliceExpiry target) s = .next t ∧ t = { s with parts := t.parts } ∧ jobIs t h { z with soft := some none, sliced := true }) ∧
    (((partOf s target).holder = none ∨ (partOf s target).slice = 0 ∨ (partOf s target).mode = 1) → exec (.sliceExpiry target) s = .next s) ∧
    (x.stopped = false → x.soft ≠ none → inBatch s target job = false → pointRanges s target job template tileIndex = some ranges →
      (pointAllowed s target job = true → ∃ t, exec (.cheapPoint target job template tileIndex) s = .next t ∧ t.rings = s.rings ∧ t.mem = s.mem ∧
        jobIs t job { x with stopped := true, saving := true, saved := savedOf s target job ranges }) ∧
      (pointAllowed s target job = false → ∃ t, exec (.cheapPoint target job template tileIndex) s = .next t ∧ t = { s with parts := t.parts } ∧ others t ∧
        partOf t target = { partOf s target with passedOver := (partOf s target).passedOver + 1 })) ∧
    ((x.stopped = true ∨ x.soft = none) → exec (.cheapPoint target job template tileIndex) s = .next s)

/-- R353, R354, R356, R302, R391: a save whose packets are answered completes, the stopped job keeping the commands it interrupted; a
hard pre-emption that is due stops its job with a full save. A stopped job whose turn has come holds its cores again, with its locks and
nothing else of its pre-emption left, and its RESUME is answered. A hard
pre-emption whose lock record does not empty ends the job and answers ST_PREEMPT_ABORTED. A function-level reset leaves the function's rings
without packets and started commands and advances its incarnation; PERST_N does so for every function, and takes the link down. -/
def Obligations.JobsStopAndRestore : Prop :=
  ∀ (part job fn f r : Nat) (w : Cmd) (cs : List Cmd) (s : State),
    let x := jobOf (partOf s part) job
    let others := fun (t : State) => ∀ k, k ≠ part → partOf t k = partOf s k
    let covered := f = fn ∨ (fn = 16 ∧ f ≤ 16)
    let cleared := fun (t : State) => (ringOf t f r).packets = [] ∧ (ringOf t f r).started = [] ∧ tgetD f 0 t.fnInc = (tgetD f 0 s.fnInc + 1) % 256
    (x.stopped = true → x.saving = true → packetsSettled s part job = true → ∃ t, exec (.saveComplete part job) s = .next t ∧
      t = { s with rings := t.rings, parts := t.parts } ∧ others t ∧
      jobOf (partOf t part) job = { x with
        saving := false, soft := none, hard := none, waiters := [], interrupted := workOf s part job, sliced := false
        restoring := if x.sliced then some (x.restoring.getD []) else x.restoring } ∧
      (workOf s part job = [] → stopWaiters x = [w] → replied w { status := .ok } s t)) ∧
    (x.stopped = true → x.saving = true → packetsSettled s part job = false → exec (.saveComplete part job) s = .next s) ∧
    (hardDue s part job = true → ∃ t, exec (.saveComplete part job) s = .next t ∧ (jobOf (partOf t part) job).stopped = true ∧
      (jobOf (partOf t part) job).saved = savedOf s part job (stopRanges s part job) ∧ t.mem = s.mem ∧ others t) ∧
    (x.restoring = some cs → x.stopped = true → x.saving = false → mayHold s part job = true → x.saved.waits = [] → x.saved.epoch = (partOf s part).epoch →
      ∃ t, exec (.restoreComplete part job) s = .next t ∧ t = { s with
        rings := t.rings, parts := t.parts, mem := t.mem, cores := t.cores, channels := t.channels } ∧
        others t ∧ (partOf t part).holder = some job ∧ jobOf (partOf t part) job = { locks := x.locks } ∧ (cs = [w] → replied w { status := .ok } s t)) ∧
    ((x.restoring = none ∨ x.stopped = false ∨ x.saving = true ∨ mayHold s part job = false) → exec (.restoreComplete part job) s = .next s) ∧
    (x.hard = some w → x.locks ≠ [] → x.saving = false → ∃ t, exec (.preemptAbort part job) s = .next t ∧ jobOf (partOf t part) job = { stopped := true } ∧
      ∃ y, y ∈ (ringOf t w.fn w.ring).replies ∧ y.cmd = w ∧ y.answer = { status := .preemptAborted }) ∧
    ((x.hard = none ∨ x.locks = [] ∨ x.saving = true) → exec (.preemptAbort part job) s = .next s) ∧
    (fn ≤ 16 → ∃ t, exec (.functionLevelReset fn) s = .next t ∧ (covered → r < 4 → cleared t) ∧ (¬ covered → tgetD f 0 t.fnInc = tgetD f 0 s.fnInc)) ∧
    (s.supplies.perstHeld = true → exec .perstNAssert s = .next s) ∧
    (s.supplies.perstHeld = false → ∃ t, exec .perstNAssert s = .next t ∧ t.supplies = { s.supplies with perstHeld := true } ∧ t.pkg.linkRate = 0 ∧
      t.pkg.linkWidth = 0 ∧ (f ≤ 16 → r < 4 → cleared t))

/-- R368, R371, R372, R374: a unit that may be retired and is in service is fenced in its present incarnation and leaves service, and the
flash records it; the active keeper of a region without a standby is not retired. A retired unit's self-test starts, and when it passes the
unit rejoins under its next incarnation, a core as a reserve and a keeper as the standby; when it fails the unit stays retired and the command
answers ST_HW_FAULT. A unit at incarnation 255 is refused, and one not retired answers ST_OK with nothing changed. -/
def Obligations.UnitsRetireAndRequalify : Prop :=
  ∀ (c : Cmd) (unit : Nat) (t0 : Nat × Cmd) (s : State),
    let said := fun (t : State) (st : Status) => ∃ y, y ∈ (ringOf t c.fn c.ring).replies ∧ y.cmd = c ∧ y.answer = { status := st }
    let alone := isActiveKeeper s unit = true ∧ standbyOk s ((unit - 0x400) / 2) = false
    (∀ i, (i = Instr.unitRetire c unit ∨ i = Instr.unitRequalify c unit) → retirable unit = false → ∃ t, exec i s = .next t ∧ t = { s with rings := t.rings } ∧
      replied c { status := .badLength, detail := 0xB } s t) ∧
    (retirable unit = true →
      (unit ∉ s.units.retired → ¬ alone → ∃ t, exec (.unitRetire c unit) s = .next t ∧ said t .ok ∧ unit ∈ t.units.retired ∧
        unit ∈ t.flash.retiredUnits ∧ (unit, incOf s unit) ∈ t.units.fences ∧ ∀ u, u ∈ s.units.retired → u ∈ t.units.retired) ∧
      (unit ∉ s.units.retired → alone → ∃ t, exec (.unitRetire c unit) s = .next t ∧ t = { s with rings := t.rings } ∧ replied c { status := .locked } s t) ∧
      (unit ∈ s.units.retired → ∃ t, exec (.unitRetire c unit) s = .next t ∧ t = { s with rings := t.rings } ∧ replied c { status := .ok } s t) ∧
      (unit ∉ s.units.retired → ∃ t, exec (.unitRequalify c unit) s = .next t ∧ t = { s with rings := t.rings } ∧ replied c { status := .ok } s t) ∧
      (unit ∈ s.units.retired → 255 ≤ tgetD unit 0 s.units.inc → ∃ t, exec (.unitRequalify c unit) s = .next t ∧ t = { s with rings := t.rings } ∧
        replied c { status := .quota } s t) ∧
      (unit ∈ s.units.retired → tgetD unit 0 s.units.inc < 255 → (∀ x, x ∈ s.units.selfTest → x.1 ≠ unit) →
        ∃ t, exec (.unitRequalify c unit) s = .next t ∧ t = { s with units := { s.units with selfTest := s.units.selfTest ++ [(unit, c)] } })) ∧
    (s.units.selfTest.find? (fun x => x.1 == unit) = some t0 →
      (∃ t, exec (.requalifyDone unit true) s = .next t ∧ replied t0.2 { status := .ok } s t ∧ unit ∉ t.units.retired ∧ unit ∉ t.flash.retiredUnits ∧
        tgetD unit 0 t.units.inc = tgetD unit 0 s.units.inc + 1 ∧ (∀ x, x ∈ t.units.selfTest → x.1 ≠ unit) ∧ t.mem = s.mem ∧ t.parts = s.parts ∧
        t.units.logical = s.units.logical ∧ t.keepers.activeK = s.keepers.activeK ∧
        (864 ≤ unit → isKeeper unit = true → unit - 0x400 ∉ t.keepers.out)) ∧
      (∃ t, exec (.requalifyDone unit false) s = .next t ∧ replied t0.2 { status := .hwFault } s t ∧ t = { s with rings := t.rings, units := t.units } ∧
        t.units = { s.units with selfTest := t.units.selfTest } ∧ (∀ x, x ∈ t.units.selfTest → x.1 ≠ unit))) ∧
    ((∀ x, x ∈ s.units.selfTest → x.1 ≠ unit) → ∀ pass, exec (.requalifyDone unit pass) s = .next s)

/-- R364 to R367, R369, R370, R374: a report leaves its queue. A persistent core fault retires the core; a region fault, a mesh error beyond
correction, a free list that disagrees and the loss of a keeper pair take the region out of service with its blocks and logical numbers, no
partition keeping a block of it; a corrected switch error is logged and changes nothing else, and the third uncorrectable one within a
second takes its block out of service; a lane of an HBM stack is remapped while one is spare and else its channel is recorded as retired;
a fog warning sets its bit. A packet of no fenced unit is not dropped.

R181, R374 to R378: a heartbeat notes its time. Three missed ones have the standby take over, the former active keeper leaving service and
its locks orphaned, or, without a standby, the region leaves service. A lockstep mismatch restarts the head keeper, whose locks are orphaned,
a second one within a second being FATAL. A preventive repair takes a row, where one is left, and changes no byte. A remapped span comes
back. A die-to-die module over its threshold is left out of its edge. What a second requalification of a unit under test answers is the
model's choice (log entry 97). -/
def Obligations.ErrorsAndRepairs : Prop :=
  (∀ (core r b m x lane bit off : Nat) (p : Pkt) (rep : Report) (s : State),
    let logged := fun (t : State) => t = { s with log := t.log, pkg := t.pkg, repair := t.repair, reports := t.reports }
    let taken := fun (i : Report) => ∃ t, exec (.errorReport i) s = .next t ∧ t = { s with reports := t.reports } ∧
      ∀ q, q ∈ s.reports → q.2.2 ≠ i → q ∈ t.reports
    let recent := (tgetD b [] s.units.switchDbes).filter fun y => s.time.now.toNat < y.toNat + 1000000000
    (core < 864 → core ∉ s.units.retired → ∃ t, exec (.errorReport (.persistentCore core)) s = .next t ∧ core ∈ t.units.retired ∧
      core ∈ t.flash.retiredUnits ∧ (core, incOf s core) ∈ t.units.fences) ∧
    (core ∈ s.units.retired → taken (.persistentCore core)) ∧
    (core < 864 → ∃ t, exec (.errorReport (.paletteDbe core off)) s = .next t ∧
      (core * 0x200000 + off % 0x180000) / 2048 + 2 ^ 40 ∈ t.repair.offline ∧
      (tgetD (macroDie core) 0 s.repair.sramUnused = 0 → core ∈ t.units.retired) ∧
      (tgetD (macroDie core) 0 s.repair.sramUnused ≠ 0 → t.units = s.units ∧ t.rings = s.rings)) ∧
    (r < 8 → r ∉ s.units.regionsOut → (rep = .regionFault r ∨ rep = .meshUncorrectable r ∨ rep = .keeperPairLost r ∨ rep = .freeListMismatch r) →
      ∃ t, exec (.errorReport rep) s = .next t ∧ r ∈ t.units.regionsOut ∧ (∀ k, k < 12 → 12 * r + k ∈ t.units.blocksOut) ∧
        (∀ e, e ∈ t.units.logical → e.1 / 100 ≠ r) ∧ (∀ k, k < 108 → 108 * r + k ∈ t.units.retired) ∧ t.pkg.errStatus.getLsbD 5 = true ∧
        ∀ k, (partOf s k).enabled = true → (partOf t k).mask &&& regionMask r = 0) ∧
    (r ∈ s.units.regionsOut → taken (.regionFault r)) ∧
    (∃ t, exec (.errorReport (.switchSbe b)) s = .next t ∧ t = { s with log := t.log, pkg := t.pkg, reports := t.reports } ∧
      t.pkg = { s.pkg with errStatus := t.pkg.errStatus }) ∧
    (∃ t, exec (.errorReport (.switchDbe b)) s = .next t ∧
      (recent.length < 2 → t = { s with units := t.units, log := t.log, pkg := t.pkg, reports := t.reports } ∧
        t.units = { s.units with switchDbes := tput b (s.time.now :: recent) s.units.switchDbes }) ∧
      (2 ≤ recent.length → b < 96 → b ∈ t.units.blocksOut)) ∧
    (b < 96 → ∃ t, exec (.errorReport (.blockRetired b)) s = .next t ∧ b ∈ t.units.blocksOut) ∧
    (tgetD m 0 s.repair.hbmLanes < tgetD m 0 s.repair.hbmSpareLanes →
      ∃ t, exec (.errorReport (.hbmLane m x lane)) s = .next t ∧ logged t ∧ t.repair = { s.repair with hbmLanes := t.repair.hbmLanes } ∧
      tgetD m 0 t.repair.hbmLanes = tgetD m 0 s.repair.hbmLanes + 1 ∧ ∀ k, k ≠ m → tgetD k 0 t.repair.hbmLanes = tgetD k 0 s.repair.hbmLanes) ∧
    (∀ i, (i = .hbmChannel m x ∨ (i = .hbmLane m x lane ∧ tgetD m 0 s.repair.hbmSpareLanes ≤ tgetD m 0 s.repair.hbmLanes)) →
      ∃ t, exec (.errorReport i) s = .next t ∧ logged t ∧ (m, x) ∈ t.repair.hbmChannels ∧
      t.repair = { s.repair with hbmChannels := t.repair.hbmChannels }) ∧
    taken (.prefetchLatent r) ∧
    (bit < 10 → ∃ t, exec (.errorReport (.fog bit core)) s = .next t ∧ t.pkg.fog.getLsbD bit = true ∧
      t = { s with log := t.log, pkg := t.pkg, parts := t.parts, reports := t.reports }) ∧
    (fenced s p = false → exec (.darkTraffic p) s = .next s)) ∧
  (∀ (region core addr edge module : Nat) (unit : Option Nat) (s : State),
    let span := match unit with | some p => spanOf .palette (p * 0x200000 + addr % paletteBytes) | none => spanOf .hbm addr
    let left := tgetD (macroDie core) 0 s.repair.sramUnused
    let rows := tgetD (stackOf addr) 0 s.repair.hbmUnused
    let k := tgetD region 0 s.keepers.activeK
    (region < 8 → (∃ t, exec (.keeperHeartbeat region) s = .next t ∧ t = { s with keepers := { s.keepers with beats := t.keepers.beats } } ∧
        tget region t.keepers.beats = some s.time.now ∧ ∀ r, r ≠ region → tget r t.keepers.beats = tget r s.keepers.beats) ∧
      (beatsMissed s region = false → exec (.keeperTakeover region) s = .next s) ∧
      (beatsMissed s region = true → standbyOk s region = true → ∃ t, exec (.keeperTakeover region) s = .next t ∧
        tgetD region 0 t.keepers.activeK = 1 - k ∧ region ∈ t.keepers.takingOver ∧ activeKeeper s region - 0x400 ∈ t.keepers.out ∧
        activeKeeper s region ∈ t.units.retired ∧ activeKeeper s region ∈ t.flash.retiredUnits ∧ t.units.logical = s.units.logical ∧
        (s.engines = [] → (∀ e, e ∈ s.objects → sweepObj (unitId s (activeKeeper s region)) e.2 = (e.2, [])) →
          t = { s with
            keepers := t.keepers, units := t.units, flash := t.flash, parts := t.parts, log := t.log, pkg := t.pkg, out := t.out
            proxies := t.proxies })) ∧
      (beatsMissed s region = true → standbyOk s region = false → region ∉ s.units.regionsOut → ∃ t, exec (.keeperTakeover region) s = .next t ∧
        region ∈ t.units.regionsOut)) ∧
    (∃ t, exec .lockstepMismatch s = .next t ∧
      t = { s with
        keepers := t.keepers, log := t.log, pkg := t.pkg, objects := t.objects, rings := t.rings, out := t.out, parts := t.parts } ∧
      ((∀ e, e ∈ s.objects → sweepObj (unitId s headUnit) e.2 = (e.2, [])) → t.objects = s.objects ∧ t.rings = s.rings) ∧
      t.keepers = { s.keepers with lastMismatch := some s.time.now, headRestarting := true } ∧
      ((∃ x, s.keepers.lastMismatch = some x ∧ s.time.now.toNat < x.toNat + 1000000000) → t.pkg.state = 4) ∧
      ((∀ x, s.keepers.lastMismatch = some x → x.toNat + 1000000000 ≤ s.time.now.toNat) → t.pkg.state = s.pkg.state)) ∧
    (left = 0 → exec (.preventiveRepair (some core) addr) s = .next s) ∧
    (0 < left → ∃ t, exec (.preventiveRepair (some core) addr) s = .next t ∧ t.mem = s.mem ∧ t.rings = s.rings ∧
      tgetD (macroDie core) 0 t.repair.sramUnused = left - 1 ∧ spanOf .palette (core * 0x200000 + addr % paletteBytes) ∈ t.flash.repairedRows ∧
      tgetD (macroDie core) 0 t.repair.sramRepaired = tgetD (macroDie core) 0 s.repair.sramRepaired + 1) ∧
    (rows = 0 → exec (.preventiveRepair none addr) s = .next s) ∧
    (0 < rows → ∃ t, exec (.preventiveRepair none addr) s = .next t ∧ t.mem = s.mem ∧ t.rings = s.rings ∧
      tgetD (stackOf addr) 0 t.repair.hbmUnused = rows - 1 ∧ spanOf .hbm addr ∈ t.flash.repairedRows ∧
      tgetD (stackOf addr) 0 t.repair.hbmRepaired = tgetD (stackOf addr) 0 s.repair.hbmRepaired + 1) ∧
    ((span ∈ s.flash.retiredSpans ∨ span ∉ s.repair.offline) → exec (.repairRemapDone unit addr) s = .next s) ∧
    (span ∉ s.flash.retiredSpans → span ∈ s.repair.offline → ∃ t, exec (.repairRemapDone unit addr) s = .next t ∧
      t = { s with repair := t.repair, flash := t.flash } ∧ t.repair.offline = s.repair.offline.filter (· != span) ∧ span ∈ t.flash.repairedRows ∧
      t.flash = { s.flash with repairedRows := t.flash.repairedRows }) ∧
    (exec (.dieToDieRetry edge module false) s = .next s) ∧
    (edge < 11 → module < 8 → (tgetD edge 0xFF s.repair.ucie).getLsbD module = true → ∃ t, exec (.dieToDieRetry edge module true) s = .next t ∧
      (∀ n, (tgetD edge 0xFF t.repair.ucie).getLsbD n = ((tgetD edge 0xFF s.repair.ucie).getLsbD n && n != module)) ∧
      (∀ e, e ≠ edge → tgetD e 0xFF t.repair.ucie = tgetD e 0xFF s.repair.ucie) ∧ (edge < 8 → modulesOf s edge ≤ 4 → edge ∈ t.units.regionsOut) ∧
      (8 ≤ edge → modulesOf s edge ≤ 4 → t.pkg.state = 4))) ∧
  (∀ (c : Cmd) (unit : Nat) (s : State), retirable unit = true → unit ∈ s.units.retired → tgetD unit 0 s.units.inc < 255 →
    (∃ x, x ∈ s.units.selfTest ∧ x.1 = unit) →
    ∃ t, exec (.unitRequalify c unit) s = .next t ∧ t = { s with rings := t.rings } ∧ replied c { status := .locked } s t)

/-- R398, R399, R375, R376: FW_SLOT WRITE leaves a slot VALID only where its signature, its security version and its peers allow it, and
never writes the active one; QUERY writes the status. ACTIVATE of a slot that authenticates marks it TRIAL and starts with the first region;
healthy keepers make it the active one, others make it not VALID and revert. A take-over that ends, and the head keeper's restart, let held
work go on.

R308, R380, R382: LOG_READ writes each entry it may return to its place, 32 bytes an index, marks those read and changes no other byte;
LOG_CLEAR frees the entries of its range, of the protected area those read before. Both refuse a range past the log's end. -/
def Obligations.FirmwareAndLog : Prop :=
  (∀ (c d : Cmd) (slot image bytes version security minPeer region key : Nat) (signatureOk authOk : Bool) (sp : Space) (s : State),
    let named := { valid := false, version := version, security := security, minPeer := minPeer : FwSlot }
    let write := Instr.fwSlotWrite c slot image bytes signatureOk version security minPeer
    let kept := fun (t : State) => t = { s with rings := t.rings, flash := t.flash }
    let refused := fun (i : Instr) (a : Answer) => ∃ t, exec i s = .next t ∧ t = { s with rings := t.rings } ∧ replied c a s t
    let written := fun (a : Answer) (v : Bool) => ∃ t, exec write s = .next t ∧ kept t ∧ replied c a s t ∧ slotOf t.flash slot = { named with valid := v } ∧
      t.flash = (if slot = 1 then { s.flash with slotB := { named with valid := v } } else { s.flash with slotA := { named with valid := v } })
    let rejected := fun (x : Nat) => ({ status := .planRejected, detail := x } : Answer)
    let active := Instr.fwSlotActivate c slot authOk
    ((s.keepers.fwCmd.isSome = true ∨ isActiveSlot s slot = true) → refused write { status := .locked }) ∧
    (s.keepers.fwCmd = none → isActiveSlot s slot = false →
      (0x2000000 < bytes → refused write { status := .badLength, detail := 0xE }) ∧
      (bytes ≤ 0x2000000 → localRange s c.part image bytes = some (sp, key) → readsPoison s sp key bytes = false →
        (signatureOk = false → written (rejected 0x0A00) false) ∧
        (signatureOk = true → security < s.fuse.minSecurity → written (rejected 0x0B00) false) ∧
        (signatureOk = true → s.fuse.minSecurity ≤ security → s.keepers.runningVersion < minPeer → written (rejected 0x0C00) false) ∧
        (signatureOk = true → s.fuse.minSecurity ≤ security → minPeer ≤ s.keepers.runningVersion → written { status := .ok } true))) ∧
    (s.keepers.fwCmd.isSome = true → refused (.fwSlotQuery c image) { status := .locked } ∧ refused active { status := .locked }) ∧
    (s.keepers.fwCmd = none →
      (localRange s c.part image (fwStatusBytes s).length = some (sp, key) → writeRefused s sp key (fwStatusBytes s).length = false →
        ∃ t, exec (.fwSlotQuery c image) s = .next t ∧ t = { s with rings := t.rings, mem := (writeSpace sp key (fwStatusBytes s) s).mem } ∧
          replied c { status := .ok } s t) ∧
      (isActiveSlot s slot = true → refused active { status := .ok }) ∧
      (isActiveSlot s slot = false → (slotOf s.flash slot).valid = false → refused active (rejected 0x0D00)) ∧
      (isActiveSlot s slot = false → (slotOf s.flash slot).valid = true → authOk = false → ∃ t, exec active s = .next t ∧ kept t ∧
        replied c (rejected 0x0A00) s t ∧ (slotOf t.flash slot).valid = false) ∧
      (isActiveSlot s slot = false → (slotOf s.flash slot).valid = true → authOk = true → 0 ∉ s.units.regionsOut → ∃ t, exec active s = .next t ∧
        t = { s with flash := t.flash, keepers := t.keepers } ∧ (slotOf t.flash slot).trial = true ∧ t.flash.activeB = s.flash.activeB ∧
        t.keepers.fwCmd = some (some c, slot) ∧ t.keepers.fwRegion = some 0 ∧ 0 ∈ t.keepers.takingOver ∧ t.keepers.fwFormer = s.keepers.runningVersion)) ∧
    (region < 8 → s.keepers.fwCmd = none → ∃ t, exec (.keeperTakeoverDone region) s = .next t ∧
      t = { s with keepers := { s.keepers with takingOver := s.keepers.takingOver.filter (· != region) } }) ∧
    (region < 8 → s.keepers.fwCmd = some (some d, slot) → s.keepers.fwRegion = some region → (∀ k, region < k → k < 8 → k ∈ s.units.regionsOut) →
      ∃ t, exec (.keeperTakeoverDone region) s = .next t ∧ t.keepers.headRestarting = true ∧ t.keepers.fwRegion = none ∧ region ∉ t.keepers.takingOver) ∧
    (s.keepers.headRestarting = false → exec .headKeeperRestartDone s = .next s) ∧
    (s.keepers.headRestarting = true →
      (s.keepers.fwCmd = none → ∃ t, exec .headKeeperRestartDone s = .next t ∧ t = { s with keepers := { s.keepers with headRestarting := false } }) ∧
      (s.keepers.fwCmd = some (some d, slot) → s.keepers.fwRegion = none → s.keepers.fwAwaiting = false →
        (s.keepers.fwReverting = false → ∃ t, exec .headKeeperRestartDone s = .next t ∧ t = { s with keepers := { s.keepers with
          headRestarting := false, fwAwaiting := true, runningVersion := (slotOf s.flash slot).version, healthy := 0 } }) ∧
        (s.keepers.fwReverting = true → ∃ t, exec .headKeeperRestartDone s = .next t ∧ replied d { status := .hwFault } s t ∧
          t = { s with rings := t.rings, keepers := t.keepers } ∧ t.keepers.fwCmd = none ∧ t.keepers.runningVersion = s.keepers.fwFormer))) ∧
    ((s.keepers.fwCmd = none ∨ s.keepers.fwAwaiting = false) → ∀ b, exec (.activationHealthDeadline b) s = .next s) ∧
    (s.keepers.fwCmd = some (some d, slot) → s.keepers.fwAwaiting = true →
      (∃ t, exec (.activationHealthDeadline true) s = .next t ∧ replied d { status := .ok } s t ∧ t = { s with
        rings := t.rings, keepers := t.keepers, flash := t.flash } ∧ t.flash.activeB = (slot == 1) ∧ (slotOf t.flash slot).trial = false ∧
        t.keepers.fwCmd = none) ∧
      (∃ t, exec (.activationHealthDeadline false) s = .next t ∧ t.rings = s.rings ∧ (slotOf t.flash slot).valid = false ∧
        t.flash.activeB = s.flash.activeB ∧ t.keepers.fwReverting = true ∧ t.keepers.fwAwaiting = false))) ∧
  (∀ (c : Cmd) (first count dest key : Nat) (only : Bool) (sp : Space) (s : State),
    let got := returns c first count only
    (16384 < first + count → ∀ i, (i = Instr.logRead c first count only dest ∨ i = Instr.logClear c first count) → ∃ t, exec i s = .next t ∧
      t = { s with rings := t.rings } ∧ replied c { status := .badLength, detail := 0xE } s t) ∧
    (first + count ≤ 16384 → 0 < count → localRange s c.part dest (32 * count) = none → ∃ t, exec (.logRead c first count only dest) s = .next t ∧
      t = { s with rings := t.rings } ∧ replied c { status := .badLength, detail := 1 } s t) ∧
    (first + count ≤ 16384 → 0 < count → localRange s c.part dest (32 * count) = some (sp, key) →
      ∃ t, exec (.logRead c first count only dest) s = .next t ∧ replied c { status := .ok } s t ∧
        t = { s with rings := t.rings, mem := t.mem, log := { s.log with entries := t.log.entries } } ∧
        t.log.entries = s.log.entries.map (fun e => if got e then { e with read := true } else e) ∧
        (∀ sq, sq ≠ sp → cellsOf sq t.mem = cellsOf sq s.mem) ∧
        (∀ a, (∀ e, e ∈ s.log.entries → got e = true → a < key + 32 * (e.index - first) ∨ key + 32 * (e.index - first) + 32 ≤ a) →
          mread a (cellsOf sp t.mem) = mread a (cellsOf sp s.mem)) ∧
        ∀ e i, e ∈ s.log.entries → got e = true → (∀ x, x ∈ s.log.entries → x.index = e.index → x = e) → i < 32 →
          isOffline s sp (key + 32 * (e.index - first) + i) = false →
          mread (key + 32 * (e.index - first) + i) (cellsOf sp t.mem) = (logBytes e)[i]?.getD 0) ∧
    (first + count ≤ 16384 → ∃ t, exec (.logClear c first count) s = .next t ∧ replied c { status := .ok } s t ∧ t = { s with rings := t.rings, log := t.log } ∧
      t.log = { s.log with entries := s.log.entries.filter fun e => !clears first count e }))

/-- R370: a packet of a fenced unit is dropped at its fence, without a reply and without any effect, and counted for its block or region.
The first drop of each millisecond there writes an ERROR entry with EVENT 0x0204: SOURCE and INCARNATION name the unit, ARG bits [51:48]
hold the packet's type, and bits [46:0] its target local address, or 0 when it has none. -/
def Obligations.DarkTrafficDropped : Prop :=
  ∀ (p : Pkt) (s : State), fenced s p = true →
    let core := decide (p.srcUnit < 0x400)
    let place := if core then blockOfCore p.srcUnit else 96 + unitRegion p.srcUnit
    let first := ∀ x, tget place s.units.darkLast = some x → x.toNat + 1000000 ≤ s.time.now.toNat
    ∃ t, exec (.darkTraffic p) s = .next t ∧ t = { s with units := t.units, log := t.log, pkg := t.pkg } ∧
      t.units = { s.units with darkBlock := t.units.darkBlock, darkRegion := t.units.darkRegion, darkLast := t.units.darkLast } ∧
      (core = true → t.units.darkRegion = s.units.darkRegion ∧
        tgetD (blockOfCore p.srcUnit) 0 t.units.darkBlock = tgetD (blockOfCore p.srcUnit) 0 s.units.darkBlock + 1) ∧
      (core = false → t.units.darkBlock = s.units.darkBlock ∧
        tgetD (unitRegion p.srcUnit) 0 t.units.darkRegion = tgetD (unitRegion p.srcUnit) 0 s.units.darkRegion + 1) ∧
      (first → (∃ e, t.log = addLog e s.log ∧ e.event = 0x0204 ∧ e.severity = 3 ∧ e.source = p.srcUnit ∧ e.inc = p.srcInc ∧
        e.arg = BitVec.ofNat 64 (typeCode p.type * 2 ^ 48 +
          if p.type ∈ [PktType.write, .readReq, .rangeCheck, .signal, .lockOp, .streamOpen] then p.arg.toNat % 2 ^ 47 else 0)) ∧ tget place t.units.darkLast = some s.time.now) ∧ (¬ first → t.log = s.log ∧ t.units.darkLast = s.units.darkLast)
end

