-- ==== Sys2Proof/Laws/Tables.lean ====
section
/-! SUPPORT. What the table operations do: a read after a set, and that a set leaves every other key alone. -/

namespace Sys2Proof.Machine

variable {α : Type}

@[simp] theorem tget_nil (k : Nat) : tget k ([] : Tbl α) = none := rfl

theorem tget_cons (k j : Nat) (v : α) (t : Tbl α) : tget k ((j, v) :: t) = if j = k then some v else tget k t := rfl

/-- Reading the key just set. -/
@[simp] theorem tget_tput (k : Nat) (v : α) (t : Tbl α) : tget k (tput k v t) = some v := by
  induction t with
  | nil => simp [tput, tget_cons]
  | cons e t ih =>
    obtain ⟨j, w⟩ := e
    simp only [tput]
    split
    · simp [tget_cons]
    · split
      · simp [tget_cons]
      · rename_i h
        simp [tget_cons, Ne.symm h, ih]

/-- A set leaves every other key alone. -/
theorem tget_tput_ne {j k : Nat} (h : j ≠ k) (v : α) (t : Tbl α) : tget j (tput k v t) = tget j t := by
  induction t with
  | nil => simp [tput, tget_cons, Ne.symm h]
  | cons e t ih =>
    obtain ⟨i, w⟩ := e
    simp only [tput]
    split
    · simp [tget_cons, Ne.symm h]
    · split
      · rename_i hk
        subst hk
        simp [tget_cons, Ne.symm h]
      · simp [tget_cons, ih]

/-- A removed key reads as unlisted. -/
@[simp] theorem tget_tdel (k : Nat) (t : Tbl α) : tget k (tdel k t) = none := by
  induction t with
  | nil => rfl
  | cons e t ih =>
    obtain ⟨i, w⟩ := e
    simp only [tdel, List.filter_cons] at *
    by_cases h : i = k
    · simpa [h] using ih
    · simpa [h, tget_cons] using ih

/-- A removal leaves every other key alone. -/
theorem tget_tdel_ne {j k : Nat} (h : j ≠ k) (t : Tbl α) : tget j (tdel k t) = tget j t := by
  induction t with
  | nil => rfl
  | cons e t ih =>
    obtain ⟨i, w⟩ := e
    simp only [tdel, List.filter_cons] at *
    by_cases hi : i = k
    · subst hi
      simpa [tget_cons, Ne.symm h] using ih
    · simp only [bne_iff_ne, ne_eq, hi, not_false_eq_true, if_true, tget_cons]
      split
      · rfl
      · exact ih

@[simp] theorem tgetD_tput (k : Nat) (d v : α) (t : Tbl α) : tgetD k d (tput k v t) = v := by simp [tgetD]

theorem tgetD_tput_ne {j k : Nat} (h : j ≠ k) (d v : α) (t : Tbl α) : tgetD j d (tput k v t) = tgetD j d t := by
  simp [tgetD, tget_tput_ne h]

@[simp] theorem tgetD_tmod (k : Nat) (d : α) (f : α → α) (t : Tbl α) : tgetD k d (tmod k d f t) = f (tgetD k d t) := by
  simp [tmod]

theorem tgetD_tmod_ne {j k : Nat} (h : j ≠ k) (d : α) (f : α → α) (t : Tbl α) :
    tgetD j d (tmod k d f t) = tgetD j d t := by simp [tmod, tgetD_tput_ne h]

theorem tget_tmod_ne {j k : Nat} (h : j ≠ k) (d : α) (f : α → α) (t : Tbl α) : tget j (tmod k d f t) = tget j t := by
  simp [tmod, tget_tput_ne h]

end Sys2Proof.Machine
end

