-- ==== Sys2Proof/Laws/Memory.lean ====
section
/-! SUPPORT. The byte memories: reads after writes, and that every memory operation keeps the canonical form. -/

namespace Sys2Proof.Machine

/-! Reads after writes -/

@[simp] theorem mread_mwrite (a : Nat) (b : Byte) (m : List Host.Cell) : mread a (mwrite a b m) = b := by
  unfold mread mwrite
  split
  · simp_all [tgetD]
  · simp

theorem mread_mwrite_ne {a x : Nat} (h : x ≠ a) (b : Byte) (m : List Host.Cell) : mread x (mwrite a b m) = mread x m := by
  unfold mread mwrite
  split
  · simp [tgetD, tget_tdel_ne h]
  · simp [tgetD_tput_ne h]

/-- A guarded write leaves every byte outside its range alone. -/
theorem mread_mwriteIf_out (keep : Nat → Bool) (x : Nat) (bs : List Byte) :
    ∀ (a : Nat) (m : List Host.Cell), (x < a ∨ a + bs.length ≤ x) → mread x (mwriteIf keep a bs m) = mread x m := by
  induction bs with
  | nil => intros; rfl
  | cons b t ih =>
    intro a m h
    simp only [List.length_cons] at h
    rw [mwriteIf, ih (a + 1) _ (by omega)]
    split
    · rw [mread_mwrite_ne (by omega)]
    · rfl

/-- A guarded write stores each byte it may store. -/
theorem mread_mwriteIf_in (keep : Nat → Bool) (bs : List Byte) :
    ∀ (a i : Nat) (m : List Host.Cell) (h : i < bs.length), keep (a + i) = true → mread (a + i) (mwriteIf keep a bs m) = bs[i] := by
  induction bs with
  | nil => intro a i m h; simp at h
  | cons b t ih =>
    intro a i m h hk
    cases i with
    | zero =>
      rw [mwriteIf, Nat.add_zero, mread_mwriteIf_out _ _ _ _ _ (by omega)]
      simp only [Nat.add_zero] at hk
      simp [hk]
    | succ j =>
      rw [mwriteIf]
      have := ih (a + 1) j (if keep a then mwrite a b m else m) (by simpa using h) (by rw [← hk]; congr 1; omega)
      rw [show a + (j + 1) = a + 1 + j by omega]
      simpa using this

/-! The canonical form -/

theorem risingFrom_mono {lo hi : Nat} (h : lo ≤ hi) {m : List Host.Cell} (w : risingFrom hi m = true) : risingFrom lo m = true := by
  cases m with
  | nil => rfl
  | cons e t => simp only [risingFrom, Bool.and_eq_true, decide_eq_true_eq] at *; exact ⟨by omega, w.2⟩

theorem risingFrom_tput {lo a : Nat} (h : lo ≤ a) (b : Byte) {m : List Host.Cell} :
    risingFrom lo m = true → risingFrom lo (tput a b m) = true := by
  induction m generalizing lo with
  | nil => intro _; simp [tput, risingFrom, h]
  | cons e t ih =>
    obtain ⟨k, v⟩ := e
    intro w
    simp only [risingFrom, Bool.and_eq_true, decide_eq_true_eq] at w
    simp only [tput]
    split
    · simp only [risingFrom, Bool.and_eq_true, decide_eq_true_eq]; exact ⟨h, by omega, w.2⟩
    · split
      · rename_i hk; subst hk; simp only [risingFrom, Bool.and_eq_true, decide_eq_true_eq]; exact ⟨h, w.2⟩
      · simp only [risingFrom, Bool.and_eq_true, decide_eq_true_eq]; exact ⟨w.1, ih (by omega) w.2⟩

theorem risingFrom_filter (f : Host.Cell → Bool) {lo : Nat} {m : List Host.Cell} :
    risingFrom lo m = true → risingFrom lo (m.filter f) = true := by
  induction m generalizing lo with
  | nil => exact id
  | cons e t ih =>
    intro w
    simp only [risingFrom, Bool.and_eq_true, decide_eq_true_eq] at w
    simp only [List.filter_cons]
    split
    · simp only [risingFrom, Bool.and_eq_true, decide_eq_true_eq]; exact ⟨w.1, ih w.2⟩
    · exact risingFrom_mono (by omega) (ih w.2)

theorem mem_tput {α : Type} {a : Nat} {b : α} {t : Tbl α} {e : Nat × α} (h : e ∈ tput a b t) : e = (a, b) ∨ e ∈ t := by
  induction t with
  | nil => simpa [tput] using h
  | cons x t ih =>
    obtain ⟨k, v⟩ := x
    simp only [tput] at h
    split at h
    · simpa using h
    · split at h
      · simp only [List.mem_cons] at *; tauto
      · simp only [List.mem_cons] at *; tauto

/-- A filtered memory keeps the canonical form. -/
theorem cellsWf_filter (f : Host.Cell → Bool) {m : List Host.Cell} (w : cellsWf m = true) : cellsWf (m.filter f) = true := by
  simp only [cellsWf, Bool.and_eq_true, List.all_eq_true] at *
  exact ⟨risingFrom_filter f w.1, fun c h => w.2 c (List.mem_filter.mp h).1⟩

/-- A byte written keeps the canonical form. -/
theorem cellsWf_mwrite (a : Nat) (b : Byte) {m : List Host.Cell} (w : cellsWf m = true) : cellsWf (mwrite a b m) = true := by
  unfold mwrite
  split
  · exact cellsWf_filter _ w
  · rename_i hb
    simp only [cellsWf, Bool.and_eq_true, List.all_eq_true] at *
    refine ⟨risingFrom_tput (Nat.zero_le a) b w.1, fun c h => ?_⟩
    rcases mem_tput h with rfl | h
    · simpa using hb
    · exact w.2 c h

theorem cellsWf_mwriteIf (keep : Nat → Bool) (bs : List Byte) : ∀ (a : Nat) {m : List Host.Cell},
    cellsWf m = true → cellsWf (mwriteIf keep a bs m) = true := by
  induction bs with
  | nil => intro _ _ w; exact w
  | cons b t ih =>
    intro a m w
    rw [mwriteIf]
    apply ih
    split
    · exact cellsWf_mwrite a b w
    · exact w

theorem cellsWf_mwriteN (bs : List Byte) : ∀ (a : Nat) {m : List Host.Cell},
    cellsWf m = true → cellsWf (mwriteN a bs m) = true := by
  induction bs with
  | nil => intro _ _ w; exact w
  | cons b t ih => intro a m w; exact ih _ (cellsWf_mwrite a b w)

/-- The canonical form looks at the four byte memories only. -/
theorem Memory.wf_iff (m : Memory) :
    m.wf = true ↔ cellsWf m.hbm = true ∧ cellsWf m.palette = true ∧ cellsWf m.acc = true ∧ cellsWf m.host = true := by
  simp [Memory.wf, Bool.and_eq_true, and_assoc]

theorem Memory.wf_cellsOf {m : Memory} (w : m.wf = true) (sp : Space) : cellsWf (cellsOf sp m) = true := by
  rw [Memory.wf_iff] at w
  cases sp <;> simp [cellsOf, w]

theorem Memory.wf_setCells {m : Memory} (w : m.wf = true) (sp : Space) {c : List Host.Cell} (hc : cellsWf c = true) :
    (setCells sp c m).wf = true := by
  rw [Memory.wf_iff] at *
  cases sp <;> simp [setCells, w, hc]

@[simp] theorem Memory.wf_setPoison (sp : Space) (l : List Nat) (m : Memory) : (setPoison sp l m).wf = m.wf := by
  cases sp <;> rfl

/-- A write into a space keeps the canonical form. -/
theorem writeSpace_memWf (sp : Space) (key : Nat) (bs : List Byte) {s : State} (w : s.mem.wf = true) :
    (writeSpace sp key bs s).mem.wf = true := by
  simp only [writeSpace, Memory.wf_setPoison]
  exact Memory.wf_setCells w sp (cellsWf_mwriteIf _ _ _ (Memory.wf_cellsOf w sp))

theorem poisonUnit_memWf (sp : Space) (u : Nat) {s : State} (w : s.mem.wf = true) : (poisonUnit sp u s).mem.wf = true := by
  simpa [poisonUnit] using w

@[simp] theorem send_mem (p : Pkt) (s : State) : (send p s).mem = s.mem := rfl

/-- Sending leaves everything but what is sent alone. -/
theorem send_only (p : Pkt) (s : State) : send p s = { s with out := (send p s).out } := rfl

theorem sends_only (l : List Pkt) (s : State) :
    l.foldl (fun s q => send q s) s = { s with out := (l.foldl (fun s q => send q s) s).out } := by
  induction l generalizing s with
  | nil => rfl
  | cons p t ih => simp only [List.foldl_cons]; rw [ih]; rfl

/-- Sending split data leaves everything but what is sent alone. -/
theorem sendPieces_only (p : Pkt) (s : State) : sendPieces p s = { s with out := (sendPieces p s).out } := sends_only _ s

@[simp] theorem sendPieces_mem (p : Pkt) (s : State) : (sendPieces p s).mem = s.mem := by rw [sendPieces_only]

/-- A write at a global address keeps the canonical form. -/
theorem writeGlobal_memWf (addr : Nat) (bs : List Byte) {s : State} (w : s.mem.wf = true) :
    (writeGlobal addr bs s).mem.wf = true := by
  unfold writeGlobal
  split
  · exact writeSpace_memWf _ _ _ w
  · simpa using w
  · exact w

theorem writeElem_memWf (addr code i v : Nat) {s : State} (w : s.mem.wf = true) : (writeElem addr code i v s).mem.wf = true :=
  writeGlobal_memWf _ _ w

/-- A write into a space leaves the state's other groups alone. -/
theorem writeSpace_only (sp : Space) (key : Nat) (bs : List Byte) (s : State) :
    writeSpace sp key bs s = { s with mem := (writeSpace sp key bs s).mem } := rfl

@[simp] theorem cellsOf_setPoison (sp sq : Space) (l : List Nat) (m : Memory) : cellsOf sp (setPoison sq l m) = cellsOf sp m := by
  cases sp <;> cases sq <;> rfl

@[simp] theorem cellsOf_setCells (sp : Space) (c : List Host.Cell) (m : Memory) : cellsOf sp (setCells sp c m) = c := by
  cases sp <;> rfl

theorem cellsOf_setCells_ne {sp sq : Space} (h : sp ≠ sq) (c : List Host.Cell) (m : Memory) :
    cellsOf sp (setCells sq c m) = cellsOf sp m := by
  cases sp <;> cases sq <;> first | rfl | exact absurd rfl h

/-- A write leaves every byte of its space outside the range alone. -/
theorem writeSpace_read_out {sp : Space} {key x : Nat} {bs : List Byte} (h : x < key ∨ key + bs.length ≤ x) (s : State) :
    mread x (cellsOf sp (writeSpace sp key bs s).mem) = mread x (cellsOf sp s.mem) := by
  simp [writeSpace, mread_mwriteIf_out _ _ _ _ _ h]

/-- A write leaves the other spaces alone. -/
theorem writeSpace_read_ne {sp sq : Space} (h : sp ≠ sq) (key : Nat) (bs : List Byte) (s : State) :
    cellsOf sp (writeSpace sq key bs s).mem = cellsOf sp s.mem := by
  simp [writeSpace, cellsOf_setCells_ne h]

/-- A write stores each byte that lies in no offline span. -/
theorem writeSpace_read_in {sp : Space} {key i : Nat} {bs : List Byte} {s : State} (h : i < bs.length)
    (ho : isOffline s sp (key + i) = false) : mread (key + i) (cellsOf sp (writeSpace sp key bs s).mem) = bs[i] := by
  simp [writeSpace, mread_mwriteIf_in _ _ _ _ _ h, ho]

end Sys2Proof.Machine
end

