-- ==== Sys2Proof/Laws/State.lean ====
section
/-! SUPPORT. What each update of the State leaves of each field: one lemma per field per update, so that no proof unfolds a
record update. -/

namespace Sys2Proof.Machine

variable (s : State)

/-! modCore -/

@[simp] theorem modCore_pending (p : Nat) (f : Core → Core) : (modCore p f s).pending = s.pending := rfl
@[simp] theorem modCore_free (p : Nat) (f : Core → Core) : (modCore p f s).free = s.free := rfl
@[simp] theorem modCore_reports (p : Nat) (f : Core → Core) : (modCore p f s).reports = s.reports := rfl
@[simp] theorem modCore_time (p : Nat) (f : Core → Core) : (modCore p f s).time = s.time := rfl
@[simp] theorem modCore_pkg (p : Nat) (f : Core → Core) : (modCore p f s).pkg = s.pkg := rfl
@[simp] theorem modCore_fuse (p : Nat) (f : Core → Core) : (modCore p f s).fuse = s.fuse := rfl
@[simp] theorem modCore_flash (p : Nat) (f : Core → Core) : (modCore p f s).flash = s.flash := rfl
@[simp] theorem modCore_supplies (p : Nat) (f : Core → Core) : (modCore p f s).supplies = s.supplies := rfl
@[simp] theorem modCore_power (p : Nat) (f : Core → Core) : (modCore p f s).power = s.power := rfl
@[simp] theorem modCore_thermal (p : Nat) (f : Core → Core) : (modCore p f s).thermal = s.thermal := rfl
@[simp] theorem modCore_repair (p : Nat) (f : Core → Core) : (modCore p f s).repair = s.repair := rfl
@[simp] theorem modCore_units (p : Nat) (f : Core → Core) : (modCore p f s).units = s.units := rfl
@[simp] theorem modCore_keepers (p : Nat) (f : Core → Core) : (modCore p f s).keepers = s.keepers := rfl
@[simp] theorem modCore_log (p : Nat) (f : Core → Core) : (modCore p f s).log = s.log := rfl
@[simp] theorem modCore_mem (p : Nat) (f : Core → Core) : (modCore p f s).mem = s.mem := rfl
@[simp] theorem modCore_cores (p : Nat) (f : Core → Core) : (modCore p f s).cores = tmod p {} f s.cores := rfl
@[simp] theorem modCore_regions (p : Nat) (f : Core → Core) : (modCore p f s).regions = s.regions := rfl
@[simp] theorem modCore_combine (p : Nat) (f : Core → Core) : (modCore p f s).combine = s.combine := rfl
@[simp] theorem modCore_jobs (p : Nat) (f : Core → Core) : (modCore p f s).jobs = s.jobs := rfl
@[simp] theorem modCore_nextJob (p : Nat) (f : Core → Core) : (modCore p f s).nextJob = s.nextJob := rfl
@[simp] theorem modCore_plans (p : Nat) (f : Core → Core) : (modCore p f s).plans = s.plans := rfl
@[simp] theorem modCore_nextPlan (p : Nat) (f : Core → Core) : (modCore p f s).nextPlan = s.nextPlan := rfl
@[simp] theorem modCore_rings (p : Nat) (f : Core → Core) : (modCore p f s).rings = s.rings := rfl
@[simp] theorem modCore_fnInc (p : Nat) (f : Core → Core) : (modCore p f s).fnInc = s.fnInc := rfl
@[simp] theorem modCore_parts (p : Nat) (f : Core → Core) : (modCore p f s).parts = s.parts := rfl
@[simp] theorem modCore_objects (p : Nat) (f : Core → Core) : (modCore p f s).objects = s.objects := rfl
@[simp] theorem modCore_hostWords (p : Nat) (f : Core → Core) : (modCore p f s).hostWords = s.hostWords := rfl
@[simp] theorem modCore_barriers (p : Nat) (f : Core → Core) : (modCore p f s).barriers = s.barriers := rfl
@[simp] theorem modCore_remoteOps (p : Nat) (f : Core → Core) : (modCore p f s).remoteOps = s.remoteOps := rfl
@[simp] theorem modCore_probes (p : Nat) (f : Core → Core) : (modCore p f s).probes = s.probes := rfl
@[simp] theorem modCore_channels (p : Nat) (f : Core → Core) : (modCore p f s).channels = s.channels := rfl
@[simp] theorem modCore_engines (p : Nat) (f : Core → Core) : (modCore p f s).engines = s.engines := rfl
@[simp] theorem modCore_proxies (p : Nat) (f : Core → Core) : (modCore p f s).proxies = s.proxies := rfl
@[simp] theorem modCore_creditOps (p : Nat) (f : Core → Core) : (modCore p f s).creditOps = s.creditOps := rfl
@[simp] theorem modCore_serving (p : Nat) (f : Core → Core) : (modCore p f s).serving = s.serving := rfl
@[simp] theorem modCore_lantern (p : Nat) (f : Core → Core) : (modCore p f s).lantern = s.lantern := rfl
@[simp] theorem modCore_out (p : Nat) (f : Core → Core) : (modCore p f s).out = s.out := rfl

/-! modRegion -/

@[simp] theorem modRegion_pending (r : Nat) (f : RegionMem → RegionMem) : (modRegion r f s).pending = s.pending := rfl
@[simp] theorem modRegion_free (r : Nat) (f : RegionMem → RegionMem) : (modRegion r f s).free = s.free := rfl
@[simp] theorem modRegion_reports (r : Nat) (f : RegionMem → RegionMem) : (modRegion r f s).reports = s.reports := rfl
@[simp] theorem modRegion_time (r : Nat) (f : RegionMem → RegionMem) : (modRegion r f s).time = s.time := rfl
@[simp] theorem modRegion_pkg (r : Nat) (f : RegionMem → RegionMem) : (modRegion r f s).pkg = s.pkg := rfl
@[simp] theorem modRegion_fuse (r : Nat) (f : RegionMem → RegionMem) : (modRegion r f s).fuse = s.fuse := rfl
@[simp] theorem modRegion_flash (r : Nat) (f : RegionMem → RegionMem) : (modRegion r f s).flash = s.flash := rfl
@[simp] theorem modRegion_supplies (r : Nat) (f : RegionMem → RegionMem) : (modRegion r f s).supplies = s.supplies := rfl
@[simp] theorem modRegion_power (r : Nat) (f : RegionMem → RegionMem) : (modRegion r f s).power = s.power := rfl
@[simp] theorem modRegion_thermal (r : Nat) (f : RegionMem → RegionMem) : (modRegion r f s).thermal = s.thermal := rfl
@[simp] theorem modRegion_repair (r : Nat) (f : RegionMem → RegionMem) : (modRegion r f s).repair = s.repair := rfl
@[simp] theorem modRegion_units (r : Nat) (f : RegionMem → RegionMem) : (modRegion r f s).units = s.units := rfl
@[simp] theorem modRegion_keepers (r : Nat) (f : RegionMem → RegionMem) : (modRegion r f s).keepers = s.keepers := rfl
@[simp] theorem modRegion_log (r : Nat) (f : RegionMem → RegionMem) : (modRegion r f s).log = s.log := rfl
@[simp] theorem modRegion_mem (r : Nat) (f : RegionMem → RegionMem) : (modRegion r f s).mem = s.mem := rfl
@[simp] theorem modRegion_cores (r : Nat) (f : RegionMem → RegionMem) : (modRegion r f s).cores = s.cores := rfl
@[simp] theorem modRegion_regions (r : Nat) (f : RegionMem → RegionMem) : (modRegion r f s).regions = tmod r {} f s.regions := rfl
@[simp] theorem modRegion_combine (r : Nat) (f : RegionMem → RegionMem) : (modRegion r f s).combine = s.combine := rfl
@[simp] theorem modRegion_jobs (r : Nat) (f : RegionMem → RegionMem) : (modRegion r f s).jobs = s.jobs := rfl
@[simp] theorem modRegion_nextJob (r : Nat) (f : RegionMem → RegionMem) : (modRegion r f s).nextJob = s.nextJob := rfl
@[simp] theorem modRegion_plans (r : Nat) (f : RegionMem → RegionMem) : (modRegion r f s).plans = s.plans := rfl
@[simp] theorem modRegion_nextPlan (r : Nat) (f : RegionMem → RegionMem) : (modRegion r f s).nextPlan = s.nextPlan := rfl
@[simp] theorem modRegion_rings (r : Nat) (f : RegionMem → RegionMem) : (modRegion r f s).rings = s.rings := rfl
@[simp] theorem modRegion_fnInc (r : Nat) (f : RegionMem → RegionMem) : (modRegion r f s).fnInc = s.fnInc := rfl
@[simp] theorem modRegion_parts (r : Nat) (f : RegionMem → RegionMem) : (modRegion r f s).parts = s.parts := rfl
@[simp] theorem modRegion_objects (r : Nat) (f : RegionMem → RegionMem) : (modRegion r f s).objects = s.objects := rfl
@[simp] theorem modRegion_hostWords (r : Nat) (f : RegionMem → RegionMem) : (modRegion r f s).hostWords = s.hostWords := rfl
@[simp] theorem modRegion_barriers (r : Nat) (f : RegionMem → RegionMem) : (modRegion r f s).barriers = s.barriers := rfl
@[simp] theorem modRegion_remoteOps (r : Nat) (f : RegionMem → RegionMem) : (modRegion r f s).remoteOps = s.remoteOps := rfl
@[simp] theorem modRegion_probes (r : Nat) (f : RegionMem → RegionMem) : (modRegion r f s).probes = s.probes := rfl
@[simp] theorem modRegion_channels (r : Nat) (f : RegionMem → RegionMem) : (modRegion r f s).channels = s.channels := rfl
@[simp] theorem modRegion_engines (r : Nat) (f : RegionMem → RegionMem) : (modRegion r f s).engines = s.engines := rfl
@[simp] theorem modRegion_proxies (r : Nat) (f : RegionMem → RegionMem) : (modRegion r f s).proxies = s.proxies := rfl
@[simp] theorem modRegion_creditOps (r : Nat) (f : RegionMem → RegionMem) : (modRegion r f s).creditOps = s.creditOps := rfl
@[simp] theorem modRegion_serving (r : Nat) (f : RegionMem → RegionMem) : (modRegion r f s).serving = s.serving := rfl
@[simp] theorem modRegion_lantern (r : Nat) (f : RegionMem → RegionMem) : (modRegion r f s).lantern = s.lantern := rfl
@[simp] theorem modRegion_out (r : Nat) (f : RegionMem → RegionMem) : (modRegion r f s).out = s.out := rfl

/-! modPart -/

@[simp] theorem modPart_pending (n : Nat) (f : Partition → Partition) : (modPart n f s).pending = s.pending := rfl
@[simp] theorem modPart_free (n : Nat) (f : Partition → Partition) : (modPart n f s).free = s.free := rfl
@[simp] theorem modPart_reports (n : Nat) (f : Partition → Partition) : (modPart n f s).reports = s.reports := rfl
@[simp] theorem modPart_time (n : Nat) (f : Partition → Partition) : (modPart n f s).time = s.time := rfl
@[simp] theorem modPart_pkg (n : Nat) (f : Partition → Partition) : (modPart n f s).pkg = s.pkg := rfl
@[simp] theorem modPart_fuse (n : Nat) (f : Partition → Partition) : (modPart n f s).fuse = s.fuse := rfl
@[simp] theorem modPart_flash (n : Nat) (f : Partition → Partition) : (modPart n f s).flash = s.flash := rfl
@[simp] theorem modPart_supplies (n : Nat) (f : Partition → Partition) : (modPart n f s).supplies = s.supplies := rfl
@[simp] theorem modPart_power (n : Nat) (f : Partition → Partition) : (modPart n f s).power = s.power := rfl
@[simp] theorem modPart_thermal (n : Nat) (f : Partition → Partition) : (modPart n f s).thermal = s.thermal := rfl
@[simp] theorem modPart_repair (n : Nat) (f : Partition → Partition) : (modPart n f s).repair = s.repair := rfl
@[simp] theorem modPart_units (n : Nat) (f : Partition → Partition) : (modPart n f s).units = s.units := rfl
@[simp] theorem modPart_keepers (n : Nat) (f : Partition → Partition) : (modPart n f s).keepers = s.keepers := rfl
@[simp] theorem modPart_log (n : Nat) (f : Partition → Partition) : (modPart n f s).log = s.log := rfl
@[simp] theorem modPart_mem (n : Nat) (f : Partition → Partition) : (modPart n f s).mem = s.mem := rfl
@[simp] theorem modPart_cores (n : Nat) (f : Partition → Partition) : (modPart n f s).cores = s.cores := rfl
@[simp] theorem modPart_regions (n : Nat) (f : Partition → Partition) : (modPart n f s).regions = s.regions := rfl
@[simp] theorem modPart_combine (n : Nat) (f : Partition → Partition) : (modPart n f s).combine = s.combine := rfl
@[simp] theorem modPart_jobs (n : Nat) (f : Partition → Partition) : (modPart n f s).jobs = s.jobs := rfl
@[simp] theorem modPart_nextJob (n : Nat) (f : Partition → Partition) : (modPart n f s).nextJob = s.nextJob := rfl
@[simp] theorem modPart_plans (n : Nat) (f : Partition → Partition) : (modPart n f s).plans = s.plans := rfl
@[simp] theorem modPart_nextPlan (n : Nat) (f : Partition → Partition) : (modPart n f s).nextPlan = s.nextPlan := rfl
@[simp] theorem modPart_rings (n : Nat) (f : Partition → Partition) : (modPart n f s).rings = s.rings := rfl
@[simp] theorem modPart_fnInc (n : Nat) (f : Partition → Partition) : (modPart n f s).fnInc = s.fnInc := rfl
@[simp] theorem modPart_parts (n : Nat) (f : Partition → Partition) : (modPart n f s).parts = tmod n {} f s.parts := rfl
@[simp] theorem modPart_objects (n : Nat) (f : Partition → Partition) : (modPart n f s).objects = s.objects := rfl
@[simp] theorem modPart_hostWords (n : Nat) (f : Partition → Partition) : (modPart n f s).hostWords = s.hostWords := rfl
@[simp] theorem modPart_barriers (n : Nat) (f : Partition → Partition) : (modPart n f s).barriers = s.barriers := rfl
@[simp] theorem modPart_remoteOps (n : Nat) (f : Partition → Partition) : (modPart n f s).remoteOps = s.remoteOps := rfl
@[simp] theorem modPart_probes (n : Nat) (f : Partition → Partition) : (modPart n f s).probes = s.probes := rfl
@[simp] theorem modPart_channels (n : Nat) (f : Partition → Partition) : (modPart n f s).channels = s.channels := rfl
@[simp] theorem modPart_engines (n : Nat) (f : Partition → Partition) : (modPart n f s).engines = s.engines := rfl
@[simp] theorem modPart_proxies (n : Nat) (f : Partition → Partition) : (modPart n f s).proxies = s.proxies := rfl
@[simp] theorem modPart_creditOps (n : Nat) (f : Partition → Partition) : (modPart n f s).creditOps = s.creditOps := rfl
@[simp] theorem modPart_serving (n : Nat) (f : Partition → Partition) : (modPart n f s).serving = s.serving := rfl
@[simp] theorem modPart_lantern (n : Nat) (f : Partition → Partition) : (modPart n f s).lantern = s.lantern := rfl
@[simp] theorem modPart_out (n : Nat) (f : Partition → Partition) : (modPart n f s).out = s.out := rfl

/-! modRing -/

@[simp] theorem modRing_pending (fn ring : Nat) (f : Ring → Ring) : (modRing fn ring f s).pending = s.pending := rfl
@[simp] theorem modRing_free (fn ring : Nat) (f : Ring → Ring) : (modRing fn ring f s).free = s.free := rfl
@[simp] theorem modRing_reports (fn ring : Nat) (f : Ring → Ring) : (modRing fn ring f s).reports = s.reports := rfl
@[simp] theorem modRing_time (fn ring : Nat) (f : Ring → Ring) : (modRing fn ring f s).time = s.time := rfl
@[simp] theorem modRing_pkg (fn ring : Nat) (f : Ring → Ring) : (modRing fn ring f s).pkg = s.pkg := rfl
@[simp] theorem modRing_fuse (fn ring : Nat) (f : Ring → Ring) : (modRing fn ring f s).fuse = s.fuse := rfl
@[simp] theorem modRing_flash (fn ring : Nat) (f : Ring → Ring) : (modRing fn ring f s).flash = s.flash := rfl
@[simp] theorem modRing_supplies (fn ring : Nat) (f : Ring → Ring) : (modRing fn ring f s).supplies = s.supplies := rfl
@[simp] theorem modRing_power (fn ring : Nat) (f : Ring → Ring) : (modRing fn ring f s).power = s.power := rfl
@[simp] theorem modRing_thermal (fn ring : Nat) (f : Ring → Ring) : (modRing fn ring f s).thermal = s.thermal := rfl
@[simp] theorem modRing_repair (fn ring : Nat) (f : Ring → Ring) : (modRing fn ring f s).repair = s.repair := rfl
@[simp] theorem modRing_units (fn ring : Nat) (f : Ring → Ring) : (modRing fn ring f s).units = s.units := rfl
@[simp] theorem modRing_keepers (fn ring : Nat) (f : Ring → Ring) : (modRing fn ring f s).keepers = s.keepers := rfl
@[simp] theorem modRing_log (fn ring : Nat) (f : Ring → Ring) : (modRing fn ring f s).log = s.log := rfl
@[simp] theorem modRing_mem (fn ring : Nat) (f : Ring → Ring) : (modRing fn ring f s).mem = s.mem := rfl
@[simp] theorem modRing_cores (fn ring : Nat) (f : Ring → Ring) : (modRing fn ring f s).cores = s.cores := rfl
@[simp] theorem modRing_regions (fn ring : Nat) (f : Ring → Ring) : (modRing fn ring f s).regions = s.regions := rfl
@[simp] theorem modRing_combine (fn ring : Nat) (f : Ring → Ring) : (modRing fn ring f s).combine = s.combine := rfl
@[simp] theorem modRing_jobs (fn ring : Nat) (f : Ring → Ring) : (modRing fn ring f s).jobs = s.jobs := rfl
@[simp] theorem modRing_nextJob (fn ring : Nat) (f : Ring → Ring) : (modRing fn ring f s).nextJob = s.nextJob := rfl
@[simp] theorem modRing_plans (fn ring : Nat) (f : Ring → Ring) : (modRing fn ring f s).plans = s.plans := rfl
@[simp] theorem modRing_nextPlan (fn ring : Nat) (f : Ring → Ring) : (modRing fn ring f s).nextPlan = s.nextPlan := rfl
@[simp] theorem modRing_rings (fn ring : Nat) (f : Ring → Ring) : (modRing fn ring f s).rings = tmod (ringKey fn ring) {} f s.rings := rfl
@[simp] theorem modRing_fnInc (fn ring : Nat) (f : Ring → Ring) : (modRing fn ring f s).fnInc = s.fnInc := rfl
@[simp] theorem modRing_parts (fn ring : Nat) (f : Ring → Ring) : (modRing fn ring f s).parts = s.parts := rfl
@[simp] theorem modRing_objects (fn ring : Nat) (f : Ring → Ring) : (modRing fn ring f s).objects = s.objects := rfl
@[simp] theorem modRing_hostWords (fn ring : Nat) (f : Ring → Ring) : (modRing fn ring f s).hostWords = s.hostWords := rfl
@[simp] theorem modRing_barriers (fn ring : Nat) (f : Ring → Ring) : (modRing fn ring f s).barriers = s.barriers := rfl
@[simp] theorem modRing_remoteOps (fn ring : Nat) (f : Ring → Ring) : (modRing fn ring f s).remoteOps = s.remoteOps := rfl
@[simp] theorem modRing_probes (fn ring : Nat) (f : Ring → Ring) : (modRing fn ring f s).probes = s.probes := rfl
@[simp] theorem modRing_channels (fn ring : Nat) (f : Ring → Ring) : (modRing fn ring f s).channels = s.channels := rfl
@[simp] theorem modRing_engines (fn ring : Nat) (f : Ring → Ring) : (modRing fn ring f s).engines = s.engines := rfl
@[simp] theorem modRing_proxies (fn ring : Nat) (f : Ring → Ring) : (modRing fn ring f s).proxies = s.proxies := rfl
@[simp] theorem modRing_creditOps (fn ring : Nat) (f : Ring → Ring) : (modRing fn ring f s).creditOps = s.creditOps := rfl
@[simp] theorem modRing_serving (fn ring : Nat) (f : Ring → Ring) : (modRing fn ring f s).serving = s.serving := rfl
@[simp] theorem modRing_lantern (fn ring : Nat) (f : Ring → Ring) : (modRing fn ring f s).lantern = s.lantern := rfl
@[simp] theorem modRing_out (fn ring : Nat) (f : Ring → Ring) : (modRing fn ring f s).out = s.out := rfl

/-! modChannel -/

@[simp] theorem modChannel_pending (r c : Nat) (f : Channel → Channel) : (modChannel r c f s).pending = s.pending := rfl
@[simp] theorem modChannel_free (r c : Nat) (f : Channel → Channel) : (modChannel r c f s).free = s.free := rfl
@[simp] theorem modChannel_reports (r c : Nat) (f : Channel → Channel) : (modChannel r c f s).reports = s.reports := rfl
@[simp] theorem modChannel_time (r c : Nat) (f : Channel → Channel) : (modChannel r c f s).time = s.time := rfl
@[simp] theorem modChannel_pkg (r c : Nat) (f : Channel → Channel) : (modChannel r c f s).pkg = s.pkg := rfl
@[simp] theorem modChannel_fuse (r c : Nat) (f : Channel → Channel) : (modChannel r c f s).fuse = s.fuse := rfl
@[simp] theorem modChannel_flash (r c : Nat) (f : Channel → Channel) : (modChannel r c f s).flash = s.flash := rfl
@[simp] theorem modChannel_supplies (r c : Nat) (f : Channel → Channel) : (modChannel r c f s).supplies = s.supplies := rfl
@[simp] theorem modChannel_power (r c : Nat) (f : Channel → Channel) : (modChannel r c f s).power = s.power := rfl
@[simp] theorem modChannel_thermal (r c : Nat) (f : Channel → Channel) : (modChannel r c f s).thermal = s.thermal := rfl
@[simp] theorem modChannel_repair (r c : Nat) (f : Channel → Channel) : (modChannel r c f s).repair = s.repair := rfl
@[simp] theorem modChannel_units (r c : Nat) (f : Channel → Channel) : (modChannel r c f s).units = s.units := rfl
@[simp] theorem modChannel_keepers (r c : Nat) (f : Channel → Channel) : (modChannel r c f s).keepers = s.keepers := rfl
@[simp] theorem modChannel_log (r c : Nat) (f : Channel → Channel) : (modChannel r c f s).log = s.log := rfl
@[simp] theorem modChannel_mem (r c : Nat) (f : Channel → Channel) : (modChannel r c f s).mem = s.mem := rfl
@[simp] theorem modChannel_cores (r c : Nat) (f : Channel → Channel) : (modChannel r c f s).cores = s.cores := rfl
@[simp] theorem modChannel_regions (r c : Nat) (f : Channel → Channel) : (modChannel r c f s).regions = s.regions := rfl
@[simp] theorem modChannel_combine (r c : Nat) (f : Channel → Channel) : (modChannel r c f s).combine = s.combine := rfl
@[simp] theorem modChannel_jobs (r c : Nat) (f : Channel → Channel) : (modChannel r c f s).jobs = s.jobs := rfl
@[simp] theorem modChannel_nextJob (r c : Nat) (f : Channel → Channel) : (modChannel r c f s).nextJob = s.nextJob := rfl
@[simp] theorem modChannel_plans (r c : Nat) (f : Channel → Channel) : (modChannel r c f s).plans = s.plans := rfl
@[simp] theorem modChannel_nextPlan (r c : Nat) (f : Channel → Channel) : (modChannel r c f s).nextPlan = s.nextPlan := rfl
@[simp] theorem modChannel_rings (r c : Nat) (f : Channel → Channel) : (modChannel r c f s).rings = s.rings := rfl
@[simp] theorem modChannel_fnInc (r c : Nat) (f : Channel → Channel) : (modChannel r c f s).fnInc = s.fnInc := rfl
@[simp] theorem modChannel_parts (r c : Nat) (f : Channel → Channel) : (modChannel r c f s).parts = s.parts := rfl
@[simp] theorem modChannel_objects (r c : Nat) (f : Channel → Channel) : (modChannel r c f s).objects = s.objects := rfl
@[simp] theorem modChannel_hostWords (r c : Nat) (f : Channel → Channel) : (modChannel r c f s).hostWords = s.hostWords := rfl
@[simp] theorem modChannel_barriers (r c : Nat) (f : Channel → Channel) : (modChannel r c f s).barriers = s.barriers := rfl
@[simp] theorem modChannel_remoteOps (r c : Nat) (f : Channel → Channel) : (modChannel r c f s).remoteOps = s.remoteOps := rfl
@[simp] theorem modChannel_probes (r c : Nat) (f : Channel → Channel) : (modChannel r c f s).probes = s.probes := rfl
@[simp] theorem modChannel_channels (r c : Nat) (f : Channel → Channel) : (modChannel r c f s).channels = tmod (channelKey r c) {} f s.channels := rfl
@[simp] theorem modChannel_engines (r c : Nat) (f : Channel → Channel) : (modChannel r c f s).engines = s.engines := rfl
@[simp] theorem modChannel_proxies (r c : Nat) (f : Channel → Channel) : (modChannel r c f s).proxies = s.proxies := rfl
@[simp] theorem modChannel_creditOps (r c : Nat) (f : Channel → Channel) : (modChannel r c f s).creditOps = s.creditOps := rfl
@[simp] theorem modChannel_serving (r c : Nat) (f : Channel → Channel) : (modChannel r c f s).serving = s.serving := rfl
@[simp] theorem modChannel_lantern (r c : Nat) (f : Channel → Channel) : (modChannel r c f s).lantern = s.lantern := rfl
@[simp] theorem modChannel_out (r c : Nat) (f : Channel → Channel) : (modChannel r c f s).out = s.out := rfl

/-! modPort -/

@[simp] theorem modPort_pending (p : Nat) (f : Port → Port) : (modPort p f s).pending = s.pending := rfl
@[simp] theorem modPort_free (p : Nat) (f : Port → Port) : (modPort p f s).free = s.free := rfl
@[simp] theorem modPort_reports (p : Nat) (f : Port → Port) : (modPort p f s).reports = s.reports := rfl
@[simp] theorem modPort_time (p : Nat) (f : Port → Port) : (modPort p f s).time = s.time := rfl
@[simp] theorem modPort_pkg (p : Nat) (f : Port → Port) : (modPort p f s).pkg = s.pkg := rfl
@[simp] theorem modPort_fuse (p : Nat) (f : Port → Port) : (modPort p f s).fuse = s.fuse := rfl
@[simp] theorem modPort_flash (p : Nat) (f : Port → Port) : (modPort p f s).flash = s.flash := rfl
@[simp] theorem modPort_supplies (p : Nat) (f : Port → Port) : (modPort p f s).supplies = s.supplies := rfl
@[simp] theorem modPort_power (p : Nat) (f : Port → Port) : (modPort p f s).power = s.power := rfl
@[simp] theorem modPort_thermal (p : Nat) (f : Port → Port) : (modPort p f s).thermal = s.thermal := rfl
@[simp] theorem modPort_repair (p : Nat) (f : Port → Port) : (modPort p f s).repair = s.repair := rfl
@[simp] theorem modPort_units (p : Nat) (f : Port → Port) : (modPort p f s).units = s.units := rfl
@[simp] theorem modPort_keepers (p : Nat) (f : Port → Port) : (modPort p f s).keepers = s.keepers := rfl
@[simp] theorem modPort_log (p : Nat) (f : Port → Port) : (modPort p f s).log = s.log := rfl
@[simp] theorem modPort_mem (p : Nat) (f : Port → Port) : (modPort p f s).mem = s.mem := rfl
@[simp] theorem modPort_cores (p : Nat) (f : Port → Port) : (modPort p f s).cores = s.cores := rfl
@[simp] theorem modPort_regions (p : Nat) (f : Port → Port) : (modPort p f s).regions = s.regions := rfl
@[simp] theorem modPort_combine (p : Nat) (f : Port → Port) : (modPort p f s).combine = s.combine := rfl
@[simp] theorem modPort_jobs (p : Nat) (f : Port → Port) : (modPort p f s).jobs = s.jobs := rfl
@[simp] theorem modPort_nextJob (p : Nat) (f : Port → Port) : (modPort p f s).nextJob = s.nextJob := rfl
@[simp] theorem modPort_plans (p : Nat) (f : Port → Port) : (modPort p f s).plans = s.plans := rfl
@[simp] theorem modPort_nextPlan (p : Nat) (f : Port → Port) : (modPort p f s).nextPlan = s.nextPlan := rfl
@[simp] theorem modPort_rings (p : Nat) (f : Port → Port) : (modPort p f s).rings = s.rings := rfl
@[simp] theorem modPort_fnInc (p : Nat) (f : Port → Port) : (modPort p f s).fnInc = s.fnInc := rfl
@[simp] theorem modPort_parts (p : Nat) (f : Port → Port) : (modPort p f s).parts = s.parts := rfl
@[simp] theorem modPort_objects (p : Nat) (f : Port → Port) : (modPort p f s).objects = s.objects := rfl
@[simp] theorem modPort_hostWords (p : Nat) (f : Port → Port) : (modPort p f s).hostWords = s.hostWords := rfl
@[simp] theorem modPort_barriers (p : Nat) (f : Port → Port) : (modPort p f s).barriers = s.barriers := rfl
@[simp] theorem modPort_remoteOps (p : Nat) (f : Port → Port) : (modPort p f s).remoteOps = s.remoteOps := rfl
@[simp] theorem modPort_probes (p : Nat) (f : Port → Port) : (modPort p f s).probes = s.probes := rfl
@[simp] theorem modPort_channels (p : Nat) (f : Port → Port) : (modPort p f s).channels = s.channels := rfl
@[simp] theorem modPort_engines (p : Nat) (f : Port → Port) : (modPort p f s).engines = s.engines := rfl
@[simp] theorem modPort_proxies (p : Nat) (f : Port → Port) : (modPort p f s).proxies = s.proxies := rfl
@[simp] theorem modPort_creditOps (p : Nat) (f : Port → Port) : (modPort p f s).creditOps = s.creditOps := rfl
@[simp] theorem modPort_serving (p : Nat) (f : Port → Port) : (modPort p f s).serving = s.serving := rfl
@[simp] theorem modPort_lantern (p : Nat) (f : Port → Port) : (modPort p f s).lantern = { s.lantern with ports := tmod p {} f s.lantern.ports } := rfl
@[simp] theorem modPort_out (p : Nat) (f : Port → Port) : (modPort p f s).out = s.out := rfl

/-! modEngine -/

@[simp] theorem modEngine_pending (r : Nat) (f : QueueEngine → QueueEngine) : (modEngine r f s).pending = s.pending := rfl
@[simp] theorem modEngine_free (r : Nat) (f : QueueEngine → QueueEngine) : (modEngine r f s).free = s.free := rfl
@[simp] theorem modEngine_reports (r : Nat) (f : QueueEngine → QueueEngine) : (modEngine r f s).reports = s.reports := rfl
@[simp] theorem modEngine_time (r : Nat) (f : QueueEngine → QueueEngine) : (modEngine r f s).time = s.time := rfl
@[simp] theorem modEngine_pkg (r : Nat) (f : QueueEngine → QueueEngine) : (modEngine r f s).pkg = s.pkg := rfl
@[simp] theorem modEngine_fuse (r : Nat) (f : QueueEngine → QueueEngine) : (modEngine r f s).fuse = s.fuse := rfl
@[simp] theorem modEngine_flash (r : Nat) (f : QueueEngine → QueueEngine) : (modEngine r f s).flash = s.flash := rfl
@[simp] theorem modEngine_supplies (r : Nat) (f : QueueEngine → QueueEngine) : (modEngine r f s).supplies = s.supplies := rfl
@[simp] theorem modEngine_power (r : Nat) (f : QueueEngine → QueueEngine) : (modEngine r f s).power = s.power := rfl
@[simp] theorem modEngine_thermal (r : Nat) (f : QueueEngine → QueueEngine) : (modEngine r f s).thermal = s.thermal := rfl
@[simp] theorem modEngine_repair (r : Nat) (f : QueueEngine → QueueEngine) : (modEngine r f s).repair = s.repair := rfl
@[simp] theorem modEngine_units (r : Nat) (f : QueueEngine → QueueEngine) : (modEngine r f s).units = s.units := rfl
@[simp] theorem modEngine_keepers (r : Nat) (f : QueueEngine → QueueEngine) : (modEngine r f s).keepers = s.keepers := rfl
@[simp] theorem modEngine_log (r : Nat) (f : QueueEngine → QueueEngine) : (modEngine r f s).log = s.log := rfl
@[simp] theorem modEngine_mem (r : Nat) (f : QueueEngine → QueueEngine) : (modEngine r f s).mem = s.mem := rfl
@[simp] theorem modEngine_cores (r : Nat) (f : QueueEngine → QueueEngine) : (modEngine r f s).cores = s.cores := rfl
@[simp] theorem modEngine_regions (r : Nat) (f : QueueEngine → QueueEngine) : (modEngine r f s).regions = s.regions := rfl
@[simp] theorem modEngine_combine (r : Nat) (f : QueueEngine → QueueEngine) : (modEngine r f s).combine = s.combine := rfl
@[simp] theorem modEngine_jobs (r : Nat) (f : QueueEngine → QueueEngine) : (modEngine r f s).jobs = s.jobs := rfl
@[simp] theorem modEngine_nextJob (r : Nat) (f : QueueEngine → QueueEngine) : (modEngine r f s).nextJob = s.nextJob := rfl
@[simp] theorem modEngine_plans (r : Nat) (f : QueueEngine → QueueEngine) : (modEngine r f s).plans = s.plans := rfl
@[simp] theorem modEngine_nextPlan (r : Nat) (f : QueueEngine → QueueEngine) : (modEngine r f s).nextPlan = s.nextPlan := rfl
@[simp] theorem modEngine_rings (r : Nat) (f : QueueEngine → QueueEngine) : (modEngine r f s).rings = s.rings := rfl
@[simp] theorem modEngine_fnInc (r : Nat) (f : QueueEngine → QueueEngine) : (modEngine r f s).fnInc = s.fnInc := rfl
@[simp] theorem modEngine_parts (r : Nat) (f : QueueEngine → QueueEngine) : (modEngine r f s).parts = s.parts := rfl
@[simp] theorem modEngine_objects (r : Nat) (f : QueueEngine → QueueEngine) : (modEngine r f s).objects = s.objects := rfl
@[simp] theorem modEngine_hostWords (r : Nat) (f : QueueEngine → QueueEngine) : (modEngine r f s).hostWords = s.hostWords := rfl
@[simp] theorem modEngine_barriers (r : Nat) (f : QueueEngine → QueueEngine) : (modEngine r f s).barriers = s.barriers := rfl
@[simp] theorem modEngine_remoteOps (r : Nat) (f : QueueEngine → QueueEngine) : (modEngine r f s).remoteOps = s.remoteOps := rfl
@[simp] theorem modEngine_probes (r : Nat) (f : QueueEngine → QueueEngine) : (modEngine r f s).probes = s.probes := rfl
@[simp] theorem modEngine_channels (r : Nat) (f : QueueEngine → QueueEngine) : (modEngine r f s).channels = s.channels := rfl
@[simp] theorem modEngine_engines (r : Nat) (f : QueueEngine → QueueEngine) : (modEngine r f s).engines = tmod r {} f s.engines := rfl
@[simp] theorem modEngine_proxies (r : Nat) (f : QueueEngine → QueueEngine) : (modEngine r f s).proxies = s.proxies := rfl
@[simp] theorem modEngine_creditOps (r : Nat) (f : QueueEngine → QueueEngine) : (modEngine r f s).creditOps = s.creditOps := rfl
@[simp] theorem modEngine_serving (r : Nat) (f : QueueEngine → QueueEngine) : (modEngine r f s).serving = s.serving := rfl
@[simp] theorem modEngine_lantern (r : Nat) (f : QueueEngine → QueueEngine) : (modEngine r f s).lantern = s.lantern := rfl
@[simp] theorem modEngine_out (r : Nat) (f : QueueEngine → QueueEngine) : (modEngine r f s).out = s.out := rfl

/-! modServing -/

@[simp] theorem modServing_pending (f : Serving → Serving) : (modServing f s).pending = s.pending := rfl
@[simp] theorem modServing_free (f : Serving → Serving) : (modServing f s).free = s.free := rfl
@[simp] theorem modServing_reports (f : Serving → Serving) : (modServing f s).reports = s.reports := rfl
@[simp] theorem modServing_time (f : Serving → Serving) : (modServing f s).time = s.time := rfl
@[simp] theorem modServing_pkg (f : Serving → Serving) : (modServing f s).pkg = s.pkg := rfl
@[simp] theorem modServing_fuse (f : Serving → Serving) : (modServing f s).fuse = s.fuse := rfl
@[simp] theorem modServing_flash (f : Serving → Serving) : (modServing f s).flash = s.flash := rfl
@[simp] theorem modServing_supplies (f : Serving → Serving) : (modServing f s).supplies = s.supplies := rfl
@[simp] theorem modServing_power (f : Serving → Serving) : (modServing f s).power = s.power := rfl
@[simp] theorem modServing_thermal (f : Serving → Serving) : (modServing f s).thermal = s.thermal := rfl
@[simp] theorem modServing_repair (f : Serving → Serving) : (modServing f s).repair = s.repair := rfl
@[simp] theorem modServing_units (f : Serving → Serving) : (modServing f s).units = s.units := rfl
@[simp] theorem modServing_keepers (f : Serving → Serving) : (modServing f s).keepers = s.keepers := rfl
@[simp] theorem modServing_log (f : Serving → Serving) : (modServing f s).log = s.log := rfl
@[simp] theorem modServing_mem (f : Serving → Serving) : (modServing f s).mem = s.mem := rfl
@[simp] theorem modServing_cores (f : Serving → Serving) : (modServing f s).cores = s.cores := rfl
@[simp] theorem modServing_regions (f : Serving → Serving) : (modServing f s).regions = s.regions := rfl
@[simp] theorem modServing_combine (f : Serving → Serving) : (modServing f s).combine = s.combine := rfl
@[simp] theorem modServing_jobs (f : Serving → Serving) : (modServing f s).jobs = s.jobs := rfl
@[simp] theorem modServing_nextJob (f : Serving → Serving) : (modServing f s).nextJob = s.nextJob := rfl
@[simp] theorem modServing_plans (f : Serving → Serving) : (modServing f s).plans = s.plans := rfl
@[simp] theorem modServing_nextPlan (f : Serving → Serving) : (modServing f s).nextPlan = s.nextPlan := rfl
@[simp] theorem modServing_rings (f : Serving → Serving) : (modServing f s).rings = s.rings := rfl
@[simp] theorem modServing_fnInc (f : Serving → Serving) : (modServing f s).fnInc = s.fnInc := rfl
@[simp] theorem modServing_parts (f : Serving → Serving) : (modServing f s).parts = s.parts := rfl
@[simp] theorem modServing_objects (f : Serving → Serving) : (modServing f s).objects = s.objects := rfl
@[simp] theorem modServing_hostWords (f : Serving → Serving) : (modServing f s).hostWords = s.hostWords := rfl
@[simp] theorem modServing_barriers (f : Serving → Serving) : (modServing f s).barriers = s.barriers := rfl
@[simp] theorem modServing_remoteOps (f : Serving → Serving) : (modServing f s).remoteOps = s.remoteOps := rfl
@[simp] theorem modServing_probes (f : Serving → Serving) : (modServing f s).probes = s.probes := rfl
@[simp] theorem modServing_channels (f : Serving → Serving) : (modServing f s).channels = s.channels := rfl
@[simp] theorem modServing_engines (f : Serving → Serving) : (modServing f s).engines = s.engines := rfl
@[simp] theorem modServing_proxies (f : Serving → Serving) : (modServing f s).proxies = s.proxies := rfl
@[simp] theorem modServing_creditOps (f : Serving → Serving) : (modServing f s).creditOps = s.creditOps := rfl
@[simp] theorem modServing_serving (f : Serving → Serving) : (modServing f s).serving = f s.serving := rfl
@[simp] theorem modServing_lantern (f : Serving → Serving) : (modServing f s).lantern = s.lantern := rfl
@[simp] theorem modServing_out (f : Serving → Serving) : (modServing f s).out = s.out := rfl

/-! modPkg -/

@[simp] theorem modPkg_pending (f : Pkg → Pkg) : (modPkg f s).pending = s.pending := rfl
@[simp] theorem modPkg_free (f : Pkg → Pkg) : (modPkg f s).free = s.free := rfl
@[simp] theorem modPkg_reports (f : Pkg → Pkg) : (modPkg f s).reports = s.reports := rfl
@[simp] theorem modPkg_time (f : Pkg → Pkg) : (modPkg f s).time = s.time := rfl
@[simp] theorem modPkg_pkg (f : Pkg → Pkg) : (modPkg f s).pkg = f s.pkg := rfl
@[simp] theorem modPkg_fuse (f : Pkg → Pkg) : (modPkg f s).fuse = s.fuse := rfl
@[simp] theorem modPkg_flash (f : Pkg → Pkg) : (modPkg f s).flash = s.flash := rfl
@[simp] theorem modPkg_supplies (f : Pkg → Pkg) : (modPkg f s).supplies = s.supplies := rfl
@[simp] theorem modPkg_power (f : Pkg → Pkg) : (modPkg f s).power = s.power := rfl
@[simp] theorem modPkg_thermal (f : Pkg → Pkg) : (modPkg f s).thermal = s.thermal := rfl
@[simp] theorem modPkg_repair (f : Pkg → Pkg) : (modPkg f s).repair = s.repair := rfl
@[simp] theorem modPkg_units (f : Pkg → Pkg) : (modPkg f s).units = s.units := rfl
@[simp] theorem modPkg_keepers (f : Pkg → Pkg) : (modPkg f s).keepers = s.keepers := rfl
@[simp] theorem modPkg_log (f : Pkg → Pkg) : (modPkg f s).log = s.log := rfl
@[simp] theorem modPkg_mem (f : Pkg → Pkg) : (modPkg f s).mem = s.mem := rfl
@[simp] theorem modPkg_cores (f : Pkg → Pkg) : (modPkg f s).cores = s.cores := rfl
@[simp] theorem modPkg_regions (f : Pkg → Pkg) : (modPkg f s).regions = s.regions := rfl
@[simp] theorem modPkg_combine (f : Pkg → Pkg) : (modPkg f s).combine = s.combine := rfl
@[simp] theorem modPkg_jobs (f : Pkg → Pkg) : (modPkg f s).jobs = s.jobs := rfl
@[simp] theorem modPkg_nextJob (f : Pkg → Pkg) : (modPkg f s).nextJob = s.nextJob := rfl
@[simp] theorem modPkg_plans (f : Pkg → Pkg) : (modPkg f s).plans = s.plans := rfl
@[simp] theorem modPkg_nextPlan (f : Pkg → Pkg) : (modPkg f s).nextPlan = s.nextPlan := rfl
@[simp] theorem modPkg_rings (f : Pkg → Pkg) : (modPkg f s).rings = s.rings := rfl
@[simp] theorem modPkg_fnInc (f : Pkg → Pkg) : (modPkg f s).fnInc = s.fnInc := rfl
@[simp] theorem modPkg_parts (f : Pkg → Pkg) : (modPkg f s).parts = s.parts := rfl
@[simp] theorem modPkg_objects (f : Pkg → Pkg) : (modPkg f s).objects = s.objects := rfl
@[simp] theorem modPkg_hostWords (f : Pkg → Pkg) : (modPkg f s).hostWords = s.hostWords := rfl
@[simp] theorem modPkg_barriers (f : Pkg → Pkg) : (modPkg f s).barriers = s.barriers := rfl
@[simp] theorem modPkg_remoteOps (f : Pkg → Pkg) : (modPkg f s).remoteOps = s.remoteOps := rfl
@[simp] theorem modPkg_probes (f : Pkg → Pkg) : (modPkg f s).probes = s.probes := rfl
@[simp] theorem modPkg_channels (f : Pkg → Pkg) : (modPkg f s).channels = s.channels := rfl
@[simp] theorem modPkg_engines (f : Pkg → Pkg) : (modPkg f s).engines = s.engines := rfl
@[simp] theorem modPkg_proxies (f : Pkg → Pkg) : (modPkg f s).proxies = s.proxies := rfl
@[simp] theorem modPkg_creditOps (f : Pkg → Pkg) : (modPkg f s).creditOps = s.creditOps := rfl
@[simp] theorem modPkg_serving (f : Pkg → Pkg) : (modPkg f s).serving = s.serving := rfl
@[simp] theorem modPkg_lantern (f : Pkg → Pkg) : (modPkg f s).lantern = s.lantern := rfl
@[simp] theorem modPkg_out (f : Pkg → Pkg) : (modPkg f s).out = s.out := rfl

/-! modPower -/

@[simp] theorem modPower_pending (f : Power → Power) : (modPower f s).pending = s.pending := rfl
@[simp] theorem modPower_free (f : Power → Power) : (modPower f s).free = s.free := rfl
@[simp] theorem modPower_reports (f : Power → Power) : (modPower f s).reports = s.reports := rfl
@[simp] theorem modPower_time (f : Power → Power) : (modPower f s).time = s.time := rfl
@[simp] theorem modPower_pkg (f : Power → Power) : (modPower f s).pkg = s.pkg := rfl
@[simp] theorem modPower_fuse (f : Power → Power) : (modPower f s).fuse = s.fuse := rfl
@[simp] theorem modPower_flash (f : Power → Power) : (modPower f s).flash = s.flash := rfl
@[simp] theorem modPower_supplies (f : Power → Power) : (modPower f s).supplies = s.supplies := rfl
@[simp] theorem modPower_power (f : Power → Power) : (modPower f s).power = f s.power := rfl
@[simp] theorem modPower_thermal (f : Power → Power) : (modPower f s).thermal = s.thermal := rfl
@[simp] theorem modPower_repair (f : Power → Power) : (modPower f s).repair = s.repair := rfl
@[simp] theorem modPower_units (f : Power → Power) : (modPower f s).units = s.units := rfl
@[simp] theorem modPower_keepers (f : Power → Power) : (modPower f s).keepers = s.keepers := rfl
@[simp] theorem modPower_log (f : Power → Power) : (modPower f s).log = s.log := rfl
@[simp] theorem modPower_mem (f : Power → Power) : (modPower f s).mem = s.mem := rfl
@[simp] theorem modPower_cores (f : Power → Power) : (modPower f s).cores = s.cores := rfl
@[simp] theorem modPower_regions (f : Power → Power) : (modPower f s).regions = s.regions := rfl
@[simp] theorem modPower_combine (f : Power → Power) : (modPower f s).combine = s.combine := rfl
@[simp] theorem modPower_jobs (f : Power → Power) : (modPower f s).jobs = s.jobs := rfl
@[simp] theorem modPower_nextJob (f : Power → Power) : (modPower f s).nextJob = s.nextJob := rfl
@[simp] theorem modPower_plans (f : Power → Power) : (modPower f s).plans = s.plans := rfl
@[simp] theorem modPower_nextPlan (f : Power → Power) : (modPower f s).nextPlan = s.nextPlan := rfl
@[simp] theorem modPower_rings (f : Power → Power) : (modPower f s).rings = s.rings := rfl
@[simp] theorem modPower_fnInc (f : Power → Power) : (modPower f s).fnInc = s.fnInc := rfl
@[simp] theorem modPower_parts (f : Power → Power) : (modPower f s).parts = s.parts := rfl
@[simp] theorem modPower_objects (f : Power → Power) : (modPower f s).objects = s.objects := rfl
@[simp] theorem modPower_hostWords (f : Power → Power) : (modPower f s).hostWords = s.hostWords := rfl
@[simp] theorem modPower_barriers (f : Power → Power) : (modPower f s).barriers = s.barriers := rfl
@[simp] theorem modPower_remoteOps (f : Power → Power) : (modPower f s).remoteOps = s.remoteOps := rfl
@[simp] theorem modPower_probes (f : Power → Power) : (modPower f s).probes = s.probes := rfl
@[simp] theorem modPower_channels (f : Power → Power) : (modPower f s).channels = s.channels := rfl
@[simp] theorem modPower_engines (f : Power → Power) : (modPower f s).engines = s.engines := rfl
@[simp] theorem modPower_proxies (f : Power → Power) : (modPower f s).proxies = s.proxies := rfl
@[simp] theorem modPower_creditOps (f : Power → Power) : (modPower f s).creditOps = s.creditOps := rfl
@[simp] theorem modPower_serving (f : Power → Power) : (modPower f s).serving = s.serving := rfl
@[simp] theorem modPower_lantern (f : Power → Power) : (modPower f s).lantern = s.lantern := rfl
@[simp] theorem modPower_out (f : Power → Power) : (modPower f s).out = s.out := rfl

/-! modUnits -/

@[simp] theorem modUnits_pending (f : Units → Units) : (modUnits f s).pending = s.pending := rfl
@[simp] theorem modUnits_free (f : Units → Units) : (modUnits f s).free = s.free := rfl
@[simp] theorem modUnits_reports (f : Units → Units) : (modUnits f s).reports = s.reports := rfl
@[simp] theorem modUnits_time (f : Units → Units) : (modUnits f s).time = s.time := rfl
@[simp] theorem modUnits_pkg (f : Units → Units) : (modUnits f s).pkg = s.pkg := rfl
@[simp] theorem modUnits_fuse (f : Units → Units) : (modUnits f s).fuse = s.fuse := rfl
@[simp] theorem modUnits_flash (f : Units → Units) : (modUnits f s).flash = s.flash := rfl
@[simp] theorem modUnits_supplies (f : Units → Units) : (modUnits f s).supplies = s.supplies := rfl
@[simp] theorem modUnits_power (f : Units → Units) : (modUnits f s).power = s.power := rfl
@[simp] theorem modUnits_thermal (f : Units → Units) : (modUnits f s).thermal = s.thermal := rfl
@[simp] theorem modUnits_repair (f : Units → Units) : (modUnits f s).repair = s.repair := rfl
@[simp] theorem modUnits_units (f : Units → Units) : (modUnits f s).units = f s.units := rfl
@[simp] theorem modUnits_keepers (f : Units → Units) : (modUnits f s).keepers = s.keepers := rfl
@[simp] theorem modUnits_log (f : Units → Units) : (modUnits f s).log = s.log := rfl
@[simp] theorem modUnits_mem (f : Units → Units) : (modUnits f s).mem = s.mem := rfl
@[simp] theorem modUnits_cores (f : Units → Units) : (modUnits f s).cores = s.cores := rfl
@[simp] theorem modUnits_regions (f : Units → Units) : (modUnits f s).regions = s.regions := rfl
@[simp] theorem modUnits_combine (f : Units → Units) : (modUnits f s).combine = s.combine := rfl
@[simp] theorem modUnits_jobs (f : Units → Units) : (modUnits f s).jobs = s.jobs := rfl
@[simp] theorem modUnits_nextJob (f : Units → Units) : (modUnits f s).nextJob = s.nextJob := rfl
@[simp] theorem modUnits_plans (f : Units → Units) : (modUnits f s).plans = s.plans := rfl
@[simp] theorem modUnits_nextPlan (f : Units → Units) : (modUnits f s).nextPlan = s.nextPlan := rfl
@[simp] theorem modUnits_rings (f : Units → Units) : (modUnits f s).rings = s.rings := rfl
@[simp] theorem modUnits_fnInc (f : Units → Units) : (modUnits f s).fnInc = s.fnInc := rfl
@[simp] theorem modUnits_parts (f : Units → Units) : (modUnits f s).parts = s.parts := rfl
@[simp] theorem modUnits_objects (f : Units → Units) : (modUnits f s).objects = s.objects := rfl
@[simp] theorem modUnits_hostWords (f : Units → Units) : (modUnits f s).hostWords = s.hostWords := rfl
@[simp] theorem modUnits_barriers (f : Units → Units) : (modUnits f s).barriers = s.barriers := rfl
@[simp] theorem modUnits_remoteOps (f : Units → Units) : (modUnits f s).remoteOps = s.remoteOps := rfl
@[simp] theorem modUnits_probes (f : Units → Units) : (modUnits f s).probes = s.probes := rfl
@[simp] theorem modUnits_channels (f : Units → Units) : (modUnits f s).channels = s.channels := rfl
@[simp] theorem modUnits_engines (f : Units → Units) : (modUnits f s).engines = s.engines := rfl
@[simp] theorem modUnits_proxies (f : Units → Units) : (modUnits f s).proxies = s.proxies := rfl
@[simp] theorem modUnits_creditOps (f : Units → Units) : (modUnits f s).creditOps = s.creditOps := rfl
@[simp] theorem modUnits_serving (f : Units → Units) : (modUnits f s).serving = s.serving := rfl
@[simp] theorem modUnits_lantern (f : Units → Units) : (modUnits f s).lantern = s.lantern := rfl
@[simp] theorem modUnits_out (f : Units → Units) : (modUnits f s).out = s.out := rfl

/-! modMem -/

@[simp] theorem modMem_pending (f : Memory → Memory) : (modMem f s).pending = s.pending := rfl
@[simp] theorem modMem_free (f : Memory → Memory) : (modMem f s).free = s.free := rfl
@[simp] theorem modMem_reports (f : Memory → Memory) : (modMem f s).reports = s.reports := rfl
@[simp] theorem modMem_time (f : Memory → Memory) : (modMem f s).time = s.time := rfl
@[simp] theorem modMem_pkg (f : Memory → Memory) : (modMem f s).pkg = s.pkg := rfl
@[simp] theorem modMem_fuse (f : Memory → Memory) : (modMem f s).fuse = s.fuse := rfl
@[simp] theorem modMem_flash (f : Memory → Memory) : (modMem f s).flash = s.flash := rfl
@[simp] theorem modMem_supplies (f : Memory → Memory) : (modMem f s).supplies = s.supplies := rfl
@[simp] theorem modMem_power (f : Memory → Memory) : (modMem f s).power = s.power := rfl
@[simp] theorem modMem_thermal (f : Memory → Memory) : (modMem f s).thermal = s.thermal := rfl
@[simp] theorem modMem_repair (f : Memory → Memory) : (modMem f s).repair = s.repair := rfl
@[simp] theorem modMem_units (f : Memory → Memory) : (modMem f s).units = s.units := rfl
@[simp] theorem modMem_keepers (f : Memory → Memory) : (modMem f s).keepers = s.keepers := rfl
@[simp] theorem modMem_log (f : Memory → Memory) : (modMem f s).log = s.log := rfl
@[simp] theorem modMem_mem (f : Memory → Memory) : (modMem f s).mem = f s.mem := rfl
@[simp] theorem modMem_cores (f : Memory → Memory) : (modMem f s).cores = s.cores := rfl
@[simp] theorem modMem_regions (f : Memory → Memory) : (modMem f s).regions = s.regions := rfl
@[simp] theorem modMem_combine (f : Memory → Memory) : (modMem f s).combine = s.combine := rfl
@[simp] theorem modMem_jobs (f : Memory → Memory) : (modMem f s).jobs = s.jobs := rfl
@[simp] theorem modMem_nextJob (f : Memory → Memory) : (modMem f s).nextJob = s.nextJob := rfl
@[simp] theorem modMem_plans (f : Memory → Memory) : (modMem f s).plans = s.plans := rfl
@[simp] theorem modMem_nextPlan (f : Memory → Memory) : (modMem f s).nextPlan = s.nextPlan := rfl
@[simp] theorem modMem_rings (f : Memory → Memory) : (modMem f s).rings = s.rings := rfl
@[simp] theorem modMem_fnInc (f : Memory → Memory) : (modMem f s).fnInc = s.fnInc := rfl
@[simp] theorem modMem_parts (f : Memory → Memory) : (modMem f s).parts = s.parts := rfl
@[simp] theorem modMem_objects (f : Memory → Memory) : (modMem f s).objects = s.objects := rfl
@[simp] theorem modMem_hostWords (f : Memory → Memory) : (modMem f s).hostWords = s.hostWords := rfl
@[simp] theorem modMem_barriers (f : Memory → Memory) : (modMem f s).barriers = s.barriers := rfl
@[simp] theorem modMem_remoteOps (f : Memory → Memory) : (modMem f s).remoteOps = s.remoteOps := rfl
@[simp] theorem modMem_probes (f : Memory → Memory) : (modMem f s).probes = s.probes := rfl
@[simp] theorem modMem_channels (f : Memory → Memory) : (modMem f s).channels = s.channels := rfl
@[simp] theorem modMem_engines (f : Memory → Memory) : (modMem f s).engines = s.engines := rfl
@[simp] theorem modMem_proxies (f : Memory → Memory) : (modMem f s).proxies = s.proxies := rfl
@[simp] theorem modMem_creditOps (f : Memory → Memory) : (modMem f s).creditOps = s.creditOps := rfl
@[simp] theorem modMem_serving (f : Memory → Memory) : (modMem f s).serving = s.serving := rfl
@[simp] theorem modMem_lantern (f : Memory → Memory) : (modMem f s).lantern = s.lantern := rfl
@[simp] theorem modMem_out (f : Memory → Memory) : (modMem f s).out = s.out := rfl

/-! modOut -/

@[simp] theorem modOut_pending (f : Outputs → Outputs) : (modOut f s).pending = s.pending := rfl
@[simp] theorem modOut_free (f : Outputs → Outputs) : (modOut f s).free = s.free := rfl
@[simp] theorem modOut_reports (f : Outputs → Outputs) : (modOut f s).reports = s.reports := rfl
@[simp] theorem modOut_time (f : Outputs → Outputs) : (modOut f s).time = s.time := rfl
@[simp] theorem modOut_pkg (f : Outputs → Outputs) : (modOut f s).pkg = s.pkg := rfl
@[simp] theorem modOut_fuse (f : Outputs → Outputs) : (modOut f s).fuse = s.fuse := rfl
@[simp] theorem modOut_flash (f : Outputs → Outputs) : (modOut f s).flash = s.flash := rfl
@[simp] theorem modOut_supplies (f : Outputs → Outputs) : (modOut f s).supplies = s.supplies := rfl
@[simp] theorem modOut_power (f : Outputs → Outputs) : (modOut f s).power = s.power := rfl
@[simp] theorem modOut_thermal (f : Outputs → Outputs) : (modOut f s).thermal = s.thermal := rfl
@[simp] theorem modOut_repair (f : Outputs → Outputs) : (modOut f s).repair = s.repair := rfl
@[simp] theorem modOut_units (f : Outputs → Outputs) : (modOut f s).units = s.units := rfl
@[simp] theorem modOut_keepers (f : Outputs → Outputs) : (modOut f s).keepers = s.keepers := rfl
@[simp] theorem modOut_log (f : Outputs → Outputs) : (modOut f s).log = s.log := rfl
@[simp] theorem modOut_mem (f : Outputs → Outputs) : (modOut f s).mem = s.mem := rfl
@[simp] theorem modOut_cores (f : Outputs → Outputs) : (modOut f s).cores = s.cores := rfl
@[simp] theorem modOut_regions (f : Outputs → Outputs) : (modOut f s).regions = s.regions := rfl
@[simp] theorem modOut_combine (f : Outputs → Outputs) : (modOut f s).combine = s.combine := rfl
@[simp] theorem modOut_jobs (f : Outputs → Outputs) : (modOut f s).jobs = s.jobs := rfl
@[simp] theorem modOut_nextJob (f : Outputs → Outputs) : (modOut f s).nextJob = s.nextJob := rfl
@[simp] theorem modOut_plans (f : Outputs → Outputs) : (modOut f s).plans = s.plans := rfl
@[simp] theorem modOut_nextPlan (f : Outputs → Outputs) : (modOut f s).nextPlan = s.nextPlan := rfl
@[simp] theorem modOut_rings (f : Outputs → Outputs) : (modOut f s).rings = s.rings := rfl
@[simp] theorem modOut_fnInc (f : Outputs → Outputs) : (modOut f s).fnInc = s.fnInc := rfl
@[simp] theorem modOut_parts (f : Outputs → Outputs) : (modOut f s).parts = s.parts := rfl
@[simp] theorem modOut_objects (f : Outputs → Outputs) : (modOut f s).objects = s.objects := rfl
@[simp] theorem modOut_hostWords (f : Outputs → Outputs) : (modOut f s).hostWords = s.hostWords := rfl
@[simp] theorem modOut_barriers (f : Outputs → Outputs) : (modOut f s).barriers = s.barriers := rfl
@[simp] theorem modOut_remoteOps (f : Outputs → Outputs) : (modOut f s).remoteOps = s.remoteOps := rfl
@[simp] theorem modOut_probes (f : Outputs → Outputs) : (modOut f s).probes = s.probes := rfl
@[simp] theorem modOut_channels (f : Outputs → Outputs) : (modOut f s).channels = s.channels := rfl
@[simp] theorem modOut_engines (f : Outputs → Outputs) : (modOut f s).engines = s.engines := rfl
@[simp] theorem modOut_proxies (f : Outputs → Outputs) : (modOut f s).proxies = s.proxies := rfl
@[simp] theorem modOut_creditOps (f : Outputs → Outputs) : (modOut f s).creditOps = s.creditOps := rfl
@[simp] theorem modOut_serving (f : Outputs → Outputs) : (modOut f s).serving = s.serving := rfl
@[simp] theorem modOut_lantern (f : Outputs → Outputs) : (modOut f s).lantern = s.lantern := rfl
@[simp] theorem modOut_out (f : Outputs → Outputs) : (modOut f s).out = f s.out := rfl

/-! send -/

@[simp] theorem send_pending (p : Pkt) : (send p s).pending = s.pending := rfl
@[simp] theorem send_free (p : Pkt) : (send p s).free = s.free := rfl
@[simp] theorem send_reports (p : Pkt) : (send p s).reports = s.reports := rfl
@[simp] theorem send_time (p : Pkt) : (send p s).time = s.time := rfl
@[simp] theorem send_pkg (p : Pkt) : (send p s).pkg = s.pkg := rfl
@[simp] theorem send_fuse (p : Pkt) : (send p s).fuse = s.fuse := rfl
@[simp] theorem send_flash (p : Pkt) : (send p s).flash = s.flash := rfl
@[simp] theorem send_supplies (p : Pkt) : (send p s).supplies = s.supplies := rfl
@[simp] theorem send_power (p : Pkt) : (send p s).power = s.power := rfl
@[simp] theorem send_thermal (p : Pkt) : (send p s).thermal = s.thermal := rfl
@[simp] theorem send_repair (p : Pkt) : (send p s).repair = s.repair := rfl
@[simp] theorem send_units (p : Pkt) : (send p s).units = s.units := rfl
@[simp] theorem send_keepers (p : Pkt) : (send p s).keepers = s.keepers := rfl
@[simp] theorem send_log (p : Pkt) : (send p s).log = s.log := rfl
@[simp] theorem send_cores (p : Pkt) : (send p s).cores = s.cores := rfl
@[simp] theorem send_regions (p : Pkt) : (send p s).regions = s.regions := rfl
@[simp] theorem send_combine (p : Pkt) : (send p s).combine = s.combine := rfl
@[simp] theorem send_jobs (p : Pkt) : (send p s).jobs = s.jobs := rfl
@[simp] theorem send_nextJob (p : Pkt) : (send p s).nextJob = s.nextJob := rfl
@[simp] theorem send_plans (p : Pkt) : (send p s).plans = s.plans := rfl
@[simp] theorem send_nextPlan (p : Pkt) : (send p s).nextPlan = s.nextPlan := rfl
@[simp] theorem send_rings (p : Pkt) : (send p s).rings = s.rings := rfl
@[simp] theorem send_fnInc (p : Pkt) : (send p s).fnInc = s.fnInc := rfl
@[simp] theorem send_parts (p : Pkt) : (send p s).parts = s.parts := rfl
@[simp] theorem send_objects (p : Pkt) : (send p s).objects = s.objects := rfl
@[simp] theorem send_hostWords (p : Pkt) : (send p s).hostWords = s.hostWords := rfl
@[simp] theorem send_barriers (p : Pkt) : (send p s).barriers = s.barriers := rfl
@[simp] theorem send_remoteOps (p : Pkt) : (send p s).remoteOps = s.remoteOps := rfl
@[simp] theorem send_probes (p : Pkt) : (send p s).probes = s.probes := rfl
@[simp] theorem send_channels (p : Pkt) : (send p s).channels = s.channels := rfl
@[simp] theorem send_engines (p : Pkt) : (send p s).engines = s.engines := rfl
@[simp] theorem send_proxies (p : Pkt) : (send p s).proxies = s.proxies := rfl
@[simp] theorem send_creditOps (p : Pkt) : (send p s).creditOps = s.creditOps := rfl
@[simp] theorem send_serving (p : Pkt) : (send p s).serving = s.serving := rfl
@[simp] theorem send_lantern (p : Pkt) : (send p s).lantern = s.lantern := rfl
@[simp] theorem send_out (p : Pkt) : (send p s).out = { s.out with
    packets := s.out.packets ++ [p], arbs := passArbs (ownModule s) s.units.logical s.lantern.routes p s.out.arbs } := rfl

/-! modJob -/

@[simp] theorem modJob_pending (n j : Nat) (f : Job → Job) : (modJob n j f s).pending = s.pending := rfl
@[simp] theorem modJob_free (n j : Nat) (f : Job → Job) : (modJob n j f s).free = s.free := rfl
@[simp] theorem modJob_reports (n j : Nat) (f : Job → Job) : (modJob n j f s).reports = s.reports := rfl
@[simp] theorem modJob_time (n j : Nat) (f : Job → Job) : (modJob n j f s).time = s.time := rfl
@[simp] theorem modJob_pkg (n j : Nat) (f : Job → Job) : (modJob n j f s).pkg = s.pkg := rfl
@[simp] theorem modJob_fuse (n j : Nat) (f : Job → Job) : (modJob n j f s).fuse = s.fuse := rfl
@[simp] theorem modJob_flash (n j : Nat) (f : Job → Job) : (modJob n j f s).flash = s.flash := rfl
@[simp] theorem modJob_supplies (n j : Nat) (f : Job → Job) : (modJob n j f s).supplies = s.supplies := rfl
@[simp] theorem modJob_power (n j : Nat) (f : Job → Job) : (modJob n j f s).power = s.power := rfl
@[simp] theorem modJob_thermal (n j : Nat) (f : Job → Job) : (modJob n j f s).thermal = s.thermal := rfl
@[simp] theorem modJob_repair (n j : Nat) (f : Job → Job) : (modJob n j f s).repair = s.repair := rfl
@[simp] theorem modJob_units (n j : Nat) (f : Job → Job) : (modJob n j f s).units = s.units := rfl
@[simp] theorem modJob_keepers (n j : Nat) (f : Job → Job) : (modJob n j f s).keepers = s.keepers := rfl
@[simp] theorem modJob_log (n j : Nat) (f : Job → Job) : (modJob n j f s).log = s.log := rfl
@[simp] theorem modJob_mem (n j : Nat) (f : Job → Job) : (modJob n j f s).mem = s.mem := rfl
@[simp] theorem modJob_cores (n j : Nat) (f : Job → Job) : (modJob n j f s).cores = s.cores := rfl
@[simp] theorem modJob_regions (n j : Nat) (f : Job → Job) : (modJob n j f s).regions = s.regions := rfl
@[simp] theorem modJob_combine (n j : Nat) (f : Job → Job) : (modJob n j f s).combine = s.combine := rfl
@[simp] theorem modJob_jobs (n j : Nat) (f : Job → Job) : (modJob n j f s).jobs = s.jobs := rfl
@[simp] theorem modJob_nextJob (n j : Nat) (f : Job → Job) : (modJob n j f s).nextJob = s.nextJob := rfl
@[simp] theorem modJob_plans (n j : Nat) (f : Job → Job) : (modJob n j f s).plans = s.plans := rfl
@[simp] theorem modJob_nextPlan (n j : Nat) (f : Job → Job) : (modJob n j f s).nextPlan = s.nextPlan := rfl
@[simp] theorem modJob_rings (n j : Nat) (f : Job → Job) : (modJob n j f s).rings = s.rings := rfl
@[simp] theorem modJob_fnInc (n j : Nat) (f : Job → Job) : (modJob n j f s).fnInc = s.fnInc := rfl
@[simp] theorem modJob_parts (n j : Nat) (f : Job → Job) : (modJob n j f s).parts = tmod n {} (fun p => { p with jobs := tmod j {} f p.jobs }) s.parts := rfl
@[simp] theorem modJob_objects (n j : Nat) (f : Job → Job) : (modJob n j f s).objects = s.objects := rfl
@[simp] theorem modJob_hostWords (n j : Nat) (f : Job → Job) : (modJob n j f s).hostWords = s.hostWords := rfl
@[simp] theorem modJob_barriers (n j : Nat) (f : Job → Job) : (modJob n j f s).barriers = s.barriers := rfl
@[simp] theorem modJob_remoteOps (n j : Nat) (f : Job → Job) : (modJob n j f s).remoteOps = s.remoteOps := rfl
@[simp] theorem modJob_probes (n j : Nat) (f : Job → Job) : (modJob n j f s).probes = s.probes := rfl
@[simp] theorem modJob_channels (n j : Nat) (f : Job → Job) : (modJob n j f s).channels = s.channels := rfl
@[simp] theorem modJob_engines (n j : Nat) (f : Job → Job) : (modJob n j f s).engines = s.engines := rfl
@[simp] theorem modJob_proxies (n j : Nat) (f : Job → Job) : (modJob n j f s).proxies = s.proxies := rfl
@[simp] theorem modJob_creditOps (n j : Nat) (f : Job → Job) : (modJob n j f s).creditOps = s.creditOps := rfl
@[simp] theorem modJob_serving (n j : Nat) (f : Job → Job) : (modJob n j f s).serving = s.serving := rfl
@[simp] theorem modJob_lantern (n j : Nat) (f : Job → Job) : (modJob n j f s).lantern = s.lantern := rfl
@[simp] theorem modJob_out (n j : Nat) (f : Job → Job) : (modJob n j f s).out = s.out := rfl

/-! setErr -/

@[simp] theorem setErr_pending (bit : Nat) : (setErr bit s).pending = s.pending := rfl
@[simp] theorem setErr_free (bit : Nat) : (setErr bit s).free = s.free := rfl
@[simp] theorem setErr_reports (bit : Nat) : (setErr bit s).reports = s.reports := rfl
@[simp] theorem setErr_time (bit : Nat) : (setErr bit s).time = s.time := rfl
@[simp] theorem setErr_pkg (bit : Nat) : (setErr bit s).pkg = { s.pkg with errStatus := s.pkg.errStatus ||| BitVec.ofNat 7 (2 ^ bit) } := rfl
@[simp] theorem setErr_fuse (bit : Nat) : (setErr bit s).fuse = s.fuse := rfl
@[simp] theorem setErr_flash (bit : Nat) : (setErr bit s).flash = s.flash := rfl
@[simp] theorem setErr_supplies (bit : Nat) : (setErr bit s).supplies = s.supplies := rfl
@[simp] theorem setErr_power (bit : Nat) : (setErr bit s).power = s.power := rfl
@[simp] theorem setErr_thermal (bit : Nat) : (setErr bit s).thermal = s.thermal := rfl
@[simp] theorem setErr_repair (bit : Nat) : (setErr bit s).repair = s.repair := rfl
@[simp] theorem setErr_units (bit : Nat) : (setErr bit s).units = s.units := rfl
@[simp] theorem setErr_keepers (bit : Nat) : (setErr bit s).keepers = s.keepers := rfl
@[simp] theorem setErr_log (bit : Nat) : (setErr bit s).log = s.log := rfl
@[simp] theorem setErr_mem (bit : Nat) : (setErr bit s).mem = s.mem := rfl
@[simp] theorem setErr_cores (bit : Nat) : (setErr bit s).cores = s.cores := rfl
@[simp] theorem setErr_regions (bit : Nat) : (setErr bit s).regions = s.regions := rfl
@[simp] theorem setErr_combine (bit : Nat) : (setErr bit s).combine = s.combine := rfl
@[simp] theorem setErr_jobs (bit : Nat) : (setErr bit s).jobs = s.jobs := rfl
@[simp] theorem setErr_nextJob (bit : Nat) : (setErr bit s).nextJob = s.nextJob := rfl
@[simp] theorem setErr_plans (bit : Nat) : (setErr bit s).plans = s.plans := rfl
@[simp] theorem setErr_nextPlan (bit : Nat) : (setErr bit s).nextPlan = s.nextPlan := rfl
@[simp] theorem setErr_rings (bit : Nat) : (setErr bit s).rings = s.rings := rfl
@[simp] theorem setErr_fnInc (bit : Nat) : (setErr bit s).fnInc = s.fnInc := rfl
@[simp] theorem setErr_parts (bit : Nat) : (setErr bit s).parts = s.parts := rfl
@[simp] theorem setErr_objects (bit : Nat) : (setErr bit s).objects = s.objects := rfl
@[simp] theorem setErr_hostWords (bit : Nat) : (setErr bit s).hostWords = s.hostWords := rfl
@[simp] theorem setErr_barriers (bit : Nat) : (setErr bit s).barriers = s.barriers := rfl
@[simp] theorem setErr_remoteOps (bit : Nat) : (setErr bit s).remoteOps = s.remoteOps := rfl
@[simp] theorem setErr_probes (bit : Nat) : (setErr bit s).probes = s.probes := rfl
@[simp] theorem setErr_channels (bit : Nat) : (setErr bit s).channels = s.channels := rfl
@[simp] theorem setErr_engines (bit : Nat) : (setErr bit s).engines = s.engines := rfl
@[simp] theorem setErr_proxies (bit : Nat) : (setErr bit s).proxies = s.proxies := rfl
@[simp] theorem setErr_creditOps (bit : Nat) : (setErr bit s).creditOps = s.creditOps := rfl
@[simp] theorem setErr_serving (bit : Nat) : (setErr bit s).serving = s.serving := rfl
@[simp] theorem setErr_lantern (bit : Nat) : (setErr bit s).lantern = s.lantern := rfl
@[simp] theorem setErr_out (bit : Nat) : (setErr bit s).out = s.out := rfl

/-! finish -/

@[simp] theorem finish_pending (c : Cmd) (a : Answer) : (finish c a s).pending = s.pending := rfl
@[simp] theorem finish_free (c : Cmd) (a : Answer) : (finish c a s).free = s.free := rfl
@[simp] theorem finish_reports (c : Cmd) (a : Answer) : (finish c a s).reports = s.reports := rfl
@[simp] theorem finish_time (c : Cmd) (a : Answer) : (finish c a s).time = s.time := rfl
@[simp] theorem finish_pkg (c : Cmd) (a : Answer) : (finish c a s).pkg = s.pkg := rfl
@[simp] theorem finish_fuse (c : Cmd) (a : Answer) : (finish c a s).fuse = s.fuse := rfl
@[simp] theorem finish_flash (c : Cmd) (a : Answer) : (finish c a s).flash = s.flash := rfl
@[simp] theorem finish_supplies (c : Cmd) (a : Answer) : (finish c a s).supplies = s.supplies := rfl
@[simp] theorem finish_power (c : Cmd) (a : Answer) : (finish c a s).power = s.power := rfl
@[simp] theorem finish_thermal (c : Cmd) (a : Answer) : (finish c a s).thermal = s.thermal := rfl
@[simp] theorem finish_repair (c : Cmd) (a : Answer) : (finish c a s).repair = s.repair := rfl
@[simp] theorem finish_units (c : Cmd) (a : Answer) : (finish c a s).units = s.units := rfl
@[simp] theorem finish_keepers (c : Cmd) (a : Answer) : (finish c a s).keepers = s.keepers := rfl
@[simp] theorem finish_log (c : Cmd) (a : Answer) : (finish c a s).log = s.log := rfl
@[simp] theorem finish_mem (c : Cmd) (a : Answer) : (finish c a s).mem = s.mem := rfl
@[simp] theorem finish_cores (c : Cmd) (a : Answer) : (finish c a s).cores = s.cores := rfl
@[simp] theorem finish_regions (c : Cmd) (a : Answer) : (finish c a s).regions = s.regions := rfl
@[simp] theorem finish_combine (c : Cmd) (a : Answer) : (finish c a s).combine = s.combine := rfl
@[simp] theorem finish_jobs (c : Cmd) (a : Answer) : (finish c a s).jobs = s.jobs := rfl
@[simp] theorem finish_nextJob (c : Cmd) (a : Answer) : (finish c a s).nextJob = s.nextJob := rfl
@[simp] theorem finish_plans (c : Cmd) (a : Answer) : (finish c a s).plans = s.plans := rfl
@[simp] theorem finish_nextPlan (c : Cmd) (a : Answer) : (finish c a s).nextPlan = s.nextPlan := rfl
@[simp] theorem finish_fnInc (c : Cmd) (a : Answer) : (finish c a s).fnInc = s.fnInc := rfl
@[simp] theorem finish_parts (c : Cmd) (a : Answer) : (finish c a s).parts = s.parts := rfl
@[simp] theorem finish_objects (c : Cmd) (a : Answer) : (finish c a s).objects = s.objects := rfl
@[simp] theorem finish_hostWords (c : Cmd) (a : Answer) : (finish c a s).hostWords = s.hostWords := rfl
@[simp] theorem finish_barriers (c : Cmd) (a : Answer) : (finish c a s).barriers = s.barriers := rfl
@[simp] theorem finish_remoteOps (c : Cmd) (a : Answer) : (finish c a s).remoteOps = s.remoteOps := rfl
@[simp] theorem finish_probes (c : Cmd) (a : Answer) : (finish c a s).probes = s.probes := rfl
@[simp] theorem finish_channels (c : Cmd) (a : Answer) : (finish c a s).channels = s.channels := rfl
@[simp] theorem finish_engines (c : Cmd) (a : Answer) : (finish c a s).engines = s.engines := rfl
@[simp] theorem finish_proxies (c : Cmd) (a : Answer) : (finish c a s).proxies = s.proxies := rfl
@[simp] theorem finish_creditOps (c : Cmd) (a : Answer) : (finish c a s).creditOps = s.creditOps := rfl
@[simp] theorem finish_serving (c : Cmd) (a : Answer) : (finish c a s).serving = s.serving := rfl
@[simp] theorem finish_lantern (c : Cmd) (a : Answer) : (finish c a s).lantern = s.lantern := rfl
@[simp] theorem finish_out (c : Cmd) (a : Answer) : (finish c a s).out = s.out := rfl

/-! logEvent -/

@[simp] theorem logEvent_pending (ev sev : Nat) (e : LogEntry → LogEntry) : (logEvent ev sev e s).pending = s.pending := rfl
@[simp] theorem logEvent_free (ev sev : Nat) (e : LogEntry → LogEntry) : (logEvent ev sev e s).free = s.free := rfl
@[simp] theorem logEvent_reports (ev sev : Nat) (e : LogEntry → LogEntry) : (logEvent ev sev e s).reports = s.reports := rfl
@[simp] theorem logEvent_time (ev sev : Nat) (e : LogEntry → LogEntry) : (logEvent ev sev e s).time = s.time := rfl
@[simp] theorem logEvent_fuse (ev sev : Nat) (e : LogEntry → LogEntry) : (logEvent ev sev e s).fuse = s.fuse := rfl
@[simp] theorem logEvent_flash (ev sev : Nat) (e : LogEntry → LogEntry) : (logEvent ev sev e s).flash = s.flash := rfl
@[simp] theorem logEvent_supplies (ev sev : Nat) (e : LogEntry → LogEntry) : (logEvent ev sev e s).supplies = s.supplies := rfl
@[simp] theorem logEvent_power (ev sev : Nat) (e : LogEntry → LogEntry) : (logEvent ev sev e s).power = s.power := rfl
@[simp] theorem logEvent_thermal (ev sev : Nat) (e : LogEntry → LogEntry) : (logEvent ev sev e s).thermal = s.thermal := rfl
@[simp] theorem logEvent_repair (ev sev : Nat) (e : LogEntry → LogEntry) : (logEvent ev sev e s).repair = s.repair := rfl
@[simp] theorem logEvent_units (ev sev : Nat) (e : LogEntry → LogEntry) : (logEvent ev sev e s).units = s.units := rfl
@[simp] theorem logEvent_keepers (ev sev : Nat) (e : LogEntry → LogEntry) : (logEvent ev sev e s).keepers = s.keepers := rfl
@[simp] theorem logEvent_mem (ev sev : Nat) (e : LogEntry → LogEntry) : (logEvent ev sev e s).mem = s.mem := rfl
@[simp] theorem logEvent_cores (ev sev : Nat) (e : LogEntry → LogEntry) : (logEvent ev sev e s).cores = s.cores := rfl
@[simp] theorem logEvent_regions (ev sev : Nat) (e : LogEntry → LogEntry) : (logEvent ev sev e s).regions = s.regions := rfl
@[simp] theorem logEvent_combine (ev sev : Nat) (e : LogEntry → LogEntry) : (logEvent ev sev e s).combine = s.combine := rfl
@[simp] theorem logEvent_jobs (ev sev : Nat) (e : LogEntry → LogEntry) : (logEvent ev sev e s).jobs = s.jobs := rfl
@[simp] theorem logEvent_nextJob (ev sev : Nat) (e : LogEntry → LogEntry) : (logEvent ev sev e s).nextJob = s.nextJob := rfl
@[simp] theorem logEvent_plans (ev sev : Nat) (e : LogEntry → LogEntry) : (logEvent ev sev e s).plans = s.plans := rfl
@[simp] theorem logEvent_nextPlan (ev sev : Nat) (e : LogEntry → LogEntry) : (logEvent ev sev e s).nextPlan = s.nextPlan := rfl
@[simp] theorem logEvent_rings (ev sev : Nat) (e : LogEntry → LogEntry) : (logEvent ev sev e s).rings = s.rings := rfl
@[simp] theorem logEvent_fnInc (ev sev : Nat) (e : LogEntry → LogEntry) : (logEvent ev sev e s).fnInc = s.fnInc := rfl
@[simp] theorem logEvent_parts (ev sev : Nat) (e : LogEntry → LogEntry) : (logEvent ev sev e s).parts = s.parts := rfl
@[simp] theorem logEvent_objects (ev sev : Nat) (e : LogEntry → LogEntry) : (logEvent ev sev e s).objects = s.objects := rfl
@[simp] theorem logEvent_hostWords (ev sev : Nat) (e : LogEntry → LogEntry) : (logEvent ev sev e s).hostWords = s.hostWords := rfl
@[simp] theorem logEvent_barriers (ev sev : Nat) (e : LogEntry → LogEntry) : (logEvent ev sev e s).barriers = s.barriers := rfl
@[simp] theorem logEvent_remoteOps (ev sev : Nat) (e : LogEntry → LogEntry) : (logEvent ev sev e s).remoteOps = s.remoteOps := rfl
@[simp] theorem logEvent_probes (ev sev : Nat) (e : LogEntry → LogEntry) : (logEvent ev sev e s).probes = s.probes := rfl
@[simp] theorem logEvent_channels (ev sev : Nat) (e : LogEntry → LogEntry) : (logEvent ev sev e s).channels = s.channels := rfl
@[simp] theorem logEvent_engines (ev sev : Nat) (e : LogEntry → LogEntry) : (logEvent ev sev e s).engines = s.engines := rfl
@[simp] theorem logEvent_proxies (ev sev : Nat) (e : LogEntry → LogEntry) : (logEvent ev sev e s).proxies = s.proxies := rfl
@[simp] theorem logEvent_creditOps (ev sev : Nat) (e : LogEntry → LogEntry) : (logEvent ev sev e s).creditOps = s.creditOps := rfl
@[simp] theorem logEvent_serving (ev sev : Nat) (e : LogEntry → LogEntry) : (logEvent ev sev e s).serving = s.serving := rfl
@[simp] theorem logEvent_lantern (ev sev : Nat) (e : LogEntry → LogEntry) : (logEvent ev sev e s).lantern = s.lantern := rfl
@[simp] theorem logEvent_out (ev sev : Nat) (e : LogEntry → LogEntry) : (logEvent ev sev e s).out = s.out := rfl

/-! note -/

@[simp] theorem note_pending (ev : Nat) (f : LogEntry → LogEntry) : (note ev f s).pending = s.pending := rfl
@[simp] theorem note_free (ev : Nat) (f : LogEntry → LogEntry) : (note ev f s).free = s.free := rfl
@[simp] theorem note_reports (ev : Nat) (f : LogEntry → LogEntry) : (note ev f s).reports = s.reports := rfl
@[simp] theorem note_time (ev : Nat) (f : LogEntry → LogEntry) : (note ev f s).time = s.time := rfl
@[simp] theorem note_fuse (ev : Nat) (f : LogEntry → LogEntry) : (note ev f s).fuse = s.fuse := rfl
@[simp] theorem note_flash (ev : Nat) (f : LogEntry → LogEntry) : (note ev f s).flash = s.flash := rfl
@[simp] theorem note_supplies (ev : Nat) (f : LogEntry → LogEntry) : (note ev f s).supplies = s.supplies := rfl
@[simp] theorem note_power (ev : Nat) (f : LogEntry → LogEntry) : (note ev f s).power = s.power := rfl
@[simp] theorem note_thermal (ev : Nat) (f : LogEntry → LogEntry) : (note ev f s).thermal = s.thermal := rfl
@[simp] theorem note_repair (ev : Nat) (f : LogEntry → LogEntry) : (note ev f s).repair = s.repair := rfl
@[simp] theorem note_units (ev : Nat) (f : LogEntry → LogEntry) : (note ev f s).units = s.units := rfl
@[simp] theorem note_keepers (ev : Nat) (f : LogEntry → LogEntry) : (note ev f s).keepers = s.keepers := rfl
@[simp] theorem note_mem (ev : Nat) (f : LogEntry → LogEntry) : (note ev f s).mem = s.mem := rfl
@[simp] theorem note_cores (ev : Nat) (f : LogEntry → LogEntry) : (note ev f s).cores = s.cores := rfl
@[simp] theorem note_regions (ev : Nat) (f : LogEntry → LogEntry) : (note ev f s).regions = s.regions := rfl
@[simp] theorem note_combine (ev : Nat) (f : LogEntry → LogEntry) : (note ev f s).combine = s.combine := rfl
@[simp] theorem note_jobs (ev : Nat) (f : LogEntry → LogEntry) : (note ev f s).jobs = s.jobs := rfl
@[simp] theorem note_nextJob (ev : Nat) (f : LogEntry → LogEntry) : (note ev f s).nextJob = s.nextJob := rfl
@[simp] theorem note_plans (ev : Nat) (f : LogEntry → LogEntry) : (note ev f s).plans = s.plans := rfl
@[simp] theorem note_nextPlan (ev : Nat) (f : LogEntry → LogEntry) : (note ev f s).nextPlan = s.nextPlan := rfl
@[simp] theorem note_rings (ev : Nat) (f : LogEntry → LogEntry) : (note ev f s).rings = s.rings := rfl
@[simp] theorem note_fnInc (ev : Nat) (f : LogEntry → LogEntry) : (note ev f s).fnInc = s.fnInc := rfl
@[simp] theorem note_parts (ev : Nat) (f : LogEntry → LogEntry) : (note ev f s).parts = s.parts := rfl
@[simp] theorem note_objects (ev : Nat) (f : LogEntry → LogEntry) : (note ev f s).objects = s.objects := rfl
@[simp] theorem note_hostWords (ev : Nat) (f : LogEntry → LogEntry) : (note ev f s).hostWords = s.hostWords := rfl
@[simp] theorem note_barriers (ev : Nat) (f : LogEntry → LogEntry) : (note ev f s).barriers = s.barriers := rfl
@[simp] theorem note_remoteOps (ev : Nat) (f : LogEntry → LogEntry) : (note ev f s).remoteOps = s.remoteOps := rfl
@[simp] theorem note_probes (ev : Nat) (f : LogEntry → LogEntry) : (note ev f s).probes = s.probes := rfl
@[simp] theorem note_channels (ev : Nat) (f : LogEntry → LogEntry) : (note ev f s).channels = s.channels := rfl
@[simp] theorem note_engines (ev : Nat) (f : LogEntry → LogEntry) : (note ev f s).engines = s.engines := rfl
@[simp] theorem note_proxies (ev : Nat) (f : LogEntry → LogEntry) : (note ev f s).proxies = s.proxies := rfl
@[simp] theorem note_creditOps (ev : Nat) (f : LogEntry → LogEntry) : (note ev f s).creditOps = s.creditOps := rfl
@[simp] theorem note_serving (ev : Nat) (f : LogEntry → LogEntry) : (note ev f s).serving = s.serving := rfl
@[simp] theorem note_lantern (ev : Nat) (f : LogEntry → LogEntry) : (note ev f s).lantern = s.lantern := rfl
@[simp] theorem note_out (ev : Nat) (f : LogEntry → LogEntry) : (note ev f s).out = s.out := rfl

/-! tick -/

@[simp] theorem tick_pending : (tick s).pending = s.pending := rfl
@[simp] theorem tick_free : (tick s).free = s.free := rfl
@[simp] theorem tick_reports : (tick s).reports = s.reports := rfl
@[simp] theorem tick_time : (tick s).time = { s.time with now := s.time.now + 1 } := rfl
@[simp] theorem tick_pkg : (tick s).pkg = s.pkg := rfl
@[simp] theorem tick_fuse : (tick s).fuse = s.fuse := rfl
@[simp] theorem tick_flash : (tick s).flash = s.flash := rfl
@[simp] theorem tick_supplies : (tick s).supplies = s.supplies := rfl
@[simp] theorem tick_power : (tick s).power = s.power := rfl
@[simp] theorem tick_thermal : (tick s).thermal = s.thermal := rfl
@[simp] theorem tick_repair : (tick s).repair = s.repair := rfl
@[simp] theorem tick_units : (tick s).units = s.units := rfl
@[simp] theorem tick_keepers : (tick s).keepers = s.keepers := rfl
@[simp] theorem tick_log : (tick s).log = s.log := rfl
@[simp] theorem tick_mem : (tick s).mem = s.mem := rfl
@[simp] theorem tick_cores : (tick s).cores = s.cores := rfl
@[simp] theorem tick_regions : (tick s).regions = s.regions := rfl
@[simp] theorem tick_combine : (tick s).combine = s.combine := rfl
@[simp] theorem tick_jobs : (tick s).jobs = s.jobs := rfl
@[simp] theorem tick_nextJob : (tick s).nextJob = s.nextJob := rfl
@[simp] theorem tick_plans : (tick s).plans = s.plans := rfl
@[simp] theorem tick_nextPlan : (tick s).nextPlan = s.nextPlan := rfl
@[simp] theorem tick_rings : (tick s).rings = s.rings := rfl
@[simp] theorem tick_fnInc : (tick s).fnInc = s.fnInc := rfl
@[simp] theorem tick_parts : (tick s).parts = s.parts := rfl
@[simp] theorem tick_objects : (tick s).objects = s.objects := rfl
@[simp] theorem tick_hostWords : (tick s).hostWords = s.hostWords := rfl
@[simp] theorem tick_barriers : (tick s).barriers = s.barriers := rfl
@[simp] theorem tick_remoteOps : (tick s).remoteOps = s.remoteOps := rfl
@[simp] theorem tick_probes : (tick s).probes = s.probes := rfl
@[simp] theorem tick_channels : (tick s).channels = s.channels := rfl
@[simp] theorem tick_engines : (tick s).engines = s.engines := rfl
@[simp] theorem tick_proxies : (tick s).proxies = s.proxies := rfl
@[simp] theorem tick_creditOps : (tick s).creditOps = s.creditOps := rfl
@[simp] theorem tick_serving : (tick s).serving = s.serving := rfl
@[simp] theorem tick_lantern : (tick s).lantern = s.lantern := rfl
@[simp] theorem tick_out : (tick s).out = s.out := rfl

/-! writeSpace -/

@[simp] theorem writeSpace_pending (sp : Space) (key : Nat) (bs : List Byte) : (writeSpace sp key bs s).pending = s.pending := rfl
@[simp] theorem writeSpace_free (sp : Space) (key : Nat) (bs : List Byte) : (writeSpace sp key bs s).free = s.free := rfl
@[simp] theorem writeSpace_reports (sp : Space) (key : Nat) (bs : List Byte) : (writeSpace sp key bs s).reports = s.reports := rfl
@[simp] theorem writeSpace_time (sp : Space) (key : Nat) (bs : List Byte) : (writeSpace sp key bs s).time = s.time := rfl
@[simp] theorem writeSpace_pkg (sp : Space) (key : Nat) (bs : List Byte) : (writeSpace sp key bs s).pkg = s.pkg := rfl
@[simp] theorem writeSpace_fuse (sp : Space) (key : Nat) (bs : List Byte) : (writeSpace sp key bs s).fuse = s.fuse := rfl
@[simp] theorem writeSpace_flash (sp : Space) (key : Nat) (bs : List Byte) : (writeSpace sp key bs s).flash = s.flash := rfl
@[simp] theorem writeSpace_supplies (sp : Space) (key : Nat) (bs : List Byte) : (writeSpace sp key bs s).supplies = s.supplies := rfl
@[simp] theorem writeSpace_power (sp : Space) (key : Nat) (bs : List Byte) : (writeSpace sp key bs s).power = s.power := rfl
@[simp] theorem writeSpace_thermal (sp : Space) (key : Nat) (bs : List Byte) : (writeSpace sp key bs s).thermal = s.thermal := rfl
@[simp] theorem writeSpace_repair (sp : Space) (key : Nat) (bs : List Byte) : (writeSpace sp key bs s).repair = s.repair := rfl
@[simp] theorem writeSpace_units (sp : Space) (key : Nat) (bs : List Byte) : (writeSpace sp key bs s).units = s.units := rfl
@[simp] theorem writeSpace_keepers (sp : Space) (key : Nat) (bs : List Byte) : (writeSpace sp key bs s).keepers = s.keepers := rfl
@[simp] theorem writeSpace_log (sp : Space) (key : Nat) (bs : List Byte) : (writeSpace sp key bs s).log = s.log := rfl
@[simp] theorem writeSpace_cores (sp : Space) (key : Nat) (bs : List Byte) : (writeSpace sp key bs s).cores = s.cores := rfl
@[simp] theorem writeSpace_regions (sp : Space) (key : Nat) (bs : List Byte) : (writeSpace sp key bs s).regions = s.regions := rfl
@[simp] theorem writeSpace_combine (sp : Space) (key : Nat) (bs : List Byte) : (writeSpace sp key bs s).combine = s.combine := rfl
@[simp] theorem writeSpace_jobs (sp : Space) (key : Nat) (bs : List Byte) : (writeSpace sp key bs s).jobs = s.jobs := rfl
@[simp] theorem writeSpace_nextJob (sp : Space) (key : Nat) (bs : List Byte) : (writeSpace sp key bs s).nextJob = s.nextJob := rfl
@[simp] theorem writeSpace_plans (sp : Space) (key : Nat) (bs : List Byte) : (writeSpace sp key bs s).plans = s.plans := rfl
@[simp] theorem writeSpace_nextPlan (sp : Space) (key : Nat) (bs : List Byte) : (writeSpace sp key bs s).nextPlan = s.nextPlan := rfl
@[simp] theorem writeSpace_rings (sp : Space) (key : Nat) (bs : List Byte) : (writeSpace sp key bs s).rings = s.rings := rfl
@[simp] theorem writeSpace_fnInc (sp : Space) (key : Nat) (bs : List Byte) : (writeSpace sp key bs s).fnInc = s.fnInc := rfl
@[simp] theorem writeSpace_parts (sp : Space) (key : Nat) (bs : List Byte) : (writeSpace sp key bs s).parts = s.parts := rfl
@[simp] theorem writeSpace_objects (sp : Space) (key : Nat) (bs : List Byte) : (writeSpace sp key bs s).objects = s.objects := rfl
@[simp] theorem writeSpace_hostWords (sp : Space) (key : Nat) (bs : List Byte) : (writeSpace sp key bs s).hostWords = s.hostWords := rfl
@[simp] theorem writeSpace_barriers (sp : Space) (key : Nat) (bs : List Byte) : (writeSpace sp key bs s).barriers = s.barriers := rfl
@[simp] theorem writeSpace_remoteOps (sp : Space) (key : Nat) (bs : List Byte) : (writeSpace sp key bs s).remoteOps = s.remoteOps := rfl
@[simp] theorem writeSpace_probes (sp : Space) (key : Nat) (bs : List Byte) : (writeSpace sp key bs s).probes = s.probes := rfl
@[simp] theorem writeSpace_channels (sp : Space) (key : Nat) (bs : List Byte) : (writeSpace sp key bs s).channels = s.channels := rfl
@[simp] theorem writeSpace_engines (sp : Space) (key : Nat) (bs : List Byte) : (writeSpace sp key bs s).engines = s.engines := rfl
@[simp] theorem writeSpace_proxies (sp : Space) (key : Nat) (bs : List Byte) : (writeSpace sp key bs s).proxies = s.proxies := rfl
@[simp] theorem writeSpace_creditOps (sp : Space) (key : Nat) (bs : List Byte) : (writeSpace sp key bs s).creditOps = s.creditOps := rfl
@[simp] theorem writeSpace_serving (sp : Space) (key : Nat) (bs : List Byte) : (writeSpace sp key bs s).serving = s.serving := rfl
@[simp] theorem writeSpace_lantern (sp : Space) (key : Nat) (bs : List Byte) : (writeSpace sp key bs s).lantern = s.lantern := rfl
@[simp] theorem writeSpace_out (sp : Space) (key : Nat) (bs : List Byte) : (writeSpace sp key bs s).out = s.out := rfl

end Sys2Proof.Machine
end

