-- ==== Sys2Proof/Laws/Access.lean ====
section
/-! SUPPORT. What each shared operation of Machine/Ops.lean does, read through the accessors: a group's entry after its update,
every other entry, and what completing a command leaves. -/

namespace Sys2Proof.Machine

variable (s : State)

@[simp] theorem coreOf_modCore (p : Nat) (f : Core → Core) : coreOf (modCore p f s) p = f (coreOf s p) := by simp [coreOf]
theorem coreOf_modCore_ne {p q : Nat} (h : q ≠ p) (f : Core → Core) : coreOf (modCore p f s) q = coreOf s q := by
  simp [coreOf, tgetD_tmod_ne h]

@[simp] theorem regionOf_modRegion (r : Nat) (f : RegionMem → RegionMem) : regionOf (modRegion r f s) r = f (regionOf s r) := by
  simp [regionOf]
theorem regionOf_modRegion_ne {r q : Nat} (h : q ≠ r) (f : RegionMem → RegionMem) :
    regionOf (modRegion r f s) q = regionOf s q := by simp [regionOf, tgetD_tmod_ne h]

@[simp] theorem partOf_modPart (n : Nat) (f : Partition → Partition) : partOf (modPart n f s) n = f (partOf s n) := by simp [partOf]
theorem partOf_modPart_ne {n q : Nat} (h : q ≠ n) (f : Partition → Partition) : partOf (modPart n f s) q = partOf s q := by
  simp [partOf, tgetD_tmod_ne h]

@[simp] theorem ringOf_modRing (fn ring : Nat) (f : Ring → Ring) : ringOf (modRing fn ring f s) fn ring = f (ringOf s fn ring) := by
  simp [ringOf]
theorem ringOf_modRing_ne {a b fn ring : Nat} (h : ringKey a b ≠ ringKey fn ring) (f : Ring → Ring) :
    ringOf (modRing fn ring f s) a b = ringOf s a b := by simp [ringOf, tgetD_tmod_ne h]

@[simp] theorem channelOf_modChannel (r c : Nat) (f : Channel → Channel) :
    channelOf (modChannel r c f s) r c = f (channelOf s r c) := by simp [channelOf]
theorem channelOf_modChannel_ne {a b r c : Nat} (h : channelKey a b ≠ channelKey r c) (f : Channel → Channel) :
    channelOf (modChannel r c f s) a b = channelOf s a b := by simp [channelOf, tgetD_tmod_ne h]

@[simp] theorem portOf_modPort (p : Nat) (f : Port → Port) : portOf (modPort p f s) p = f (portOf s p) := by simp [portOf]
theorem portOf_modPort_ne {p q : Nat} (h : q ≠ p) (f : Port → Port) : portOf (modPort p f s) q = portOf s q := by
  simp [portOf, tgetD_tmod_ne h]

@[simp] theorem engineOf_modEngine (r : Nat) (f : QueueEngine → QueueEngine) :
    engineOf (modEngine r f s) r = f (engineOf s r) := by simp [engineOf]
theorem engineOf_modEngine_ne {r q : Nat} (h : q ≠ r) (f : QueueEngine → QueueEngine) :
    engineOf (modEngine r f s) q = engineOf s q := by simp [engineOf, tgetD_tmod_ne h]

@[simp] theorem jobOf_modJob (n j : Nat) (f : Job → Job) : jobOf (partOf (modJob n j f s) n) j = f (jobOf (partOf s n) j) := by
  simp [modJob, jobOf]

/-- A completed command leaves its ring's started list and its reply is the last one held (R298, R299). -/
theorem ringOf_finish (c : Cmd) (a : Answer) : ringOf (finish c a s) c.fn c.ring =
    { ringOf s c.fn c.ring with
      started := (ringOf s c.fn c.ring).started.erase c
      replies := (ringOf s c.fn c.ring).replies ++ [{ cmd := c, answer := a, time := s.time.now }] } := by
  simp [finish]

theorem ringOf_finish_ne {a b : Nat} {c : Cmd} (h : ringKey a b ≠ ringKey c.fn c.ring) (x : Answer) :
    ringOf (finish c x s) a b = ringOf s a b := by simp [finish, ringOf_modRing_ne s h]

/-- Completing a command changes the rings alone. -/
theorem finish_only (c : Cmd) (a : Answer) : finish c a s = { s with rings := (finish c a s).rings } := rfl

/-- Answering several commands changes the rings alone. -/
theorem finishAll_only (cs : List Cmd) (a : Answer) : finishAll cs a s = { s with rings := (finishAll cs a s).rings } := by
  unfold finishAll
  induction cs generalizing s with
  | nil => rfl
  | cons c t ih => rw [List.foldl_cons, ih]; rfl

@[simp] theorem finishAll_mem (cs : List Cmd) (a : Answer) : (finishAll cs a s).mem = s.mem := by rw [finishAll_only]

@[simp] theorem drawFree_snd : (drawFree s).2 = { s with free := s.free + 1 } := rfl

/-- A meaning on a core that exists answers a next state. -/
theorem onCore_next {p : Nat} (h : p < 864) (f : Core → State) : onCore p s f = .next (f (coreOf s p)) := by simp [onCore, h]
theorem onRegion_next {r : Nat} (h : r < 8) (t : State) : onRegion r t = .next t := by simp [onRegion, h]
theorem onPort_next {p : Nat} (h : p < 6) (t : State) : onPort p t = .next t := by simp [onPort, h]
theorem onRing_next {f r : Nat} (hf : f ≤ 16) (hr : r < 4) (t : State) : onRing f r t = .next t := by simp [onRing, hf, hr]

/-- The keys of rings are one to one. -/
theorem ringKey_ne {a b fn ring : Nat} (hb : b < 4) (hr : ring < 4) (h : (a, b) ≠ (fn, ring)) : ringKey a b ≠ ringKey fn ring := by
  intro e
  apply h
  simp only [ringKey] at e
  have h1 : a = fn := by omega
  have h2 : b = ring := by omega
  rw [h1, h2]

end Sys2Proof.Machine
end

