-- ==== Sys2Proof/Tests/Slice0.lean ====
section
/-! SUPPORT. The model's own tests: ill-formed commands are refused, single commands run on small states, and the statements'
hypotheses are met. -/

namespace Sys2Proof.Tests

set_option Elab.async false

open Sys2Proof.Machine

/-! A small state -/

/-- A command of the physical function for partition 2. -/
def c1 : Cmd := { fn := 16, ring := 0, idx := 1, tag := 7, part := 2, trueColour := false, msix := false, lane := 0, completion := 0xFFFFFFFF }

/-- A command of a virtual function for partition 2. -/
def c2 : Cmd := { c1 with fn := 2, ring := 3, idx := 2 }

/-- Partition 2 on block 0 with 128 MiB. -/
def p2 : Partition :=
  { enabled := true, mask := 1, hbmBase := 0x40000000
    quota := { hbmMib := 128, syncObjects := 16, queues := 4, queueSlots := 64, sequences := 8, clients := 4, kvPoolMib := 16 } }

/-- Eight logical cores in block 0. -/
def cores8 : Tbl Nat := [(0, 0), (1, 1), (2, 2), (3, 3), (4, 4), (5, 5), (6, 6), (7, 7)]

/-- The head of a compute command on template 0 of plan 1. -/
def h0 : ComputeHead := { plan := 1, template := 0, sat := false, sr := false, srCounter := false, axisA := false, axisB := false }

/-- A candidate of one 16 × 16 × 32 tile, and its record. -/
def cand0 : Candidate :=
  { mt := 16, nt := 16, kt := 32, shape := .square, gk := 1, gm := 1, gn := 1, ordPal := (0, 1), ordRc := (0, 1), ordHbm := (0, 1), halo := false
    mcastFirst := 0xFFFF, mcastCount := 0, fixedNs := 100 }
def record0 : List Byte :=
  toLe 2 16 ++ toLe 2 16 ++ toLe 2 32 ++ [1, 1] ++ toLe 2 1 ++ toLe 2 1 ++ [0, 0, 0, 0] ++ toLe 2 0xFFFF ++ toLe 2 0 ++ toLe 4 100 ++ toLe 8 0

/-- An FP16 template with FP32 outputs. -/
def tm0 : Template :=
  { fmtA := 1, fmtB := 1, fmtOut := 0, fmtC := 0, fmtBias := 0, bucketsM := [16], bucketsN := [16], bucketsK := [32], bucketsC := [8]
    padA := 0, padB := 0, shape := .auto, blocksAlongK := true, scaleA := 0, scaleB := 0, scaleD := 0, strideA := 0, strideB := 0, strideC := 0
    weightsB := false, layer := 0, staticKH := none, staticDH := none, isConv := false, records := [[record0]], hints := [], isMatrix := true }

/-- An attention template of the same formats. -/
def tmA : Template := { tm0 with isMatrix := false, isAttn := true }

/-- A plan body with that template and a model of two layers. -/
def body0 : PlanBody :=
  { templates := [tm0, tmA], exactBounds := [65536], listCapacities := [4096], programs := [[1]], buffers := [{ offset := 64, size := 512, fmt := 1, scales := false }], multicast := [], cheapPoints := [{ template := none, tileIndex := 0, ranges := [(0xFFFF, 0, 0, 1)] }]
    tasks := [(5, [0], [])], flagKinds := [], layers := 2, kvBuckets := [64], bptl := 64 }

/-- Plan 1 of partition 2. -/
def plan1 : Plan :=
  { part := 2, addr := 0x47000000, size := 128, coresRequired := 1, rowStable := true, cclkNom := 1200, hbmBwNom := 1000, signature := 0x55, body := body0 }

/-- A running module with partition 2. -/
def w : State :=
  { fuse := { reserves := [8] }, pkg := { state := 3 }, parts := [(2, p2)], units := { logical := cores8, home := cores8.map fun e => (e.1, 0) }
    time := { now := 5000 }, rings := [(11, { started := [c2] }), (64, { started := [c1] })] }

/-- The same with plan 1 loaded. -/
def wp : State := { w with plans := [(1, plan1)], nextPlan := 2 }

theorem witness_BrushLanes : coreOk 0 = true ∧ coreOk 863 = true := by decide

theorem witness_BrushShiftsAndCompares : coreOk 863 = true ∧
    laneOn (coreOf w 863).brush none 255 = true ∧ laneOn (coreOf w 863).brush (some 0) 0 = false ∧
    (vlane { ({} : Brush) with v := [(1, List.replicate 256 31)] } 1 255).toNat < 32 := by decide +kernel

theorem witness_BrushConversions : coreOk 863 = true ∧ isMx 5 = true ∧ isMx 6 = true ∧ 0x17FF00 + 32 * elemBits 6 ≤ paletteBytes ∧ 0x17FEF8 + 8 ≤ paletteBytes ∧
    readsPoison w .palette (863 * 0x200000 + 0x17FF00) (32 * elemBits 6) = false ∧
    readsPoison w .palette (863 * 0x200000 + 0x17FEF8) 8 = false ∧ 0x17FEF8 + 8 ≤ 0x17FF00 := by decide +kernel

theorem witness_BrushConversions_packed (a : Nat) : isOffline w .palette a = false := rfl

theorem witness_BrushLoads : ∀ k, k < 256 →
    laneOn (coreOf w 0).brush (some 0) k = false ∧ (0x17FC00 + 4 * k + 4 ≤ paletteBytes ∧ readsPoison w .palette (0x17FC00 + 4 * k) 4 = false) ∧
    0x1FC00 + 4 * k + 4 ≤ accBytes ∧ 0x1F000 + 16 * k + 16 ≤ accBytes := by decide +kernel

theorem witness_BrushStores : laneOn (coreOf w 0).brush none 255 = true ∧ 0x17FC00 + 4 * 255 + 4 = paletteBytes ∧
    (∀ j, j < 4 → isOffline w .palette (0x17FC00 + 4 * 255 + j) = false) := by decide +kernel

theorem witness_BrushExactSums : (tgetD 0 {} (coreOf w 0).brush.xa).count + ((List.range 256).filter (laneOn (coreOf w 0).brush none)).length ≤ 65536 := by
  decide +kernel

/-- Core 0 runs a brush program whose accumulator holds 65,281 additions. -/
def job3 : MatJob :=
  { cmd := c1, plan := 1, isBrush := true, template := tm0, head := h0, n := 0, k := 0, bias := 0, alpha := 0, beta := 0, seed := 0, stream := 0
    exact := false, cores := [0] }

def wx : State := { w with cores := [(0, { brush := { xa := [(0, { count := 65281 })] } })], jobs := [(3, job3)] }

theorem witness_BrushExactSums_range : 65536 < (tgetD 0 {} (coreOf wx 0).brush.xa).count + ((List.range 256).filter (laneOn (coreOf wx 0).brush none)).length ∧
    brushJobOf wx 0 = some 3 ∧ tget 3 wx.jobs = some job3 := by decide +kernel

theorem witness_ScalarPipe : coreOk 863 = true ∧ (sreg { ({} : Brush) with sr := [(2, 63)] } 2).toNat < 64 ∧ (coreOf w 863).tileWait = none := by decide +kernel

/-- Core 4 runs two tiles, and a TILE of its program waits. -/
def wtw : State := { w with cores := [(4, { tileWait := some (baseDesc 3 tm0 h0 .square 0 0 0 0 32 16 false false false false) })] }

theorem witness_ScalarPipe_blocked : coreOk 4 = true ∧ (coreOf wtw 4).tileWait.isSome = true := by decide +kernel

/-! Partitions and plans -/

/-- Partition 15 has quotas and is not enabled. -/
def w15 : State := { w with parts := [(2, p2), (15, { quota := { hbmMib := 8 }, hbmBase := 0x50000000 })] }

theorem witness_PartitionsAndQuotas : configCheck w15 c1 15 2 = none ∧ ((partOf w15 15).enabled, (partOf w15 15).mask) ≠ (true, 2) ∧
    ((partOf w 2).enabled, (partOf w 2).mask) = (true, 1) := by decide +kernel

/-- Partition 2 placed just behind Birzu's private area. -/
def wquota : State := { w with parts := [(2, { p2 with hbmBase := 0x80000000 })] }

theorem witness_PartitionsAndQuotas_quotas :
    poolsHold wquota 15 { hbmMib := 8, syncObjects := 1 } = true ∧ hbmPlace wquota 15 (8 * 0x100000) = some 0x88000000 ∧
    coversUse wquota 15 0x88000000 { hbmMib := 8, syncObjects := 1 } = true ∧ poolsHold wquota 15 { hbmMib := 8, queues := 8189 } = false ∧
    hbmPlace wquota 2 (64 * 0x100000) = some 0x80000000 ∧ coversUse wquota 2 0x80000000 { hbmMib := 64, syncObjects := 16 } = false ∧
    coversUse wquota 2 0x80000000 { hbmMib := 73, syncObjects := 16 } = true := by decide +kernel

/-- A plan image of one empty section, its checksum in place. -/
def image : List Byte :=
  let head := fun (crc : Nat) => toLe 4 0x5A524942 ++ toLe 2 1 ++ toLe 2 8 ++ toLe 8 136 ++ toLe 4 1 ++ toLe 4 crc ++ toLe 4 1 ++ toLe 2 1 ++ toLe 2 0 ++
    toLe 4 1200 ++ toLe 4 1000 ++ toLe 8 0x55 ++ toLe 16 0 ++ toLe 4 2 ++ toLe 4 0 ++ toLe 8 128
  let rest := List.replicate 48 0 ++ toLe 8 8
  head (crc32c (head 0 ++ rest)) ++ rest

def wi : State := { w with mem := { hbm := mwriteN 0x41000000 image [] } }

theorem witness_PlansAndTasks : localRange wi 2 0x41000000 136 = some (.hbm, 0x41000000) ∧ 136 ≤ placeRoom wi 2 ∧ placeFor wi 2 136 = some 0x47FFFF40 ∧
    readsPoison wi .hbm 0x41000000 136 = false ∧ loaderCheck wi 2 (readGlobal wi 0x41000000 136) 136 body0 = none ∧
    planCheck wi 2 (readGlobal wi 0x41000000 136) 136 body0 = none ∧ loaderCheck wi 2 (readGlobal wi 0x41000000 136) 136 { body0 with exactBounds := [65537] } = some (0x0B, 0) ∧
    tget 1 wp.plans = some plan1 ∧ plan1.part = c1.part ∧ planBusy wp 1 = false := by decide +kernel
/-! Synchronisation -/

/-- Objects of partition 2: flags, a counter, locks, and a flag two issuers wait on. -/
def wo : State :=
  { w with
    objects := [(0, { part := 2, kind := .flag }), (1, { part := 2, kind := .flag, full := true, value := 9 }), (2, { part := 2, kind := .counter, value := 0xFFFFFFFFFFFF }),
      (3, { part := 2, kind := .lock }), (4, { part := 2, kind := .lock, full := true, value := lockValue (issuerId w (.host c1)) }),
      (5, { part := 2, kind := .flag, waiters := [{ who := .host c2, kind := .consume, timeout := 10 }, { who := .unit 2 ⟨0, 3, 0⟩, kind := .peek }] }),
      (7, { part := 3, kind := .flag }), (8191, { part := 2, kind := .flag })]
    hostWords := [(2 * 4096 + 4095, { counter := true, msix := true, vector := 3, addr := 0x1000 })] }

theorem witness_PlansAndTasks_tasks : taskOf plan1 5 = some ([0], []) ∧
    taskDiffs w 2 [] { plan := 1, task := 5, objects := objectsAt w [0], flags := flagsOfPart w 2 } = [] ∧ (partOf w 2).snapshots = [] := by decide +kernel

theorem witness_ObjectsAllocatedAndFreed : objectsUsed wo 2 + 9 ≤ (partOf wo 2).quota.syncObjects ∧
    findRun ((wo.objects.filter fun e => e.1 / 8192 == 0).map fun e => e.1 % 8192) 9
      (((wo.objects.filter fun e => e.1 / 8192 == 0).map fun e => e.1 % 8192).length + 1) 0 = some 8 ∧
    handleRef 8191 = .object 8191 ∧ 8191 % 8192 + 1 ≤ 8192 ∧ (tget 8191 wo.objects).map (·.part) = some 2 ∧
    (∀ e, e ∈ wo.objects → 8191 ≤ e.1 → e.1 < 8192 → e.2.waiters = []) := by decide +kernel

theorem witness_PoisonedReleases : handleRef 5 = .object 5 ∧ ((tget 5 wo.objects).map fun o => (o.part, o.waiters.length)) = some (2, 2) ∧
    handleRef 0x4000001F = .flag 0 31 ∧ physOf wo 0 = some 0 ∧ partOfCore wo 0 = some 2 ∧ (∀ k, handleRef 0xFFFFFFFF ≠ .object k) ∧
    8192 < 8191 % 8192 + 2 ∧ objPart wo 7 ≠ some 2 ∧ objPart wo 6 ≠ some 2 ∧ (∀ k, 4 ≤ k → k < 6 → objPart wo k = some 2) := by
  refine ⟨by decide +kernel, by decide +kernel, by decide +kernel, by decide +kernel, by decide +kernel, ?_, by decide +kernel, by decide +kernel, by decide +kernel, ?_⟩
  · intro k h; exact absurd h (by simp [handleRef])
  · intro k h1 h2
    obtain rfl | rfl : k = 4 ∨ k = 5 := by omega
    all_goals decide +kernel

theorem witness_HostWordsAndViews : 4095 < 4096 ∧ handleRef 4 = .object 4 ∧ localRange wo 2 0x40000000 64 = some (.hbm, 0x40000000) ∧
    localRange wo 2 0x47FFFFC0 64 = some (.hbm, 0x47FFFFC0) ∧ writeRefused wo .hbm 0x47FFFFC0 64 = false := by decide +kernel

theorem witness_SignalsAndWaits : handleRef 0 = .object 0 ∧ (∀ i, i < 3 → ∃ o, tget i wo.objects = some o ∧ o.part = 2 ∧ o.waiters = []) ∧
    targetMet 0xFFFFFFFFFFFF 0xFFFFFFFFFFFF = true ∧ targetMet 0xFFFFFFFFFFFF 0 = false ∧ hostPending wo 16 < 64 ∧ 5 ≠ ownModule wo := by
  refine ⟨by decide +kernel, fun i h => ?_, by decide +kernel, by decide +kernel, by decide +kernel, by decide +kernel⟩
  match i, h with
  | 0, _ => exact ⟨_, rfl, rfl, rfl⟩
  | 1, _ => exact ⟨_, rfl, rfl, rfl⟩
  | 2, _ => exact ⟨_, rfl, rfl, rfl⟩

theorem witness_LocksAcquireAndRelease : handleRef 3 = .object 3 ∧ ((tget 3 wo.objects).map fun o => (o.part, o.kind, o.orphaned, o.full)) = some (2, .lock, false, false) ∧
    ((tget 4 wo.objects).map fun o => (o.full, o.value, o.waiters.length)) = some (true, lockValue (issuerId wo (.host c1)), 0) ∧
    lockValue (issuerId wo (.host c1)) ≠ lockValue (issuerId wo (.host c2)) := by decide +kernel
/-! DMA and packets -/

/-- A copy within partition 2 on channel 0 of region 0. -/
def d0 : DmaParams := { src := 0x40000000, dst := 0x40010000, length := 600, classSrc := .normal, classDst := .normal, channel := 255, region := 7 }

def copy0 : Transfer :=
  { purpose := .command c1, part := 2, op := .copy, src := 0x40000000, dst := 0x40010000, length := 600, clsDst := .normal, serial := 1 }

/-- A channel with a copy of 600 bytes: nothing issued, or its last packet outstanding. -/
def wd : State :=
  { w with channels := [(channelKey 7 15, { serial := 1, transfers := [copy0] }),
      (channelKey 0 0, { serial := 1, transfers := [{ copy0 with next := 600, out := [(0x40010200, 512, 88)], done := [(0, 512)] }] })] }

/-- An answer to that packet. -/
def ack0 : Pkt :=
  { type := .ack, src := 0, dst := 0, cls := 2, subch := 0, hops := 0, plane := 0, srcUnit := 0, srcInc := 0, part := 2, arg := 0x40010200
    arg2 := BitVec.ofNat 64 (1 * 2 ^ 40 + 512), data := [], dstUnit := channelUnit 0 0 }

theorem witness_DmaStarts : d0.length ≠ 0 ∧ checkStarts w 2 d0.src d0.dst .copy = none ∧ checkExtents w 2 d0.src d0.dst 600 .copy = none ∧
    checkStarts w 2 d0.src d0.dst (.fill 1) = none ∧ checkExtents w 2 d0.src d0.dst 600 (.fill 1) = none ∧
    pickChannel w 7 255 = some 0 ∧ pickChannel w 7 15 = some 15 ∧ indexPre { d0 with length := 32 } 16 2 = none ∧ checkList w 2 0x40020000 (2 * 4) 0x10 = none ∧
    checkStarts w 2 d0.src d0.dst (.gather (readIndices w 0x40020000 2) 16) = none ∧
    checkExtents w 2 d0.src d0.dst 32 (.gather (readIndices w 0x40020000 2) 16) = none ∧
    checkExtents w 2 d0.src d0.dst 32 (.scatter (readIndices w 0x40020000 2) 16) = none ∧
    ({ d0 with length := 0 } : DmaParams).length = 0 ∧ 1 ≤ 65536 := by decide +kernel

/-- Page lists of one page of 16 KiB at each end of a walk. -/
def wpw : State := { w with mem := { hbm := mwriteN 0x40030000 (toLe 8 0x10000) (mwriteN 0x40030040 (toLe 8 0x10001) []) } }

theorem witness_DmaStarts_pageWalk :
    checkStarts wpw 2 0x40030000 0x40030040 (.pageWalk true true 0 0 0 0) = none ∧
    checkStarts wpw 2 0x40030000 0x40010000 (.pageWalk true false 1 0 1 0) = none := by decide +kernel

theorem witness_DmaPackets : (channelOf wd 7 15).transfers = [copy0] ∧ copy0.out.length < 4096 ∧ copy0.next < copy0.length ∧ descending wd copy0 = false ∧
    nextPacket wd copy0 = (0, 512) ∧ isRemote wd (copy0.dst + 0) = false ∧ vacantWindow wd ((copy0.dst + 0) % 2 ^ 47) = false ∧
    place wd (copy0.src + 0) = .mem .hbm 0x40000000 ∧ waitsForTile wd (copy0.src + 0) = false ∧ cleanPart wd .hbm 0x40000000 512 = 512 := by decide +kernel

/-- The same copy running from its end, and a fill. -/
def wdn : State :=
  { w with channels := [(channelKey 0 0, { transfers := [{ copy0 with down := true }] }), (channelKey 0 1, { transfers := [{ copy0 with op := .fill 7, next := 512 }] })] }

theorem witness_DmaPackets_others : (channelOf wdn 0 0).transfers = [{ copy0 with down := true }] ∧ nextPacket wdn { copy0 with down := true } = (512, 88) ∧
    cleanPart wdn .hbm (0x40000000 + 512) 88 = 88 ∧ place wdn (copy0.src + 512) = .mem .hbm 0x40000200 ∧
    (channelOf wdn 0 1).transfers = [{ copy0 with op := .fill 7, next := 512 }] ∧ nextPacket wdn { copy0 with op := .fill 7, next := 512 } = (512, 88) := by decide +kernel

theorem witness_DmaPackets_answers :
    ack0.dstUnit = channelUnit 0 0 ∧ argSerial ack0 = 1 ∧ ack0.status = 0 ∧ ack0.arg.toNat = 0x40010200 ∧ argCount ack0 = 512 ∧
    ((channelOf wd 0 0).transfers.map fun x => (x.out, decide (x.length ≤ x.next), x.checks)) = [([(0x40010200, 512, 88)], true, 0)] ∧
    ((channelOf wd 0 0).transfers.map fun x => (x.failure, x.firstFail, decide (x.purpose = .command c1))) = [(none, none, true)] ∧ ack0.data.length ≠ 2 ∧
    argSerial { ack0 with arg2 := 0 } ≠ 1 := by decide +kernel

/-- A write of eight bytes from another module, to the last bytes of partition 2. -/
def write0 : Pkt :=
  { type := .write, src := 5, dst := 0, cls := 3, subch := 0, hops := 0, plane := 0, srcUnit := 0x0500, srcInc := 0, part := 2, arg := 0x47FFFFF8
    arg2 := 0, data := toLe 8 0x1122334455667788 }

/-- Core 0 with a load outstanding, and its stores to two places awaited. -/
def wl : State :=
  { w with cores := [(0, { loads := [(4, 0x40000040, 8)], fenceSet := [3, 9] }),
             (1, { fenceSet := [2], fence := some { dests := [1, 2], awaited := [2], signals := [⟨.host c1, 0, 0, false, false, 5⟩] } }), (2, { tiles := [{ desc := baseDesc 0 tm0 h0 .square 0 0 0 0 32 16 false false false false }] })]
           objects := wo.objects, probes := (List.range 7).map fun k => (⟨5, 3, 0⟩, 1, k) }


theorem witness_MemoryTraffic : fenced w write0 = false ∧ placeLocal w write0.arg.toNat = .mem .hbm 0x47FFFFF8 ∧ inBuddyArea w .hbm 0x47FFFFF8 = false ∧
    reaches w write0 .hbm 0x47FFFFF8 write0.data.length = true ∧ 0x47FFFFF8 + write0.data.length = regionEnd w 2 .hbm 0x47FFFFF8 ∧
    writeRefused w .hbm 0x47FFFFF8 write0.data.length = false ∧ reaches w { write0 with part := 3 } .hbm 0x47FFFFF8 8 = false ∧
    reaches w { write0 with data := [], arg2 := 8 } .hbm 0x47FFFFF8 (requestLength { write0 with data := [], arg2 := 8 }) = true ∧
    takeLoad 0 0x40000040 wl = some (4, 0x40000040, 8) ∧ takeLoad 1 0x40000040 wl = none ∧ write0.data.length ≠ 3 ∧
    (wl.remoteOps.any fun o => o.module == 5 && (issuerId wl o.who).unit == 1) = false := by decide +kernel

theorem witness_Fences : physOf wl 0 = some 0 ∧ partOfCore wl 0 = some 2 ∧ coreFenced wl 0 = false ∧ (coreOf wl 0).fence = none ∧ (coreOf wl 0).fenceSet = [3, 9] ∧
    (coreOf wl 1).fence = some { dests := [1, 2], awaited := [2], signals := [⟨.host c1, 0, 0, false, false, 5⟩], held := [] } ∧ handleRef 0 = .object 0 ∧
    ((tget 0 wl.objects).map fun o => (o.part, o.kind, o.full, o.waiters.length)) = some (2, .flag, false, 0) ∧
    (coreOf wl 1).posted.armed = false ∧ fenced wl { write0 with type := .fenceProbe, plane := 7, srcUnit := 3 } = false ∧
    ((wl.probes.filter fun x => x.1 == ⟨5, 3, 0⟩ && x.2.1 == 1).map (·.2.2)).length = 7 ∧
    ((wl.probes.filter fun x => x.1 == ⟨5, 3, 0⟩ && x.2.1 == 1).map (·.2.2)).contains 7 = false ∧ storeWaits wl ⟨5, 3, 0⟩ 1 = false ∧
    ((wl.probes.filter fun x => x.1 == ⟨5, 3, 0⟩ && x.2.1 == 0).map (·.2.2)).length = 0 := by decide +kernel

theorem witness_DirectAccess : partOfCore w 0 = some 2 ∧ place w 0x40000000 = .mem .hbm 0x40000000 ∧ place w 0x1000017FFF8 = .mem .palette 0x17FFF8 ∧
    coreFenced w 0 = false ∧ (coreOf w 0).fence = none ∧ (coreOf w 0).fenceSet.length < 16 ∧ inPart w 2 .palette 0x17FFF8 = true ∧ 0x17FFF8 / 0x200000 = 0 ∧
    0x17FFF8 + 8 ≤ regionEnd w 2 .palette 0x17FFF8 ∧ writeRefused w .hbm 0x40000000 8 = false ∧ 0x40000000 + 8 ≤ regionEnd w 2 .hbm 0x40000000 ∧
    readsPoison w .hbm 0x40000000 8 = false ∧
    place w 0x48000000 = .mem .hbm 0x48000000 ∧ inPart w 2 .hbm 0x48000000 = false := by decide +kernel

/-- Barrier 7 of block 0 with one of its two members arrived, a tree's root and leaf, and a group. -/
def wb : State :=
  { w with
    barriers := [(barrierKey 0 7, { mask := 3, arrived := 1, waiting := [(⟨0, 0, 0⟩, false)] }), (barrierKey 0 6, { mask := 7, arrived := 1 })]
    lantern := { w.lantern with trees := [(treeKey 0 4095, { children := 2, counter := 1, arrived := [17], parent := some (9, 1) }), (treeKey 1 4095, { children := 3 })], groups := [(1, { part := 2, kind := 0, members := [] })] } }

theorem witness_Barriers : partOfBlock wb 0 = some 2 ∧ (tgetD (barrierKey 0 7) {} wb.barriers).mask.getLsbD 1 = true ∧
    (tgetD (barrierKey 0 7) {} wb.barriers).arrived.getLsbD 1 = false ∧ (tgetD (barrierKey 0 7) {} wb.barriers).dark = false ∧
    (1 ||| BitVec.ofNat 9 (2 ^ 1)) &&& (3 : BitVec 9) = 3 ∧ (tgetD (barrierKey 0 6) {} wb.barriers).arrived.getLsbD 2 = false ∧
    (1 ||| BitVec.ofNat 9 (2 ^ 2)) &&& (7 : BitVec 9) ≠ 7 := by decide +kernel

theorem witness_Barriers_trees :
    tget (treeKey 0 4095) wb.lantern.trees = some { children := 2, counter := 1, arrived := [17], parent := some (9, 1) } ∧
    tget (treeKey 1 4095) wb.lantern.trees = some { children := 3 } ∧ 9 ≠ ownModule wb ∧ [17].contains (16 + write0.src) = false ∧
    1 + 1 = (0 + 1) * 2 ∧ 0 + 1 ≠ (0 + 1) * 3 ∧
    fenced wb { write0 with type := .relay, arg := 4095 } = false ∧ (4095 : BitVec 64).toNat / 2 ^ 56 = 0 ∧ (4095 : BitVec 64).toNat % 2 ^ 56 = 4095 ∧
    (tget 1 wb.lantern.groups).map (·.part) = some 2 ∧ blocksIn wb 2 0 ≠ [] := by decide +kernel

theorem witness_WakesAndSweeps : fenced wo { write0 with type := .signal } = false ∧ write0.src ≠ ownModule wo ∧ handleRef 0 = .object 0 ∧ handleRef 3 = .object 3 ∧
    ((tget 0 wo.objects).map fun o => (o.part, o.waiters.length, o.full, o.orphaned, o.kind)) = some (2, 0, false, false, .flag) ∧
    ((tget 3 wo.objects).map fun o => (o.part, o.waiters.length, o.full, o.orphaned, o.kind)) = some (2, 0, false, false, .lock) := by decide +kernel

/-- Flag 1 of core 0 is full, flag 2 has its core waiting on it, and core 0's release is on its way. -/
def wfl : State :=
  { wo with
    cores := [(0, { flags := [(1, { full := true, value := 3 }), (2, { waiters := [{ who := .unit 2 ⟨0, 0, 0⟩, kind := .consume, timeout := 10 }] })], waiting := true })]
    out := { wo.out with releases := [{ unit := ⟨0, 0, 0⟩, status := .ok }] } }

theorem witness_WakesAndSweeps_flags : handleRef 0x40000000 = .flag 0 0 ∧ handleRef 0x40000001 = .flag 0 1 ∧ handleRef 0x40000002 = .flag 0 2 ∧
    physOf wfl 0 = some 0 ∧ partOfCore wfl 0 = some 2 ∧ unitId wfl 0 = ⟨0, 0, 0⟩ ∧ issuerFenced wfl (.unit 2 (unitId wfl 0)) = false ∧
    flagKind wfl 2 0 = .flag ∧ flagKind wfl 2 1 = .flag ∧ flagKind wfl 2 2 = .flag ∧ (flagOf wfl 0 0).waiters = [] ∧ (flagOf wfl 0 0).full = false ∧
    (flagOf wfl 0 1).waiters = [] ∧ (flagOf wfl 0 1).full = true ∧
    (flagOf wfl 0 2).waiters = [{ who := .unit 2 ⟨0, 0, 0⟩, kind := .consume, timeout := 10 }] ∧ (⟨0, 0, 0⟩ : UnitId) ∈ wfl.out.releases.map (·.unit) ∧
    isWait { who := .host c1, kind := .consume, timeout := 1 } = true ∧ isAcquirer { who := .host c1, kind := .acquirer, timeout := 1 } = true := by decide +kernel

/-- A flag host 16 alone waits on, and a lock it alone waits for, held by core 3. -/
def wow : State :=
  { w with objects := [(0, { part := 2, kind := .flag, waiters := [{ who := .host c1, kind := .consume, timeout := 10 }] }),
      (1, { part := 2, kind := .lock, full := true, value := lockValue ⟨0, 3, 0⟩, waiters := [{ who := .host c1, kind := .acquirer, timeout := 10 }] })] }

theorem witness_WakesAndSweeps_timeouts :
    ((tget 0 wow.objects).map (·.waiters)) = some [{ who := .host c1, kind := .consume, timeout := 10 }] ∧
    ((tget 1 wow.objects).map (·.waiters)) = some [{ who := .host c1, kind := .acquirer, timeout := 10 }] ∧ 1 / 8192 = 0 := by decide +kernel
/-! Queues and the stage sequencer -/

def q3 : Queue :=
  { part := 2, width := 15, consumer := 1, high := 8, low := 1, publish := 0xFFFFFFFF, watermark := 0xFFFFFFFF, reset := 0xFFFFFFFF
    eps := [{ module := 0, unit := 0, grant := 4, held := 1 }, { module := 0, unit := 2, grant := 2, held := 2 }] }

/-- Endpoint 0 has an open packet of one item, behind nothing published. -/
def q4 : Queue :=
  { q3 with
    eps := [{ module := 0, unit := 0, grant := 4, held := 1, openItems := 1, openEpoch := 0 }], ptrA := { opens := [(0, (0, 1))] }, ptrB := { opens := [(0, (0, 1))] }, occ := 2 }

/-- Its packet is published. -/
def q5 : Queue := { q3 with ptrA := { head := some 2, tail := some 3 }, ptrB := { head := some 2, tail := some 3 }, occ := 2, qgen := 255 }

/-- A remote producer, credits in transit. -/
def q6 : Queue := { q3 with eps := [{ module := 9, unit := 0, grant := 4, held := 1, transit := 2 }], qgen := 7 }

def wq : State :=
  { w with
    engines := [(7, {
      queues := [(3, q3), (4, q4), (5, q5), (6, q6), (7, { q3 with resetting := true }), (8, { q3 with destroy := some (c1, [0]) }),
        (9, { q3 with flushes := [(c1, 5)] }), (1023, { q3 with midItems := 1 })]
      slots := [(0, { kind := 1 }), (1, { kind := 2 }), (2, { next := some 3, kind := 1 }), (3, { kind := 2 })], fresh := 6143 })]
    proxies := [{ module := 9, queue := 0xE003, endpoint := 7, part := 2, grant := 4, held := 1 }] }

theorem witness_QueueLife : (List.replicate 8 (0, 0)).length ≤ 8 ∧ handleRef 0 ≠ .bad ∧ queuesOfPart w 2 < (partOf w 2).quota.queues ∧
    freeIndex ((engineOf w 7).queues.map (·.1)) 0 1024 = some 0 ∧ queueRef (queueHandle 7 3) = some (7, 3) ∧ queueOf wq 7 3 = some q3 ∧
    q3.eps[0]? = some { module := 0, unit := 0, grant := 4, held := 1 } ∧ (2 : Int) ≤ (freeSlots (engineOf wq 7) : Int) ∧
    (grantsOfPart wq 2 : Int) + 2 ≤ ((partOf wq 2).quota.queueSlots : Int) ∧ -(-1 : Int) ≤ 1 ∧
    queueOf wq 7 1023 = some { q3 with midItems := 1 } ∧ queueOf wq 7 9 = some { q3 with flushes := [(c1, 5)] } ∧
    queueOf wq 7 8 = some { q3 with destroy := some (c1, [0]) } ∧ queueRef (queueHandle 7 1023) = some (7, 1023) ∧
    queueRef (queueHandle 7 8) = some (7, 8) ∧ queueRef (queueHandle 7 9) = some (7, 9) ∧ (∀ e, e ∈ q3.eps → e.module = ownModule wq) := by decide +kernel

theorem witness_QueuePackets : queueHandle 7 3 < 2 ^ 16 ∧ checkQueue 7 3 (unitPart wq ⟨0, 0, 0⟩ (queueHandle 7 3)) ⟨0, 0, 0⟩ (.producer 0) wq = (.inr q3, wq) ∧
    noCredit (ownModule wq) ⟨0, 0, 0⟩ { module := 0, unit := 0, grant := 4, held := 1 } = false ∧ (takeSlot 3 (engineOf wq 7)).map (·.1) = some 6143 ∧
    tget 0 q3.ptrA.opens = none ∧ checkQueue 7 4 (unitPart wq ⟨0, 0, 0⟩ (queueHandle 7 4)) ⟨0, 0, 0⟩ (.producer 0) wq = (.inr q4, wq) ∧
    tget 0 q4.ptrA.opens = some (0, 1) ∧ (List.replicate 240 (0 : Byte)).length = q4.width * 16 ∧ (1 : BitVec 32) ≠ 0xFFFFFFFF ∧
    (1 : BitVec 32).toNat = 1 ∧ (partOf wq 2).epoch = 0 ∧ (partOf { wq with parts := [(2, { p2 with epoch := 1 })] } 2).epoch ≠ 0 ∧
    (tget 0 (engineOf wq 7).slots).isSome = true ∧ checkQueue 7 3 (unitPart wq ⟨0, 1, 0⟩ (queueHandle 7 3)) ⟨0, 1, 0⟩ .consumer wq = (.inr q3, wq) ∧
    checkQueue 7 5 (unitPart wq ⟨0, 1, 0⟩ (queueHandle 7 5)) ⟨0, 1, 0⟩ .consumer wq = (.inr q5, wq) ∧ q5.ptrA.head = some 2 ∧
    (tget 2 (engineOf wq 7).slots).isSome = true := by decide +kernel

theorem witness_RemoteQueues : wq.proxies = [{ module := 9, queue := 0xE003, endpoint := 7, part := 2, grant := 4, held := 1 }] ∧
    isProxy 9 0xE003 7 { module := 9, queue := 0xE003, endpoint := 7, part := 2, grant := 4, held := 1 } = true ∧
    unitPart wq ⟨0, 0, 0⟩ ((9 + 1) * 2 ^ 16 + 0xE003) = 2 ∧ queueRef 0xE003 = some (7, 3) ∧ queueOf wq 7 6 = some q6 ∧ queueRef (queueHandle 7 6) = some (7, 6) ∧
    tget 0 q6.ptrA.opens = none ∧ (requestOf 7 6 2 0 ⟨9, 0, 0⟩ (.open 5) wq).1.1 = .ok ∧ q6.qgen ≠ 6 ∧
    queueOf wq 7 7 = some { q3 with resetting := true } ∧ queueRef (queueHandle 7 7) = some (7, 7) ∧ (∀ e, e ∈ q3.eps → e.module = ownModule wq) ∧
    (write0.src = 5 ∧ write0.status = 0) := by decide +kernel
/-! The stage sequencer -/

/-- A middle-free stage: the first of two, with its output queue and its gradient queue in region 7. -/
def g0 : StageCfg :=
  { stages := 2, index := 0, nmb := 4, inFlight := 2, fillDrain := false, fwdIn := 0xFFFF, fwdOut := queueHandle 7 10, bwdIn := queueHandle 7 11, bwdOut := 0xFFFF
    fwdOutModule := 0, bwdOutModule := 0, plan := 1, fwdList := 0, bwdList := 1 }

def r0 : StageRunState := { cmd := c1, passes := stageOrder g0 }

/-- Queue 10 takes the stage's output; queue 11 holds the gradient of micro-batch 0; queue 12 is empty. -/
def qo : Queue := { q3 with eps := [{ module := 0, unit := headUnit, grant := 4, held := 4 }] }
def qi : Queue := { q3 with consumer := headUnit, eps := [{ module := 0, unit := 1, grant := 2 }], ptrA := { head := some 4, tail := some 4 }, ptrB := { head := some 4, tail := some 4 } }

def wg (st : Stage) : State :=
  { wp with
    engines := [(7, { queues := [(10, qo), (11, qi), (12, { qi with ptrA := {}, ptrB := {} })], slots := [(4, { kind := 1 })], fresh := 6141 })]
    parts := [(2, { p2 with stage := { st with hostBuf := 0x400000000000 + 0x1000, hostBytes := 16384, layerBytes := 4096 } })] }

/-- The state of a step. -/
def rb : StageRunState :=
  { r0 with passes := [.backward 0], inFlight := [0], offloaded := [(0, 1), (0, 0)], returned := [(0, 1), (0, 0)]
            buffer := [⟨0, 0, 0x400000001000, 4096⟩, ⟨0, 1, 0x400000002000, 4096⟩] }
/-- One whose earliest layer has not left. -/
def ro : StageRunState := { rb with offloaded := [], returned := [], buffer := [⟨1, 0, 0x400000001000, 4096⟩] }
/-- One whose last layer returns next. -/
def rr : StageRunState := { rb with returned := [] }

/-- What a publication answers, and whether it leaves the stage's step. -/
def outOf (s : State) (t : QResult) : Bool := decide (t.1 = (.ok, 0)) && (partOf t.2 2).stage.run == (partOf s 2).stage.run

def takenInput : Input → Option (Option StageRunState)
  | .taken t => some (partOf t 2).stage.run
  | _ => none

theorem witness_StageOrder : g0.index < g0.stages ∧ g0.fillDrain = false ∧ stageOrder g0 =
    [.forward 0, .forward 1, .backward 0, .forward 2, .backward 1, .forward 3, .backward 2, .backward 3] := by decide +kernel

theorem witness_StageRuns_commands : checkStage (wg {}) 2 g0 = none ∧ (partOf (wg { cfg := some g0 }) 2).stage.cfg = some g0 ∧ (partOf (wg { cfg := some g0 }) 2).stage.run = none ∧
    4 ≤ g0.nmb ∧ (partOf (wg { cfg := some g0, run := some rb }) 2).stage.drain = none ∧ rb.inFlight ≠ [] ∧
    (partOf (wg { cfg := some g0, run := some rb, drain := some (c2, 1) }) 2).stage.drain = some (c2, 1) ∧
    2 ≤ ((partOf (wg { cfg := some g0 }) 2).stage.cfg.bind fun g => (tget g.plan (wg {}).plans).map fun p => p.body.layers).getD 0 ∧
    localRange (wg {}) 2 (0x400000000000 + 0x1000) 16384 = some (.host, 0x1000) ∧
    2 * ((partOf (wg { cfg := some g0 }) 2).stage.cfg.map stagePeak).getD 0 * 4096 ≤ 16384 := by decide +kernel

theorem witness_StageRuns_passes : stageReady (wg { cfg := some g0, run := some r0 }) 2 (.forward 0) = some (g0, r0) ∧ g0.index = 0 ∧
    outOf (wg { cfg := some g0, run := some r0 }) (publishOut 2 0 g0.fwdOut 0 [List.replicate 240 0] (wg { cfg := some g0, run := some r0 })) = true ∧
    stageReady (wg { cfg := some g0, run := some rb }) 2 (.backward 0) = some (g0, rb) ∧
    (rb.offloaded.any fun e => e.1 == 0 && !rb.returned.contains e) = false ∧
    takenInput (takeInput 2 g0.bwdIn 0 (wg { cfg := some g0, run := some rb })) = some (some rb) ∧
    takenInput (takeInput 2 (queueHandle 7 12) 0 (wg { cfg := some g0, run := some rb })) = none := by decide +kernel

theorem witness_StageRuns_activations :
    let s := wg { cfg := some g0, run := some ro, offloadK := 2, offloadT := 64 }
    pickChannel s (regionOfHbm (0x40000000 % 2 ^ 47) % 8) 255 = some 0 ∧ (0 < 2 ∧ 64 ≤ 64) ∧
    ((ro.offloading ++ ro.offloaded).filter fun e => e.1 == 0).length = 0 ∧ 0 ∈ ro.inFlight ∧ hostFits (partOf s 2).stage ro 0x400000002000 4096 = true ∧
    hostFits (partOf s 2).stage ro 0x400000004000 4096 = true ∧ hostFits (partOf s 2).stage ro 0x400000004001 4096 = false ∧
    checkStarts s 2 0x40000000 0x400000002000 .copy = none ∧ checkExtents s 2 0x40000000 0x400000002000 4096 .copy = none := by
  decide +kernel

theorem witness_StageRuns_returns :
    let s := wg { cfg := some g0, run := some rr, offloadK := 2, offloadT := 64 }
    nextReturn rr 0 1 = true ∧ nextPass (partOf s 2).stage.cut rr = some (.backward 0) ∧ ⟨0, 1, 0x400000002000, 4096⟩ ∈ rr.buffer ∧
    pickChannel s (regionOfHbm (0x40000000 % 2 ^ 47) % 8) 3 = some 3 ∧
    checkStarts s 2 0x400000002000 0x40000000 .copy = none ∧ checkExtents s 2 0x400000002000 0x40000000 4096 .copy = none := by
  decide +kernel
/-! The host interface -/

/-- A packet of command 0x0301 for partition 2, as its 64 bytes and as fetched; one of a compute command. -/
def bytes0 : List Byte := toLe 2 0x0301 ++ [0, 1] ++ toLe 4 7 ++ toLe 2 2 ++ toLe 2 0 ++ toLe 4 0xFFFFFFFF ++ List.replicate 48 0
def packet0 : Packet := parsePacket 1 bytes0
def packet1 : Packet := { packet0 with opcode := 0x0FFF, idx := 2 }

/-- A live ring pair of 64 entries with one packet to take, one taken, and replies held. -/
def ring0 : Ring :=
  { enabled := true, cmdBase := 0x100000, cplBase := 0x200000, recordAddr := 0x2007C0, submit := 2, fetched := 1, count := 1, packets := [packet0]
    unfinished := [1], epoch := 0xFFFF, cplPtr := 61, replies := [{ cmd := c1, answer := { status := .ok }, time := 5 }] }

def objF : SyncObj := { part := 2, kind := .flag }

def wh : State :=
  { w with rings := [(ringKey 16 0, ring0), (ringKey 2 3, { ring0 with packets := [packet1], count := 9, base := 4, due := [5, 7], unfinished := [8], completed := 4, consumed := 3 })],
           objects := [(3, objF)] }

theorem witness_HostIntake : ringLive (ringOf wh 16 0) = true ∧ (((0xFFFF00000041 : Word) >>> 32).truncate 16 : BitVec 16) = (ringOf wh 16 0).epoch ∧
    (((0xFFFF00000041 : Word).truncate 32 : BitVec 32) - (ringOf wh 16 0).fetched).toNat = ringSize (ringOf wh 16 0) ∧ (0xFFFF00000041 : Word).toNat / 2 ^ 48 = 0 ∧
    ((ringOf wh 2 3).completed - (3 : BitVec 32)).toNat ≤ unconsumed (ringOf wh 2 3) ∧ ringLive (ringOf wh 5 0) = false ∧
    (ringOf wh 16 0).submit ≠ (ringOf wh 16 0).fetched ∧ serves wh = true ∧ (ringOf wh 16 0).packets = [packet0] ∧ mayStart wh 16 0 packet0 = true ∧
    intake wh 16 packet0 [] = none ∧ needsCores packet0 = false ∧ (ringOf wh 2 3).packets = [packet1] ∧ mayStart wh 2 3 packet1 = true ∧
    intake wh 2 packet1 [] = some (.badOpcode, 0, true) := by decide +kernel

theorem witness_HostReplies : wh.keepers.headRestarting = false ∧ ringLive (ringOf wh 16 0) = true ∧ ringFull (ringOf wh 16 0) = false ∧
    (ringOf wh 16 0).replies = [{ cmd := c1, answer := { status := .ok }, time := 5 }] ∧ (ringOf wh 16 0).interims.contains 1 = false ∧ c1.msix = false ∧
    c1.fn = 16 ∧ c1.ring = 0 ∧ (ringOf wh 16 0).cplBase.toNat + (ringOf wh 16 0).cplPtr * 32 + 32 ≤ (ringOf wh 16 0).recordAddr.toNat ∧
    handleRef c1.completion = .none ∧ handleRef 3 = .object 3 ∧ tget 3 wh.objects = some objF ∧ objF.part = c1.part ∧
    ((ringOf wh 2 3).due.filter (qualifies (ringOf wh 2 3))).max? = some 7 := by decide +kernel
/-! Lantern ports and beacon time -/

def slot0 : SentSlot := { index := 4095, frames := [], credits := [0, 0, 0, 0, 0, 0], p0 := 0 }

/-- Port 0 UP at the last index; port 1 UP with a resend; port 2 UP with a full replay buffer; port 3 DOWN with an assembly; port 4
DOWN. -/
def wl0 : State :=
  { w with
    pkg := { state := 3, moduleId := some 0 }
    lantern := { w.lantern with
      routes := [(77, 0x80)]
      ports := [(0, { state := 2, txIndex := 4095, rxNext := 0, frames := [{ cls := 1, subch := 1, packets := [write0] }], credits := [32, 0, 64, 64, 960, 960], codewords := 8191
                      streamsIn := [(1023, (0x40000000, 513, write0))]
                      lanes := [(2, { lock := .check1 7 }), (3, { lock := .check2 7 }), (4, { lock := .locked 7 2 }), (5, { lock := .locked 7 0 }), (15, { lock := .locked 7 3 }), (16, { lock := .locked 7 0 })]
                      mapTransmit := some (15, 17, 4095), p0In := [1] }),
                (1, { state := 2, replay := [slot0], resending := some 4095 }),
                (2, { state := 2, replay := List.replicate 128 slot0 }),
                (3, { state := 0, lanes := [(17, { lock := .locked 7 3 })] }), (4, { state := 2 }),
                (5, { state := 2, mapRequest := some (15, 16, 4095), replay := [slot0], resending := some 4095, codewords := 8191 })] } }

/-- Ports 0 and 1 in one bond; port 1 is UP and port 2 DOWN with a slot unacknowledged. -/
def wbond : State :=
  { w with lantern := { w.lantern with ports := [(0, { state := 2, bond := 3, p0In := [1] }), (1, { state := 2, bond := 3 }), (2, { replay := [slot0] })] } }

/-- A slot with index 0, decoded, and one that is not. -/
def rx0 : SlotRx := { link := 0, decoded := List.replicate 16 true, corrected := [] }

theorem witness_LanternTraffic_slots : isUp (portOf wl0 0) = true ∧ (portOf wl0 0).resending = none ∧ (portOf wl0 0).replay.length < 128 ∧
    isUp (portOf wl0 3) = false ∧ portDomain (portOf wl0 3) = true ∧ (portOf wl0 0).codewords % 8192 = 8191 ∧ (portOf wl0 1).codewords % 8192 ≠ 8191 ∧
    isUp (portOf wl0 2) = true ∧ (portOf wl0 2).resending = none ∧ 128 ≤ (portOf wl0 2).replay.length ∧ (portOf wl0 2).lostWords < 4096 ∧
    (portOf wl0 2).sameResends < 63 ∧ (portOf wl0 1).resending = some slot0.index ∧
    (portOf wl0 1).replay.find? (fun y => y.index == slot0.index) = some slot0 ∧ (portOf wl0 5).resending = some slot0.index ∧
    (portOf wl0 5).replay.find? (fun y => y.index == slot0.index) = some slot0 ∧ (portOf wl0 5).codewords % 8192 = 8191 := by decide +kernel

/-- A slot that acknowledges nothing and asks for index 4095 again. -/
def rxNak : SlotRx := { rx0 with link := BitVec.ofNat 128 (2 ^ 115 + 4094 * 2 ^ 116) }

theorem witness_LanternTraffic_receives : rx0.decoded = List.replicate 16 true ∧
    rx0.link.toNat / 2 ^ 103 % 4096 = (portOf wl0 0).rxNext ∧ rx0.link.getLsbD 115 = false ∧ failingLane (countBad rx0 (portOf wl0 0)) = none ∧
    failingLane (countBad { rx0 with decoded := [] } (portOf wl0 0)) = none ∧ rxNak.link.getLsbD 115 = true ∧ (portOf wl0 1).nakFrom = none ∧
    failingLane (countBad rxNak (portOf wl0 1)) = none ∧ rxNak.link.toNat / 2 ^ 116 % 4096 = 4094 ∧
    (((portOf wl0 1).replay.filter fun y => !idxLe y.index 4094).any fun y => y.index == (4094 + 1) % 4096) = true ∧
    (portOf wl0 2).replay = slot0 :: List.replicate 127 slot0 ∧ (portOf wl0 2).nakFrom = none ∧
    ({ (portOf wl0 2) with nakFrom := some (4095, 1) } : Port).nakFrom = some (slot0.index, 0 + 1) := by decide +kernel

theorem witness_LanternTraffic_frames : write0.dst = ownModule wl0 ∧ ({ write0 with dst := 77 } : Pkt).dst ≠ ownModule wl0 ∧
    ({ write0 with dst := 77, hops := 1022 } : Pkt).hops < 1023 ∧ routePort wl0 { write0 with dst := 77 } = some 0 ∧ bondMember wl0 0 { write0 with dst := 77 } = 0 ∧
    freeStream (portOf wl0 0) = some 0 ∧ routePort wl0 { write0 with dst := 78 } = none ∧
    write0.type ≠ .reserved ∧ tget (1023 % 1024) (portOf wl0 0).streamsIn = some (0x40000000, 513, write0) ∧ tget (7 % 1024) (portOf wl0 0).streamsIn = none ∧
    0x40000000 / 2 ^ 47 % 2 ^ 17 = ownModule wl0 ∧ (0x40000000 + 512) / 2 ^ 47 % 2 ^ 17 = ownModule wl0 ∧
    ((portOf wl0 0).frames.any fun f => f.cls == 1 && f.subch == 1) = true ∧
    nthNat (portOf wl0 0).credits (bufferOf 1 1) = 0 ∧ nthNat (portOf wl0 0).credits (bufferOf 1 0) ≠ 0 := by decide +kernel

theorem witness_LanternLanesAndPorts : (tgetD 1 {} (portOf wl0 0).lanes).lock = .hunt 0 ∧ (tgetD 2 {} (portOf wl0 0).lanes).lock = .check1 7 ∧
    (tgetD 3 {} (portOf wl0 0).lanes).lock = .check2 7 ∧ (tgetD 4 {} (portOf wl0 0).lanes).lock = .locked 7 2 ∧ (tgetD 17 {} (portOf wl0 3).lanes).lock = .locked 7 3 ∧
    isUp (portOf wl0 3) = false ∧ (tgetD 15 {} (portOf wl0 0).lanes).lock = .locked 7 3 ∧ logicalRx (portOf wl0 0) 15 = some 15 ∧
    failingLane (portOf wl0 0) = none ∧ sparesRx (portOf wl0 0) = [16] ∧ (portOf wl0 0).mapRequest = none ∧ (portOf wl0 0).mapTransmit = some (15, 17, 4095) ∧
    (portOf wl0 5).mapRequest = some (15, 16, 4095) := by decide +kernel

theorem witness_LanternLanesAndPorts_messages : ([1] : List (BitVec 32)) ≠ [] ∧ ([1] : List (BitVec 32)).length ≤ 16 ∧
    (([1] : List (BitVec 32)).headD 0).toNat % 256 = ([1] : List (BitVec 32)).length ∧ (portOf wbond 0).p0In.take 1 = [1] ∧
    isUp (portOf wbond 1) = true ∧ 2 ≠ 0 ∧ isUp (portOf wbond 2) = false := by decide +kernel

/-- Sixteen lanes a training locked, each within two slots, and a seventeenth beyond. -/
def rx16 : List RxLane := (List.range 17).map fun n => { lane := 17 - n, sent := n, skewPs := if n = 16 then 51201 else 51200, place := 0 }

theorem witness_LanternLanesAndPorts_ports : isUp (portOf wl0 4) = true ∧ (portOf wl0 4).frames = [] ∧ (portOf wl0 4).replay = [] ∧ (portOf wl0 4).streamsOut = [] ∧
    (portOf wl0 4).heldOpens = [] ∧ lostPorts wl0 4 = [4] ∧ survivors wl0 4 = [] ∧ survivors wbond 0 = [1] ∧ isUp (portOf wbond 0) = true ∧ portDomain (portOf wl0 3) = true ∧
    wl0.pkg.moduleId ≠ none ∧ w.pkg.moduleId = none ∧ (portOf wl0 3).loopback = false ∧ (portOf wl0 3).peerBoot = none ∧ 600 ≤ 600 ∧ 600 < 601 ∧
    16 ≤ (usableLanes rx16).length ∧ (usableLanes (rx16.drop 1)).length < 16 ∧ 16 ≤ ((List.range 18).filter fun n => (List.range 17).contains n).length := by decide +kernel

theorem witness_BeaconTime : isUp (portOf wl0 0) = true ∧ (((20002 : Word) - 0).toInt - ((0 : Word) - 0).toInt) / 2 = 10001 ∧
    ({ wl0 with time := { now := 2000000000, source := 1 } } : State).time.lastPps.toNat + 2000000000 ≤ 2000000000 ∧
    ({ now := 5, source := 1, loadAtPps := some 5 } : Time).now ≤ 5 ∧ wl0.time.source ≠ 1 ∧
    ({ wl0 with time := { source := 2, parent := 0 } } : State).time.parent = 0 := by decide +kernel
/-! Caches, prefetchers and HBM -/

def hint0 : Hint := { region := 0, base := 0x40000000, stride := 128, count := 2, distance := 1, rows := 1, cols := 2 }

/-- One cached line, three prefetchers and a flush in progress. -/
def wc : State :=
  { w with
    parts := [(2, { p2 with wayMask := [0x8000] }), (3, { p2 with flushBusy := some (true, 0x40000000, 128) })]
    regions := [(regionOfHbm 0x40000000, { lines := [{ line := 0x800000, part := 2, way := 1 }] })] }

/-- Prefetchers of region 0, whose part 0x40000000 on is: streams at their limits, hints, one in training; and a region without a free one. -/
def wpf : State :=
  { w with regions := [
      (0, { prefetchers := [(0, .streaming 0x40000000 128 15 62 2 0), (1, .hinted hint0 0 0 2 0), (2, .training 0x40010000 0x10000 2 0 2), (3, .streaming 0x40000000 128 16 0 2 0), (4, .hinted hint0 1 0 2 0),
              (5, .streaming 0x40000000 128 15 63 2 0), (6, .streaming 0x48000000 128 0 0 2 0)] }),
      (5, { prefetchers := (List.range 64).map fun k => (k, .hinted hint0 0 0 2 0) })] }

theorem witness_CachesAndHbm_lines : localRange wc 2 0x4000007F 1 = some (.hbm, 0x4000007F) ∧ 0x4000007F / 128 = 0x800000 ∧ (0x4000007F + 1 - 1) / 128 = 0x800000 ∧
    (regionOf wc (regionOfHbm (0x800000 * 128))).lines.find? (fun y => y.line == 0x800000) = some { line := 0x800000, part := 2, way := 1 } ∧
    localRange w 2 0x4000007F 1 = some (.hbm, 0x4000007F) ∧ (regionOf w (regionOfHbm (0x800000 * 128))).lines.find? (fun y => y.line == 0x800000) = none ∧
    (∀ u, u ∈ [0x800001 * 2] → u / 2 ≠ 0x800000) ∧ (0x800000 * 2 + 1) / 2 = 0x800000 ∧
    victimWay (waysOf w 2 (regionOfHbm (0x800000 * 128)) (Machine.setOf 0x800000)) [] = some 0 ∧
    localRange w 2 0x48000000 1 = none ∧ (partOf wc 2).flushBusy = none ∧ (partOf wc 2).hbmBase ≤ 0x40000000 ∧
    0x40000000 + 0x8000000 ≤ hbmEnd (partOf wc 2) ∧ (partOf wc 3).flushBusy = some (true, 0x40000000, 128) := by decide +kernel

theorem witness_CachesAndHbm_prefetch : tgetD 3 .idle (regionOf wpf 0).prefetchers = .streaming 0x40000000 128 16 0 2 0 ∧
    tgetD 0 .idle (regionOf wpf 0).prefetchers = .streaming 0x40000000 128 15 62 2 0 ∧ prefetchable wpf 0 2 (0x40000000 + 128 * (15 + 1)) = true ∧
    waysOf wpf 2 0 (Machine.setOf (0x40000800 / 128)) ≠ [] ∧ ((regionOf wpf 0).lines.any fun y => y.line == 0x40000800 / 128) = false ∧
    tgetD 5 .idle (regionOf wpf 0).prefetchers = .streaming 0x40000000 128 15 63 2 0 ∧
    tgetD 6 .idle (regionOf wpf 0).prefetchers = .streaming 0x48000000 128 0 0 2 0 ∧ prefetchable wpf 0 2 (0x48000000 + 128) = false ∧
    tgetD 1 .idle (regionOf wpf 0).prefetchers = .hinted hint0 0 0 2 0 ∧ 0 < 0 + hint0.distance ∧ 0 < hint0.count ∧
    tgetD 4 .idle (regionOf wpf 0).prefetchers = .hinted hint0 1 0 2 0 ∧ 0 + hint0.distance ≤ 1 ∧ (regionOf wpf 0).hintQueue = [] := by decide +kernel

theorem witness_CachesAndHbm_misses :
    ((regionOf wpf 0).prefetchers.any fun e => covered 2 (0x40000000 + 128 * 16) e.2) = true ∧ (0x40000800 : Int) = 0x40000000 + 128 * 16 ∧
    ((regionOf wpf 0).prefetchers.any fun e => covered 2 0x40020000 e.2) = false ∧
    (regionOf wpf 0).prefetchers.find? (fun e => trains 2 0x40020000 e.2) = some (2, .training 0x40010000 0x10000 2 0 2) ∧
    (0x40020000 : Int) - 0x40010000 = 0x10000 ∧ (regionOf w 6).prefetchers.find? (fun e => trains 2 0 e.2) = none ∧ freePrefetcher (regionOf w 6) = some 0 ∧
    ((regionOf wpf 5).prefetchers.any fun e => covered 2 0x40020000 e.2) = false ∧ (regionOf wpf 5).prefetchers.find? (fun e => trains 2 0x40020000 e.2) = none ∧
    freePrefetcher (regionOf wpf 5) = none := by decide +kernel
/-! Power, thermal state, supplies and reset -/

def wk (p : Power) (h : Thermal) : State := { w with power := p, thermal := h }

theorem witness_PowerAndThermal : (wk { inputW := 9, lowering := true, stretch := 16, hold := 15 } {}).power.lowering = true ∧ (16 ≤ 16 ∧ 15 ≤ 15) ∧
    (wk { raising := true, stretch := 1 } {}).power.lowering = false ∧ (wk { raising := true, stretch := 1 } {}).power.raising = true ∧
    (wk {} {}).power.phases = [] ∧ (wk {} {}).power.raising = false ∧ (wk {} {}).power.lowering = false ∧ 400 ≤ (wk {} {}).power.cclkRun ∧
    RegPath.smbus ∈ [RegPath.pf, .smbus, .i3c, .mctp] ∧ (1350 : Word).toNat % 2 ^ 11 % 25 = 0 ∧ (399 : Word).toNat % 2 ^ 11 < 400 ∧ 1350 < (1351 : Word).toNat % 2 ^ 11 ∧
    tget 7 (wk {} { sensors := [(7, 760)] }).thermal.sensors = some 760 ∧ ((wk {} {}).thermal.throttle * 8 : Int) ≤ 760 ∧
    (∀ e, e ∈ (wk {} { sensors := [(7, 736)] }).thermal.sensors → e.2 + 24 ≤ (95 * 8 : Int)) ∧
    ((wk {} {}).thermal.alert * 8 : Int) ≤ 800 ∧ ((wk {} {}).thermal.hbmAlertAt * 8 : Int) ≤ 760 ∧ (110 : Int) * 8 ≤ 880 ∧ (105 : Int) * 8 ≤ 840 := by decide +kernel

theorem witness_SupplyAndReset : (wk { phases := [64] } {}).power.phases.contains (1 * 64 + 0 % 64) = true ∧ w.power.phases.contains (1 * 64 + 63 % 64) = false ∧
    State.reset.supplies.resetHeld = true ∧ mayBoot State.reset = true ∧ State.reset.flash.slotA.valid = true ∧ State.reset.flash.activeB = false ∧
    State.reset.pkg.state = 0 ∧ ({ State.reset with supplies := { mainOn := true } } : State).supplies.mainOn = true := by decide +kernel
/-! Registers -/

/-- An UP pair of ports with one peer, a disabled ring with its addresses set, and a queue. -/
def wr : State :=
  { wq with
    pkg := { state := 1 }
    lantern := { w.lantern with ports := [(4, { state := 2, peerModule := 9 }), (5, { state := 2, peerModule := 9 })] }
    rings := [(ringKey 16 3, { ring0 with enabled := false, recordAddr := 0x300000 })] }

theorem witness_Registers : wr.pkg.moduleId = none ∧ ({ wr with pkg := { moduleId := some 5 } } : State).pkg.moduleId ≠ none ∧
    ((0x7F : Word).truncate 7 : BitVec 7) &&& wr.pkg.lock = 0 ∧ (0x52 : Word).toNat % 4 ≤ 2 ∧ (0x52 : Word).toNat / 16 % 8 ≤ 5 ∧ wr.pkg.lock.getLsbD 1 = false ∧
    wr.pkg.lock.getLsbD 5 = false ∧ isUp (portOf wr 5) = true ∧ isUp (portOf wr 0) = false ∧ (portOf wr 5).bond = 0 ∧ bondOk wr 5 0x30 = true ∧ bondOk wr 5 0x3F = false ∧
    ringOn (ringOf wr 16 3) = false ∧
    Machine.ringOk 16 { ringOf wr 16 3 with log2Size := (0x00000021 : Word).toNat / 2 % 32, vector := (0x00000021 : Word).toNat / 2 ^ 16 % 2 ^ 10 } = true ∧
    queueRef (queueHandle 7 3) = some (7, 3) ∧ queueOf wr 7 3 = some q3 ∧ wr.pkg.dbgView.length = 5 ∧ (0x8000000000000000 : Word).toNat = 2 ^ 63 ∧
    0x8000 % 8 = 0 ∧ wr.pkg.lock.getLsbD 4 = false ∧ (0x10 : BitVec 7).getLsbD 4 = true := by decide +kernel
/-! Compute commands, tiles and partial tiles -/

def epi0 : EpiParams := { bias := 0, alpha := 0x3F800000, beta := 0, seed := 0, stream := 0 }
def gemm0 : GemmParams := { head := h0, m := 16, n := 16, k := 32, batch := 1, a := 0x40000000, b := 0x40001000, d := 0x40002000, epi := epi0 }
def conv0 : ConvParams :=
  { head := h0, nb := 1, h := 4, w := 4, c := 8, oc := 16, kh := 1, kw := 1, sh := 1, sw := 1, dh := 1, dw := 1, pt := 0, pb := 0, pl := 0, pr := 0
    input := 0x40000000, weight := 0x40001000, output := 0x40002000, epi := epi0 }
def reduce0 : ReduceParams := { head := h0, op := 0, src := 0x40000000, dst := 0x40002000, outer := 1, extent := 4, inner := 2, window := 0, stride := 1 }
def attn0 : AttnParams :=
  { head := { h0 with template := 1 }, list := 0x40004000, count := 1, scale := 0x3F800000, q := 0x40000000, o := 0x40002000, qHeads := 1, kvHeads := 1, headDim := 16
    seed := 0, stream := 0, drop := 0 }
def entry0 : AttnEntry :=
  { qRow := 0, qCount := 1, causal := true, bitmap := false, isNull := false, saveStats := true, kvLen := 0, pageList := 0x40003000, newKv := 0x40001000, mask := 0
    stats := 0x40003800, stride := 0 }
def run0 : AttnRun := { part := 2, t := tmA, p := attn0, bptl := 64, layers := 2, exact := false, chunk := 256 }

/-- A matrix command of a product. -/
def mat0 (m k : Nat) (conv : Option ConvParams) (prods : List (MatItem × Nat × Nat)) : MatCmd :=
  { c := c1, plan := plan1, t := tm0, h := h0, n := 16, k := k, sizeM := m, epi := epi0, conv := conv, prods := prods, lda := k, ldb := 16 }

/-- The products of a GEMM, of a pointer list of one entry, and of a CONV. -/
def matG : MatCmd := mat0 16 32 none (gemmProds tm0 gemm0)
def matP : MatCmd := mat0 16 32 none [({ a := 0x40000000, b := 0x40001000, d := 0x40002000, m := 16 }, 0x40000000, 0x40001000)]
def matC : MatCmd := mat0 16 8 (some conv0) [({ a := conv0.input, b := conv0.weight, d := conv0.output, m := 16 }, conv0.input, conv0.weight)]

/-- A pointer list of one entry of 16 rows, and an attention list of one entry. -/
def listBytes : List Byte := toLe 8 0x40000000 ++ toLe 8 0x40001000 ++ toLe 8 0x40002000 ++ toLe 2 16
def entryBytes : List Byte := toLe 4 0 ++ toLe 4 0 ++ toLe 2 1 ++ toLe 2 9 ++ toLe 4 0 ++ toLe 8 0x40003000 ++ toLe 8 0x40001000 ++ toLe 8 0 ++ toLe 8 0x40003800

def wm : State := { wp with mem := { hbm := mwriteN 0x40004000 entryBytes (mwriteN 0x40005000 listBytes []) } }

def prod0 : Machine.Prod :=
  { item := { a := 0x40000000, b := 0x40001000, d := 0x40002000, m := 16 }, base := baseDesc 0 tm0 h0 .square 0x40000000 0x40001000 0 0 32 16 false false false false }

theorem witness_Products : planOf wm 2 1 0 = some (plan1, tm0) ∧ plan1.coresRequired ≤ activeCores wm 2 ∧ tm0.isMatrix = true ∧ gemm0.batch ≤ 65535 ∧
    matG.sizeM = ((gemmProds tm0 gemm0).map fun e => e.1.m).headD gemm0.m ∧ (gemmProds tm0 gemm0).length ≤ 1 ∧
    drawsExceed h0 16 = false ∧ prodsCheck wm matG 16 32 = none ∧ bucketFor tm0.bucketsM 16 = some (0, 16) ∧ bucketFor tm0.bucketsN 16 = some (0, 16) ∧
    bucketFor tm0.bucketsK 32 = some (0, 32) ∧ bucketFor tm0.bucketsC 8 = some (0, 8) ∧ bucketFor tm0.bucketsK 8 = some (0, 32) ∧ bucketFor tm0.bucketsK 0 = some (0, 32) ∧
    pickIndex wm 2 1 0 (comboOf tm0 0 0 0) plan1 tm0 16 16 32 = some 0 ∧ (candidatesAt tm0 (comboOf tm0 0 0 0))[0]? = some cand0 := by decide +kernel

theorem witness_Products_tiles : rangeExceeded wm matG wm.nextJob cand0 = false ∧
    (todoOf wm matG wm.nextJob cand0 16 16 32).length = 1 ∧ ((todoOf wm matG wm.nextJob cand0 16 16 32).all fun e => legalTile e.2) = true ∧
    (todoOf wm matG wm.nextJob { cand0 with kt := 31, gk := 1 } 16 16 32).any (fun e => !legalTile e.2) = true ∧
    rangeExceeded wm matC wm.nextJob cand0 = false ∧ (todoOf wm matC wm.nextJob cand0 16 16 32).length = 1 ∧
    ((todoOf wm matC wm.nextJob cand0 16 16 32).all fun e => legalTile e.2) = true := by decide +kernel

theorem witness_Products_lists : localRange wm 2 0x40005000 (32 * 1) = some (.hbm, 0x40005000) ∧ readsPoison wm .hbm 0x40005000 (32 * 1) = false ∧
    fieldAt (readGlobal wm 0x40005000 32) 24 2 = 16 ∧ (BitVec.ofNat 8 (fieldAt (readGlobal wm 0x40005000 32) 26 1)).getLsbD 0 = false ∧
    (matP.prods.map fun e => (e.1.a, e.1.b, e.1.d, e.1.m)) = [(fieldAt (readGlobal wm 0x40005000 32) 0 8, fieldAt (readGlobal wm 0x40005000 32) 8 8,
      fieldAt (readGlobal wm 0x40005000 32) 16 8, 16)] ∧ prodsCheck wm matP 16 32 = none ∧
    (∀ y, y < 1 → fieldAt (readGlobal wm (0x40006000 + 32 * y) 32) 24 2 = 0) ∧ localRange wm 2 0x40006000 (32 * 1) = some (.hbm, 0x40006000) := by decide +kernel

/-- The same plan with its matrix template as a CONV's. -/
def tmC : Template := { tm0 with isConv := true, isMatrix := false }

theorem witness_Products_conv : convRange tmC conv0 = true ∧ conv0.nb * convOut 4 0 0 1 1 1 * convOut 4 0 0 1 1 1 = 16 ∧
    operandOk wm 2 conv0.input (operandBytes tmC.fmtA (conv0.nb * conv0.h) (conv0.w * conv0.c)) = true ∧
    prodsCheck wm { matC with t := tmC } 2 8 = none ∧
    planOf { wm with plans := [(1, { plan1 with body := { body0 with templates := [tmC] } })] } 2 1 0 =
      some ({ plan1 with body := { body0 with templates := [tmC] } }, tmC) := by decide +kernel

theorem witness_Products_refusals : planOf wm 2 7 0 = none ∧ tmA.isMatrix = false ∧ planOf wm 2 1 1 = some (plan1, tmA) ∧ tm0.isConv = false ∧
    activeCores { wm with units := {} } 2 < plan1.coresRequired := by decide +kernel

theorem witness_TilesCoverProduct : 0 < cand0.gm ∧ 0 < cand0.gn ∧ 0 < cand0.gk ∧ 0 < cand0.mt ∧ 0 < cand0.nt ∧ 0 < cand0.kt ∧ 15 < 16 ∧ 31 < 32 := by decide +kernel

theorem witness_OtherComputeRuns : tget 1 wm.plans = some plan1 ∧ plan1.part = c1.part ∧ 0 < plan1.body.programs.length ∧ operandOk wm c1.part 0x40000000 0 = true ∧
    reduceCheck wm c1 tm0 reduce0 = none ∧ reduce0.head.sr = false ∧ isMx tm0.fmtOut = false ∧ elemBits tm0.fmtOut = 8 * 4 ∧ reducePositions reduce0 = 1 ∧
    localRange wm 2 reduce0.dst (1 * 1 * 2 * 4) = some (.hbm, 0x40002000) ∧ (∀ x, x < 8 → isOffline wm .hbm (0x40002000 + x) = false) := by decide +kernel

theorem witness_OtherComputeRuns_attention : planOf wm 2 1 1 = some (plan1, tmA) ∧ tmA.isAttn = true ∧ attn0.list % 64 = 0 ∧ attn0.count ≤ 4096 ∧
    operandOk wm 2 attn0.list (64 * 1) = true ∧ globalPoisoned wm attn0.list (64 * 1) = false ∧
    attnEntries wm attn0.list attn0.count = [entry0] ∧ attnDraws attn0 (max 1 (2 * 1)) [entry0] = false ∧ entryCheck wm run0 (maxOf plan1.body.kvBuckets) entry0 = none ∧
    bucketFor plan1.body.kvBuckets (maxOf ([entry0].map AttnEntry.keys)) = some (0, 64) ∧
    pickIndex wm 2 1 1 0 plan1 tmA (max 1 (maxOf tmA.bucketsM)) (max 1 (maxOf tmA.bucketsN)) 64 = some 0 ∧ (candidatesAt tmA 0)[0]? = some cand0 ∧
    furtherCheck wm 2 [] [entryRows attn0.o 0 16 entry0] = none ∧
    furtherCheck wm 2 [entryRows attn0.o 0 16 entry0, entryRows 0x40006000 0 16 entry0, (entry0.stats, 8)]
      [entryRows 0x40007000 0 16 entry0, entryRows 0x40008000 0 32 entry0] = none := by decide +kernel

/-- A tile of a product in two chunks, and one of a single chunk. -/
def tile0 : TileDesc :=
  { baseDesc 0 tm0 h0 .square 0x40000000 0x40001000 0 0 32 16 false false false false with mt := 16, nt := 16, kt := 32, chunks := 2 }
def tile1 : TileDesc := { tile0 with chunks := 1, job := 1 }
def jobOf0 (todo : List (Nat × TileDesc)) : MatJob := jobOfMat (mat0 16 32 none []) [{ a := 0x40000000, b := 0x40001000, d := 0x40002000, m := 16 }] todo 1

/-- One piece of a partial tile of the first of two chunks. -/
def part0 : Partial := { job := 0, part := 2, epoch := 0, core := 0, item := 0, row := 0, col := 0, chunk := 1, chunks := 3, pieces := 0, data := [], exact := [] }
def sum0 : Combining := { job := 0, item := 0, row := 0, col := 0, next := 1, data := [], exact := [] }

def wt : State :=
  { wp with
    jobs := [(0, jobOf0 [(0, tile0)]), (1, jobOf0 [(1, tile1)]), (2, { job3 with cmd := c2 })]
    cores := [(0, { tiles := [{ desc := tile0 }], work := [tile0], credits := 1 }), (1, { tiles := [{ desc := tile1, reissues := 2 }], credits := 2 }),
      (2, { tiles := [{ desc := tile1, reissues := 1, restoring := true }], work := [{ tile1 with kt := 65536 }] }),
      (3, { tiles := [{ desc := { tile1 with job := 9 } }], partials := [{ part0 with pieces := 4 }], credits := 1 }), (4, { work := [{ tile1 with kt := 65536 }] }),
      (5, { haloWait := true, work := [tile0] }), (6, { tiles := [{ desc := { tile1 with job := 2 } }, { desc := { tile1 with job := 2 } }] }),
      (7, { tiles := [{ desc := tile1, reissues := 1 }] })]
    combine := [(0, ([part0], [sum0])), (1, ([{ part0 with epoch := 1 }], [])), (2, ([{ part0 with pieces := 3 }], [sum0])),
      (3, ([{ part0 with chunk := 0 }], [])), (4, ([{ part0 with chunk := 2 }], [{ sum0 with next := 2 }]))] }

/-- A brush program's descriptor, and one whose second row of A starts on an odd byte. -/
def tileB : TileDesc := { tile1 with job := 2 }
def tileOdd : TileDesc := { tileB with loopsA := [(16, 1)] }

/-- The same with a hard pre-emption of the holder due. -/
def wts : State := { wt with parts := [(2, { p2 with jobs := [(3, { hard := some c1 })], holder := some 3 })] }

theorem witness_TilesAndPartials : mayIssue wt 0 = true ∧ legalTile tile0 = true ∧ mayIssue wt 4 = true ∧ legalTile { tile1 with kt := 65536 } = false ∧
    haloDue wt 0 = false ∧ haloDue wt 4 = false ∧ groupsOf wt 0 0 = [] ∧ groupsOf wt 4 1 = [] ∧ (coreOf wt 0).haloWait = false ∧
    wt.keepers.takingOver.contains 0 = false ∧ tget 1 wt.jobs = some (jobOf0 [(1, tile1)]) := by decide +kernel

theorem witness_TilesAndPartials_brush : (coreOf wt 6).work.head? ≠ some tileB ∧ isMatrixTile wt tileB = false ∧ mayAccept wt 6 = true ∧ mayAccept wt 3 = true ∧
    (coreOf wt 6).tileWait = none ∧ legalTile tileB = true ∧ loopsAligned tileB = true ∧ loopsAligned tileOdd = false ∧ legalTile tileOdd = true ∧
    tget 2 wt.jobs = some { job3 with cmd := c2 } ∧ ¬ (coreOf wt 6).tiles.length < 2 ∧ (coreOf wt 3).tiles.length < 2 := by decide +kernel

theorem witness_TilesAndPartials_completions : spaceHeld (coreOf wt 1) tile1 = false ∧ readOutBad wt 1 tile1 = false ∧ readOutBad wt 0 tile0 = false ∧
    stopDue wt 0 = false ∧ stopDue wt 1 = false ∧ (coreOf wt 1).accWaits = [] ∧ tilePoison wt none tile0 = none ∧ tilePoison wt none tile1 = none ∧ (coreOf wt 1).tileWait = none ∧
    tilePoison { wt with mem := { poisonHbm := [0x40000000 / 64] } } none tile1 = some 0x40000000 ∧
    tget 9 wt.jobs = none ∧ tile0.lastK = true ∧ 1 < tile0.chunks ∧ tile1.chunks ≤ 1 ∧
    ((jobOf0 [(1, tile1)]).todo.filter fun e => !(e.2.item == tile1.item && e.2.rowOff == tile1.rowOff && e.2.colOff == tile1.colOff)) = [] ∧
    ((jobOf0 [(1, tile1), (2, { tile1 with rowOff := 16 })]).todo.filter fun e =>
      !(e.2.item == tile1.item && e.2.rowOff == tile1.rowOff && e.2.colOff == tile1.colOff)) ≠ [] ∧
    ((coreOf wt 1).tiles.map (·.reissues)) = [2] ∧ ((coreOf wt 2).tiles.map (·.restoring)) = [true] := by decide +kernel

theorem witness_TilesAndPartials_faults : residueMismatch wt none tile1 0 0 1 = true ∧ residueMismatch wt none tile1 0 0 15 = false ∧
    tile1.exact = false ∧ (1 : Lane) ≠ 2 ∧ ((coreOf wt 7).tiles.map fun x => (x.reissues, x.upset)) = [(1, [])] ∧ stopDue wts 7 = true ∧ stopDue wt 7 = false ∧
    (wt.reports.countP fun q => q.1 == 1 && q.2.1 == blockOfCore 1) < 16 ∧ stopDue wt 2 = false := by decide +kernel

theorem witness_TilesAndPartials_partials : (coreOf wt 3).partials = [{ part0 with pieces := 4 }] ∧ 0 < (coreOf wt 3).credits ∧
    (coreOf wt 0).credits + bufferedOf wt 0 = 2 ∧ (coreOf wt 3).credits + bufferedOf wt 3 < 2 ∧
    ((tgetD 1 ([], []) wt.combine).1.find? (isStale wt)).map (·.epoch) = some 1 ∧ (tgetD 0 ([], []) wt.combine).1.find? (isStale wt) = none ∧
    (tgetD 0 ([], []) wt.combine).1.find? (fun q => nextChunk [sum0] q == q.chunk) = some part0 ∧ [sum0].find? (sameOut part0) = some sum0 ∧
    part0.chunk ≠ 0 ∧ sum0.next + 1 < part0.chunks ∧ (tgetD 2 ([], []) wt.combine).1.find? (fun q => nextChunk [sum0] q == q.chunk) = some { part0 with pieces := 3 } ∧
    (tgetD 3 ([], []) wt.combine).1.find? (isStale wt) = none ∧ (tgetD 3 ([], []) wt.combine).1.find? (fun q => nextChunk [] q == q.chunk) = some { part0 with chunk := 0 } ∧
    (tgetD 4 ([], []) wt.combine).1.find? (isStale wt) = none ∧
    (tgetD 4 ([], []) wt.combine).1.find? (fun q => nextChunk [{ sum0 with next := 2 }] q == q.chunk) = some { part0 with chunk := 2 } ∧ 3 ≤ 2 + 1 := by decide +kernel
/-! Serving -/

/-- A decoding sequence of 70 positions with one private page of 16 KiB. -/
def seq0 : Seq :=
  { handle := 0x00030000, state := .decode, priority := 1, part := 2, model := 0, client := 5, length := 32, maxLength := 64, promptLength := 16, prefilled := 16
    pendingTok := 9, promptAddr := 0x42000000, pages := [⟨0x10000, 0, false⟩], tokenRec := 0x43000000, temperature := 0, topK := 0, seed := 0, stopTok := 0xFFFFFFFF }

def step0 : BatchStep :=
  { cmd := c1, model := 0, gen := 4, mixed := false, entries := [{ seq := 0, count := 1, prefill := false }], leftOut := [], result := 0x44000000 }

/-- Plan 1 with its two layers active, a decoding, a swapped and a finished sequence, and the swap of a fourth in flight. -/
def wv : State :=
  { wp with
    parts := [(2, { p2 with gens := { layers := [(0, { active := { state := .active, gen := 4 } }), (1, { active := { state := .active, gen := 4 } })] } })]
    channels := [(channelKey 0 15, { serial := 1, transfers := [{ copy0 with purpose := .swapIn none 3 }] })]
    serving := { wp.serving with
      seqs := [(0, seq0), (1, { seq0 with handle := 1, state := .swapped }), (2, { seq0 with handle := 2, state := .finished }), (3, { seq0 with handle := 3, state := .swapped })]
      refs := [(0x10000, (0, 1))] } }

/-- The same with a step of the first sequence running. -/
def ws : State := { wv with serving := { wv.serving with steps := [(2, step0)] } }

theorem witness_SequencesLive : seqCreateCheck wv 2 0 0 5 64 63 0x42000000 0x43000000 0 = none ∧ freeSeqEntry wv 2 = some 4 ∧
    checkList wv 2 0x42000000 (4 * 63) 1 = none ∧ modelPlan wv 2 0 ≠ none ∧ seqRef wv 0x30001 = none ∧ seqRef wv 0x00030000 = some (0, seq0) ∧
    seq0.part = c1.part ∧ seq0.state ≠ .shadow ∧ swapping wv 0 = false ∧ tget 2 ws.serving.steps = some step0 ∧ (step0.entries.any fun e => e.seq == 0) = true ∧
    inStep wv seq0 0 = false ∧ checkList wv 2 0x45000000 (4 * 16) 1 = none ∧ seq0.promptLength ≤ 16 ∧ 32 ≤ seq0.length ∧ seqRef wv seq0.shadow = none ∧
    checkOperand wv 2 0x46000000 (16 * 64) 1 = none ∧ (partOf wv 2).gens.retires = [] := by decide +kernel

theorem witness_SequencesLive_forks :
    (forkPages 2 0 seq0.pages 0 [] wv).isSome = true ∧ seq0.pages.length ≤ 8192 ∧ ((forkPages 2 0 seq0.pages 0 [] wv).map fun x => decide (x.1.length ≤ 8192)) = some true := by
  decide +kernel

/-- A second model, and a sequence whose shadow stands in entry 1; one all of whose pages are shared. -/
def wfb : State :=
  { wv with
    plans := [(1, plan1), (2, plan1)]
    serving := { wv.serving with seqs := [(0, { seq0 with shadow := 1 }), (1, { seq0 with handle := 1, state := .shadow }), (2, { seq0 with handle := 2, pages := [⟨0x10000, 0, true⟩] }),
      (3, { seq0 with handle := 3, state := .swapped, pages := [⟨0x10000, 0, true⟩] })] } }

theorem witness_SequencesLive_fallbacks : seqRef wfb 1 = some (1, { seq0 with handle := 1, state := .shadow }) ∧
    fallbackCheck wfb seq0 1 = none ∧ freeSeqEntry wfb 2 = some 4 ∧ (1 : Nat) ≠ 0xFF ∧ (5 : BitVec 64) ≠ 0 := by decide +kernel

theorem witness_SequencesLive_swaps : swapping wv 3 = true ∧ seqRef wv 3 = some (3, { seq0 with handle := 3, state := .swapped }) ∧ pickChannel wv 0 255 = some 0 ∧
    privateSize seq0 ≠ 0 ∧ checkOperand wv 2 (ownModule wv * 2 ^ 47 + 0x400000000000 + 0x1000) (privateSize seq0) 1 = none ∧
    (refill 2 0 seq0.pages 0 [] wv).map (·.1) = some [⟨0x10001, 0, false⟩] ∧ seqRef wv 1 = some (1, { seq0 with handle := 1, state := .swapped }) ∧
    swapping wv 1 = false ∧ swapping wv 2 = false ∧ seqRef wv 2 = some (2, { seq0 with handle := 2, state := .finished }) := by decide +kernel

theorem witness_SequencesLive_sharedPages : seqRef wfb 2 = some (2, { seq0 with handle := 2, pages := [⟨0x10000, 0, true⟩] }) ∧
    seqRef wfb 3 = some (3, { seq0 with handle := 3, state := .swapped, pages := [⟨0x10000, 0, true⟩] }) ∧ swapping wfb 2 = false ∧ swapping { wfb with channels := [] } 3 = false ∧
    seqRef { wfb with channels := [] } 3 = some (3, { seq0 with handle := 3, state := .swapped, pages := [⟨0x10000, 0, true⟩] }) ∧
    (∀ p, p ∈ [(⟨0x10000, 0, true⟩ : PageRef)] → p.shared = true) ∧ checkOperand wfb 2 (ownModule wfb * 2 ^ 47 + 0x400000000000 + 0x1000) 0 1 = none := by decide +kernel

/-- Client 5 has a record. -/
def wcl : State := { wv with serving := { wv.serving with clients := [{ part := 2, client := 5 }] } }

theorem witness_SequencesLive_accounts :
    accountCheck wv c1 0 0x00030000 0x41000000 (accountBytes wv c1 0 0 0x00030000).length = none ∧
    localRange wv 2 0x41000000 (accountBytes wv c1 0 0 0x00030000).length = some (.hbm, 0x41000000) ∧ (accountBytes wv c1 0 0 0x00030000).length = 128 ∧
    (∀ a, a < 128 → isOffline wv .hbm (0x41000000 + a) = false) ∧
    accountCheck wcl c1 1 0 0x41000000 (accountBytes wcl c1 1 5 0).length = none := by decide +kernel

/-- The expert statistics are four bytes for each of 65,536 experts (R262; log entry 49). -/
theorem accountBytes_statistics_length (s : State) (c : Cmd) (client : Nat) (x : BitVec 32) : (accountBytes s c 3 client x).length = 65536 * 4 := by
  have h : ∀ (n : Nat) (f : Nat → List Byte), (∀ e, (f e).length = 4) → ((List.range n).flatMap f).length = n * 4 := by
    intro n f hf
    simp [List.length_flatMap, hf]
  exact h 65536 _ fun e => rfl

theorem witness_SequencesLive_statistics : accountCheck wcl c1 3 0 0x41000000 (accountBytes wcl c1 3 0 0).length = none := by
  rw [accountBytes_statistics_length]; decide +kernel

theorem witness_StepsComposeAndCommit : seqStepCheck wv c1 0 0 1 0x44000000 (min 1 4096) = none ∧ modelGen wv 2 0 = some 4 ∧
    (compose wv (predictedEnd wv 2 0 0) 512 1 1 ((readyList wv 2 0).filter fun x => x.2.oldGen == drainedGen (readyList wv 2 0))).map (·.seq) = [0] ∧
    seqStepCheck { wv with serving := {} } c1 0 8192 65536 0x44000000 4096 = none ∧ readyList { wv with serving := {} } 2 0 = [] ∧
    tget 2 wv.serving.steps = none := by decide +kernel

/-- The greedy entry's logits, and the rows its layers' scatters bring. -/
def logits0 : List StepLogits := [{ seq := seq0.handle, rows := [[0, 1]], kv := [List.replicate 64 0, List.replicate 64 0] }]

theorem witness_StepsComposeAndCommit_commit :
    tget 2 ws.serving.steps = some step0 ∧ cmdStopped ws step0.cmd = false ∧ (jobOf (partOf ws 2) (jobOfCmd step0.cmd)).soft = none ∧
    (partOf ws 2).gens.flips = [] ∧ (partOf ws 2).gens.retires = [] ∧ step0.held = [] ∧ step0.leftOut = [] ∧ tget 0 ws.serving.seqs = some seq0 ∧ seq0.lag = 0 ∧
    seq0.verify = none ∧ isGreedy seq0 = true ∧ seq0.length + 1 < seq0.maxLength ∧ seqRef ws seq0.shadow = none ∧ modelPlan ws 2 0 = some plan1 ∧
    ([List.replicate 64 0, List.replicate 64 0] : List (List Byte)).map List.length = List.replicate plan1.body.layers plan1.body.bptl ∧
    logitsOk ws step0 logits0 = true ∧ logitsOk ws step0 [] = false := by decide +kernel
/-! Learning -/

/-- Group 3 of partition 2: module 9, this module, modules 4 and 5; module 0 is its member 1 and a leaf of member 0. -/
def group0 : Group := { part := 2, kind := 0, members := [⟨9, 0, 1⟩, ⟨0, 0, 1⟩, ⟨4, 0, 1⟩, ⟨5, 0, 1⟩] }
/-- The same group with this module at its root. -/
def group1 : Group := { group0 with members := [⟨0, 0, 1⟩, ⟨9, 0, 1⟩] }
/-- A group of partition 3. -/
def group2 : Group := { group1 with part := 3 }

def red0 : Reduction := { cmd := some c1, bucket := none, format := 0, addr := 0x40000000, length := 64 }
def bucket0 : Bucket := { base := 0x40000000, mib := 32, first := 0, last := 1 }
def norm0 : NormRun := { cmd := c1, group := 4, layers := 1, skip := true, maxNorm := 0x3F800000, own := [0x3F800000] }

def node0 : NormNode := { part := 2, children := 2, kids := [9], arrived := [(0, ([0x3F800000], none))] }
def node1 : NormNode := { part := 2, children := 3 }
/-- A node below another module's, one child from complete, and one that gave up. -/
def node2 : NormNode := { node0 with parent := some 9 }
def node3 : NormNode := { node1 with timedOut := true }

def wn : State :=
  { w with
    lantern := { w.lantern with
      groups := [(3, group0), (4, group1), (5, group2)]
      norms := [(normKey 4, node0), (normKey 9, node1)] }
    parts := [(2, { p2 with learning := { group := 3, buckets := [bucket0, { bucket0 with filled := true }], reductions := [(4, [red0])], norm := some norm0 } }), (3, p2)] }

/-- No norm runs, and the reduction of group 4 is at its last step of one before the end. -/
def wn1 : State := { wn with parts := [(2, { p2 with learning := { reductions := [(3, [{ red0 with step := 1 }]), (4, [{ red0 with step := 1 }])] } }), (3, p2)] }

/-- Reductions in true colour: a command's at its last step of three, and a bucket's on the ring of two at its last. -/
def wn2 : State :=
  { wn with
    lantern := { wn.lantern with norms := [(normKey 4, node2), (normKey 9, node3)] }
    parts := [(2, { p2 with learning := { exact := true, group := 4, buckets := [bucket0], reductions := [(3, [{ red0 with exact := true, step := 8 }]), (4, [{ red0 with cmd := none, bucket := some 0, step := 1 }])]
                                          norm := some norm0 } }), (3, p2)] }

theorem witness_Learning : (4 ≤ 4 ∧ 2 ≤ 2 ∧ 131072 ≤ 131072) ∧ tget 8 wn.lantern.groups = none ∧ wn.lantern.groups.length < 256 ∧ tget 3 wn.lantern.groups = some group0 ∧
    groupCheck wn 2 3 = none ∧ checkOperand wn 2 0x40000000 (32 * 0x100000) 1 = none ∧ checkOperand wn 2 0x47FFFFE0 (32 * 1) 1 = none ∧
    ringFormatOk 0 64 = true ∧ checkList wn 2 0x40000000 64 1 = none ∧ ringPlace wn 2 3 = some ⟨4, 1, 4, 9, 0, 1⟩ ∧ tgetD 3 [] (partOf wn 2).learning.reductions = [] ∧
    tgetD 4 [] (partOf wn 2).learning.reductions = [red0] ∧ ringPlace wn 2 4 = some ⟨2, 0, 9, 9, 0, 1⟩ ∧ (partOf wn 2).learning.buckets[0]? = some bucket0 ∧
    (partOf wn 2).learning.buckets[1]? = some { bucket0 with filled := true } ∧ (partOf wn 2).learning.group = 3 := by decide +kernel

theorem witness_Learning_rings :
    tgetD 3 [] (partOf wn1 2).learning.reductions = [{ red0 with step := 1 }] ∧ ringPlace wn1 2 3 = some ⟨4, 1, 4, 9, 0, 1⟩ ∧ 1 + 1 < 4 - 1 ∧
    tgetD 4 [] (partOf wn1 2).learning.reductions = [{ red0 with step := 1 }] ∧ ringPlace wn1 2 4 = some ⟨2, 0, 9, 9, 0, 1⟩ ∧ 1 + 1 = 2 * (2 - 1) ∧ cmdStopped wn c1 = false ∧
    red0.exact = false ∧ tgetD 3 [] (partOf wn2 2).learning.reductions = [{ red0 with exact := true, step := 8 }] ∧ 8 + 1 = 3 * (4 - 1) ∧
    tgetD 4 [] (partOf wn2 2).learning.reductions = [{ red0 with cmd := none, bucket := some 0, step := 1 }] ∧ (partOf wn2 2).learning.exact = true ∧
    (partOf wn2 2).learning.buckets[0]? = some bucket0 := by decide +kernel

/-- No norm node has been made yet. -/
def wn3 : State := { wn1 with lantern := { wn1.lantern with norms := [] } }

theorem witness_Learning_norms : groupCheck wn1 2 3 = none ∧ (partOf wn1 2).learning.norm = none ∧ tget 3 wn1.lantern.groups = some group0 ∧
    (tgetD (normKey 3) {} wn1.lantern.norms).timedOut = false ∧ tget 0 (tgetD (normKey 3) {} wn1.lantern.norms).arrived = none ∧ groupKids wn1 group0 = [] ∧
    groupParent wn1 group0 = some 9 ∧ groupKids wn1 group1 = [9] ∧ groupCheck wn3 2 4 = none ∧ tget 4 wn3.lantern.groups = some group1 ∧
    tget 0 (tgetD (normKey 4) {} wn3.lantern.norms).arrived = none := by decide +kernel

theorem witness_Learning_nodes : tget (treeKey 0 9) wn.lantern.norms = some node1 ∧ node1.timedOut = false ∧ tget 1 node1.arrived = none ∧
    allArrived { node1 with arrived := tput 1 ([], none) node1.arrived } = none ∧ allArrived node1 = none ∧
    tget (treeKey 0 4) wn.lantern.norms = some node0 ∧ node0.timedOut = false ∧ tget 1 node0.arrived = none ∧ node0.parent = none ∧ node0.part = c1.part ∧
    allArrived { node0 with arrived := tput 1 ([0], some 9) node0.arrived } = some [([0x3F800000], none), ([0], some 9)] ∧
    tget (treeKey 0 4) wn2.lantern.norms = some node2 ∧ node2.parent = some 9 ∧ tget (treeKey 0 9) wn2.lantern.norms = some node3 ∧ node3.timedOut = true ∧ allArrived node3 = none ∧
    allArrived { node2 with arrived := tput 1 ([0], some 9) node2.arrived } = some [([0x3F800000], none), ([0], some 9)] ∧
    (partOf wn 2).learning.norm = some norm0 ∧ normKey norm0.group = treeKey 0 4 ∧ norm0.cmd.trueColour = false := by decide +kernel

/-- An optimizer state block of one element at the start of the partition, with its arrays behind it. -/
def optBytes : List Byte :=
  toLe 4 0 ++ toLe 4 0x3F800000 ++ toLe 8 0 ++ toLe 8 1 ++ toLe 8 0x40000040 ++ toLe 8 0x40000080 ++ toLe 8 0x40000084 ++ toLe 8 0x40000088 ++ toLe 8 0x4000008C
def opt0 : OptParams :=
  { sgd := false, workingFormat := 1, sr := false, lr := 0x3F800000, b1 := 0, b2 := 0, eps := 0x3F800000, wd := 0, growth := 0, state := 0x40000000, seed := 0 }
def wu : State := { w with mem := { hbm := mwriteN 0x40000000 optBytes [] } }
/-- The same under SGD with a telemetry table of two records, and with the step marked skipped. -/
def wus : State := { wu with parts := [(2, { p2 with learning := { telemetry := 0x40001000, telemetryRecords := 2, skipped := true } })] }

theorem witness_OptimizerSteps : optCheck wu 2 opt0 (partOf wu 2).learning.format = none ∧ opt0.sgd = false ∧ (partOf wu 2).learning.telemetry = 0 ∧ (optBlock wu opt0.state).n = 1 ∧
    [((0x40000000 : Nat), 64), (0x40000080, 4), (0x40000084, 4), (0x4000008C, 2), (0x40000088, 4)].Pairwise (fun x y => x.1 + x.2 ≤ y.1 ∨ y.1 + y.2 ≤ x.1) ∧
    localRange wu 2 opt0.state 64 = some (.hbm, 0x40000000) ∧ localRange wu 2 (optBlock wu opt0.state).w 4 = some (.hbm, 0x40000080) ∧
    localRange wu 2 (optBlock wu opt0.state).m 4 = some (.hbm, 0x40000084) ∧ localRange wu 2 (optBlock wu opt0.state).v 4 = some (.hbm, 0x40000088) ∧
    localRange wu 2 (optBlock wu opt0.state).copy 2 = some (.hbm, 0x4000008C) ∧ 0x4000008C + 2 ≤ hbmTop ∧ (∀ a, a < 0x8E → isOffline wu .hbm (0x40000000 + a) = false) := by decide +kernel

theorem witness_OptimizerSteps_sgd : optCheck wus 2 { opt0 with sgd := true } (partOf wus 2).learning.format = none ∧ (partOf wus 2).learning.skipped = true ∧
    localRange wus 2 (partOf wus 2).learning.telemetry (32 * 2) = some (.hbm, 0x40001000) ∧ 0 < 2 ∧
    [((0x40000000 : Nat), 64), (0x40000080, 4), (0x40000084, 4), (0x4000008C, 2), (0x40001000, 64)].Pairwise (fun x y => x.1 + x.2 ≤ y.1 ∨ y.1 + y.2 ≤ x.1) ∧
    (∀ a, a < 64 → isOffline wus .hbm (0x40001000 + a) = false) ∧ 12 < ({ opt0 with workingFormat := 13 } : OptParams).workingFormat := by decide +kernel
/-! Generations, experts and buddy copies -/

def stage0 : StageCmd := { cmd := c1, model := 0, gen := 5, layers := [0], notice := 0xFFFFFFFF, noticeModule := 0, source := 0 }
def staging0 : Staging := { bytes := 1, crcTable := 0x42000000, chunks := 1 }

/-- Layer 0's only chunk of one byte matches its CRC-64; layer 1's has failed twice. -/
def wgen : State :=
  { wp with
    mem := { hbm := mwriteN 0x42000000 (toLe 8 (crc64 [0])) [] }
    parts := [(2, { p2 with gens := {
      layers := [(0, { active := { state := .active, gen := 4 }, standby := { state := .staging, gen := 5, addr := 0x41000000, bytes := 1 }, staging := some staging0 }),
        (1, { standby := { state := .staging, gen := 5, addr := 0x41000000, bytes := 1 }, staging := some { staging0 with crcTable := 0x42000008, fails := [(0, 2)] } }),
        (65536, { standby := { state := .staging, gen := 5 }, staging := some { staging0 with verified := [0], counter := 1 } }), (65537, { standby := { state := .staging }, staging := some { staging0 with crcTable := 0x42000008 } })]
      stagings := [stage0, { stage0 with layers := [1] }, { stage0 with model := 1 }, { stage0 with model := 1, layers := [1] }] } })]
    plans := [(1, plan1), (2, plan1)] }

/-- Both layers of model 0 COMPLETE in generation 5 over an active 4, those of model 1 partly. -/
def wflip : State :=
  { wp with
    plans := [(1, plan1), (2, plan1)]
    parts := [(2, { p2 with gens := {
      layers := [(0, { active := { state := .active, gen := 4 }, standby := { state := .complete, gen := 5 } }), (1, { active := { state := .active, gen := 4 }, standby := { state := .complete, gen := 5 } }),
        (65536, { standby := { state := .complete, gen := 5 } })] } })]
    serving := { wp.serving with seqs := [(0, { seq0 with oldGen := some 3 })] } }

def flip0 : FlipCmd := { cmd := c2, model := 0, atomic := false, gen := 5, layers := [1] }
def wflips : State := { wflip with parts := [(2, { p2 with gens := { (partOf wflip 2).gens with flips := [flip0], retires := [(c2, 0, 3)] } })] }

/-- A layer list of one layer of 2 MiB and a byte; and one of 30 MiB, where three plans leave no piece of that length free. -/
def wstage : State := { wp with mem := { hbm := mwriteN 0x40000000 (toLe 2 0 ++ toLe 6 0x200001 ++ toLe 8 0x42000000) [] } }
def wfull : State :=
  { wp with
    plans := [(1, { plan1 with addr := 0x42C00000 }), (2, { plan1 with addr := 0x44800000 }), (3, { plan1 with addr := 0x46400000 })]
    mem := { hbm := mwriteN 0x40000000 (toLe 2 0 ++ toLe 6 0x1E00000 ++ toLe 8 0x42000000) [] } }

theorem witness_GenerationsStaged :
    let es := (List.range 1).map fun k => layerEntry (readGlobal wstage (0x40000000 + 16 * k) 16)
    es = [(0, 0x200001, 0x42000000)] ∧ stageCheck wstage c1 5 60000 0x40000000 1 0xFFFFFFFF 0 0 es = none ∧ (partOf wstage 2).gens.stagings = [] ∧ (es.map (·.1)).Nodup ∧
    (es.foldl (fun o e => o.bind (openLayer 2 0 5 e)) (some (es.foldl (fun u e => modLayer 2 0 e.1 (fun l => { l with standby := {}, staging := none }) u) wstage)) ≠ none) := by decide +kernel

theorem witness_GenerationsStaged_noPlace :
    let es := (List.range 1).map fun k => layerEntry (readGlobal wfull (0x40000000 + 16 * k) 16)
    stageCheck wfull c1 5 60000 0x40000000 1 0xFFFFFFFF 0 0 es = none ∧ (partOf wfull 2).gens.stagings = [] ∧
    (es.foldl (fun o e => o.bind (openLayer 2 0 5 e)) (some (es.foldl (fun u e => modLayer 2 0 e.1 (fun l => { l with standby := {}, staging := none }) u) wfull)) = none) := by
  decide +kernel

theorem witness_GenerationsStaged_chunks :
    stageOf wgen 2 0 0 = some stage0 ∧ stage0.source = 0 ∧ (layerAt wgen 2 0 0).staging = some staging0 ∧ (layerAt wgen 2 0 0).standby.state = .staging ∧ staging0.counter < staging0.chunks ∧
    nextChunkOf staging0 = some 0 ∧ chunkOk wgen 2 0 0 0 staging0 = true ∧ stageOf wgen 2 0 1 = some { stage0 with layers := [1] } ∧
    chunkOk wgen 2 0 1 0 { staging0 with crcTable := 0x42000008 } = false ∧ (layerAt wgen 2 0 1).staging = some { staging0 with crcTable := 0x42000008, fails := [(0, 2)] } ∧
    stageOf wgen 2 1 1 = some { stage0 with model := 1, layers := [1] } ∧ (layerAt wgen 2 1 1).staging = some { staging0 with crcTable := 0x42000008 } ∧
    chunkOk wgen 2 1 1 0 { staging0 with crcTable := 0x42000008 } = false ∧ stageOf wgen 2 1 0 = some { stage0 with model := 1 } ∧
    (layerAt wgen 2 1 0).staging = some { staging0 with verified := [0], counter := 1 } ∧ (partOf wgen 2).gens.flips = [] ∧ 0 < modelLayers wgen 2 1 ∧
    (partOf wgen 2).gens.stagings.find? (fun x => x.model == 0) = some stage0 := by decide +kernel

theorem witness_GenerationsFlipAndRetire : stepRuns wflip 2 0 = false ∧ (partOf wflip 2).gens.flips = [] ∧
    atomicLayers wflip 2 { cmd := c1, model := 0, atomic := true, gen := 5, layers := [] } = [0, 1] ∧
    (∀ l, l ∈ [0, 1] → isComplete wflip 2 0 5 l = true) ∧ atomicLayers wflip 2 { cmd := c1, model := 1, atomic := true, gen := 5, layers := [] } = [0, 1] ∧
    (∀ l, l ∈ [0, 1] → isOther wflip 2 1 5 l = false) ∧ isComplete wflip 2 1 5 1 = false ∧ isOther wflip 2 1 6 0 = true ∧
    ([0, 1].filter fun l => !isComplete wflip 2 1 5 l) = [1] ∧ ([0].filter fun l => !isComplete wflip 2 1 5 l) = [] := by decide +kernel

theorem witness_GenerationsFlipAndRetire_boundaries :
    (partOf wflips 2).gens.flips = [flip0] ∧ stepRuns wflips 2 0 = false ∧ (∀ l, l ∈ flip0.layers → isComplete wflips 2 0 flip0.gen l = true) ∧ flip0.layers.Nodup ∧
    atomicLayers wflips 2 { flip0 with atomic := true } = [0, 1] ∧ stepRuns ws 2 0 = true ∧ (∀ l, l ∈ [0, 1] → isOther ws 2 0 5 l = false) ∧
    (partOf wflip 2).gens.retires = [] ∧ genInUse wflip 2 0 4 = false ∧ genInUse wflip 2 0 3 = true ∧
    (partOf wflips 2).gens.retires.find? (fun x => x.2.1 == 0) = some (c2, 0, 3) := by decide +kernel

/-- A pointer list of one expert with one slot, and one routed token. -/
def we : State :=
  { w with
    mem := { hbm := mwriteN 0x40000000 (toLe 4 7 ++ toLe 2 1 ++ toLe 2 0 ++ toLe 8 0x40003000 ++ toLe 4 0xFFFFFFFF) (mwriteN 0x40001000 (toLe 2 7) []) }
    parts := [(2, p2), (3, { p2 with experts := { waiting := [(c1, [(65535, { home := 0, region := 0, group := 0, cap := 1, recvBase := 0 })])] } })] }

/-- The same with the segment in module 9, and a dispatch in flight in partition 3. -/
def wer : State :=
  { we with
    mem := { hbm := mwriteN 0x40000000 (toLe 4 7 ++ toLe 2 1 ++ toLe 2 0 ++ toLe 8 (9 * 2 ^ 47 + 0x40003000) ++ toLe 4 0xFFFFFFFF) (mwriteN 0x40001000 (toLe 2 7) []) }
    parts := [(2, p2), (3, { p2 with experts := { dispatches := [{ cmd := c1, left := 1, words := [] }] } })] }

theorem witness_ExpertsRouted : checkList we 2 0x40000000 (32 * 1) 1 = none ∧ readNum we 0x40000000 4 ≤ 65535 ∧ (partOf we 3).experts.waiting.length = 1 ∧
    (partOf we 3).experts.dispatches = [] ∧ (partOf we 2).experts.waiting = [] ∧ expertCheck we c1 1 8 0x40001000 0x40002000 0x40000000 1 32 = none ∧
    segmentsOf we 0x40000000 1 = [⟨7, 1, 0x40003000, 0xFFFFFFFF⟩] ∧ checkOperand we 2 0x40003000 (1 * (16 + 32)) 2 = none ∧ handleRef 0xFFFFFFFF = .none ∧
    remoteSegments we 0x40002000 32 (firstPass we (segmentsOf we 0x40000000 1) 0x40001000 1 8).1 (segmentsOf we 0x40000000 1) = 0 ∧
    localRange we 2 0x40002000 (1 * 32) = some (.hbm, 0x40002000) := by decide +kernel

theorem witness_ExpertsRouted_remote : (partOf wer 3).experts.dispatches ≠ [] ∧ expertCheck wer c1 1 8 0x40001000 0x40002000 0x40000000 1 32 = none ∧
    checkOperand wer 2 (9 * 2 ^ 47 + 0x40003000) (1 * (16 + 32)) 2 = none ∧
    remoteSegments wer 0x40002000 32 (firstPass wer (segmentsOf wer 0x40000000 1) 0x40001000 1 8).1 (segmentsOf wer 0x40000000 1) = 1 ∧
    pickChannel wer (regionOfHbm (0x40002000 % 2 ^ 47) % 8) 255 ≠ none := by decide +kernel

/-- A table of one tensor of eight bytes, and what Birzu finds at the buddy. -/
def found0 : BuddyFound :=
  { route := true, answers := true, partner := true, base := 0x1000000, halfBytes := 0x40008, epochs := [none, some 6] }
def tableBytes : List Byte := toLe 8 0x40002000 ++ toLe 8 8
def copyOf (signature : Nat) : List Byte :=
  toLe 4 7 ++ toLe 4 1 ++ toLe 8 signature ++ toLe 4 0 ++ toLe 4 1
def ckpt0 : Ckpt := { last := some (c1, 6, 9, 0x40000000, 5), fogWaiting := true, holding := true }
def wbud : State :=
  { w with
    mem := { hbm := mwriteN 0x40000000 tableBytes [] }
    parts := [(2, { p2 with ckpt := ckpt0 }), (3, { p2 with ckpt := { fogWaiting := true } })] }

theorem witness_BuddyCopies : policyOk [0, 4, 0, 0, 0, 0, 0, 0] = false ∧ policyOk [0, 1, 2, 4, 0, 0, 0, 0] = true ∧
    copyCheck wbud 2 7 0x40000000 found0 = none ∧ copyCheck wbud 2 6 0x40000000 found0 = some (.badLength, 0xA) ∧ 9 ≠ ownModule wbud ∧
    found0.base + 2 * found0.halfBytes ≤ 2 ^ 47 ∧ pickChannel wbud 0 255 = some 0 ∧ (partOf wbud 3).ckpt.fogWaiting = true ∧ (partOf wbud 3).ckpt.last = none ∧ (partOf w 2).ckpt.fogWaiting = false ∧
    (partOf wbud 2).ckpt.last = some (c1, 6, 9, 0x40000000, 5) ∧ (partOf wbud 2).ckpt.lastTime.toNat + (partOf wbud 2).ckpt.minInterval * 1000000 ≤ wbud.time.now.toNat ∧
    wbud.time.now.toNat < ({ ckpt0 with lastTime := 5000 } : Ckpt).lastTime.toNat + ({ ckpt0 with minInterval := 1 } : Ckpt).minInterval * 1000000 ∧
    copyCheck wbud 2 (6 + 1) 0x40000000 { found0 with route := false } = some (.buddyUnavailable, 1) ∧ checkList wbud 2 0x40000000 32 1 = none ∧
    (restoreSource wbud 0 7 none).isSome = false ∧ (restoreSource wbud 9 7 none).isSome = false ∧ (restoreSource wbud 9 7 (some (copyOf 5))).isSome = true ∧
    fieldAt (bytesAt (copyOf 5) 8 8) 0 8 = (5 : BitVec 64).toNat ∧ fieldAt (bytesAt (copyOf 6) 8 8) 0 8 ≠ (5 : BitVec 64).toNat := by decide +kernel

/-- A COMPLETE copy of epoch 7 with the table's tensor in this module's own buddy area, in a state whose table it matches. -/
def wown : State :=
  { wbud with
    pkg := { wbud.pkg with buddyBase := 0x1000000, buddySize := 1 }
    mem := { hbm := mwriteN 0x1021000 (toLe 8 (crc64 (List.replicate 8 0))) (mwriteN 0x1001000 tableBytes (mwriteN 0x1000000 (copyOf 5) wbud.mem.hbm)) } }

/-- What a restore reads there. -/
def readOwn (off n : Nat) : List Byte := mreadN (0x1000000 + off) n wown.mem.hbm
def storedT : List Tensor := tensorsFrom (fun i => readOwn (0x1000 + 32 * i) 32) 0 (min (fieldAt (readOwn 4 4) 0 4) 4096)

theorem witness_BuddyCopies_restore : checkList wown 2 0x40000000 32 1 = none ∧ ownHalfAt wown 7 = some 0x1000000 ∧ fieldAt (readOwn 8 8) 0 8 = (5 : BitVec 64).toNat ∧
    sameTable storedT (tableTensors wown 2 0x40000000) = true ∧ (∀ x, x ∈ tableTensors wown 2 0x40000000 → checkOperand wown 2 x.addr x.size 1 = none) ∧
    (∀ x, x ∈ storedT → x.code ≠ 4) ∧ storedT.length = 1 ∧
    (∀ x, x ∈ (tensorStarts storedT recordSize).zipIdx → crc64 (readOwn x.1.2 (storedSize x.1.1)) = fieldAt (readOwn (0x21000 + 8 * x.2) 8) 0 8) := by decide +kernel

/-! Jobs and pre-emption -/

/-- Partition 2 with four jobs: job 3 runs a command, job 0 waits in a soft stop, job 1 is stopped, job 2 is stopped and its save runs. -/
def jobs0 : Tbl Job :=
  [(0, { soft := some (some c2) }), (1, { stopped := true, restoring := some [c1] }), (2, { stopped := true, saving := true, sliced := true }),
    (4, { hard := some c1, locks := [(0, 0, ⟨0, 0, 0⟩)] })]

def waiting0 : Ring := { enabled := true, packets := [{ packet0 with part := 2 }] }

def wj : State :=
  { wp with
    rings := [(ringKey 2 1, waiting0), (ringKey 2 3, { started := [c2] }), (ringKey 16 0, { started := [c1] })]
    parts := [(2, { p2 with jobs := jobs0, holder := some 3, slice := 1 })] }

/-- The same with no job holding the cores, and a hard pre-emption of job 3 due. -/
def wh3 : State := { wj with parts := [(2, { p2 with jobs := (3, { hard := some c1 }) :: jobs0, holder := some 0 })] }

/-- A job with a soft stop that holds a lock. -/
def wlk : State := { wj with parts := [(2, { p2 with jobs := [(0, { soft := some none, locks := [(0, 0, ⟨0, 0, 0⟩)] })] })] }

/-- A job whose transfer has a packet outstanding. -/
def wout : State := { wj with channels := [(channelKey 0 0, { transfers := [{ copy0 with purpose := .command { c2 with ring := 2 }, out := [(0, 0, 1)] }] })] }

theorem witness_PreemptionsAskedFor : targetCheck c1 2 3 = none ∧ (jobOf (partOf wj 2) 3).stopped = false ∧ (jobOf (partOf wj 2) 3).hard = none ∧
    (jobOf (partOf wj 2) 3).soft = none ∧ c2 ∈ startedOfJob wj 2 3 ∧ c2 ≠ c1 ∧ c2 ∉ stopWaiters (jobOf (partOf wj 2) 3) ∧ targetCheck c2 2 0 = none ∧
    targetCheck c1 2 4 = none ∧ startedOfJob w 2 4 = [c1] ∧ pointAllowed w 2 4 = true ∧ tilesDone w 2 4 = true ∧ (jobOf (partOf w 2) 4).locks = [] ∧
    (jobOf (partOf wj 2) 1).stopped = true ∧ (jobOf (partOf wj 2) 1).saving = false ∧ (jobOf (partOf wj 2) 2).saving = true ∧ (jobOf (partOf wj 2) 2).stopped = true := by decide +kernel

theorem witness_PreemptionsAskedFor_events :
    (partOf wj 2).holder = some 3 ∧ (partOf wj 2).slice ≠ 0 ∧ (partOf wj 2).mode ≠ 1 ∧ jobWants wj 2 1 = true ∧ c2 ∉ (jobOf (partOf wj 2) 3).waiters ∧
    (partOf w 2).holder = none ∧ (jobOf (partOf wj 2) 0).soft ≠ none ∧ inBatch wj 2 0 = false ∧ pointAllowed wj 2 0 = true ∧
    pointRanges wj 2 0 none 0 = some [(0xFFFF, 0, 0, 1)] ∧ (jobOf (partOf wj 2) 4).soft = none ∧
    pointAllowed wlk 2 0 = false ∧ pointRanges wlk 2 0 none 0 = some [(0xFFFF, 0, 0, 1)] := by decide +kernel

theorem witness_JobsStopAndRestore : (jobOf (partOf wj 2) 2).stopped = true ∧ (jobOf (partOf wj 2) 2).saving = true ∧ packetsSettled wj 2 2 = true ∧ workOf wj 2 2 = [] ∧
    packetsSettled wout 2 2 = false ∧
    hardDue wh3 2 3 = true ∧ (jobOf (partOf wj 2) 1).restoring = some [c1] ∧ (jobOf (partOf wj 2) 1).stopped = true ∧ (jobOf (partOf wj 2) 1).saving = false ∧
    mayHold { wj with parts := [(2, { p2 with jobs := jobs0 })] } 2 1 = true ∧ (jobOf (partOf wj 2) 1).saved.waits = [] ∧ (jobOf (partOf wj 2) 1).saved.epoch = (partOf wj 2).epoch ∧
    (jobOf (partOf wj 2) 3).restoring = none ∧ (jobOf (partOf wj 2) 4).hard = some c1 ∧ (jobOf (partOf wj 2) 4).locks ≠ [] ∧ (jobOf (partOf wj 2) 4).saving = false ∧
    (jobOf (partOf wj 2) 3).hard = none ∧ wj.supplies.perstHeld = true ∧ ({ wj with supplies := { perstHeld := false } } : State).supplies.perstHeld = false := by decide +kernel
/-! Reliability -/

/-- Core 863 is retired in incarnation 254 and under its self-test, core 862 retired at incarnation 255; region 7 is out; keepers 3 and 4
are out, so that regions 1 and 2 have no standby. -/
def wx1 : State :=
  { w with
    pkg := { state := 3 }
    time := { now := 1000000000 }
    units := { w.units with retired := [863, 862, 861], inc := [(863, 254), (862, 255)], selfTest := [(863, c1)], regionsOut := [7], switchDbes := [(3, [999999999, 5])] }
    keepers := { out := [3, 4], lastMismatch := some 1, activeK := [(2, 1)] }
    repair := { sramUnused := [(0, 1)], hbmUnused := [(stackOf 0x40000000, 1)], offline := [spanOf .palette 0, spanOf .hbm 0x40000000], ucie := [(10, 0x0F)], hbmSpareLanes := [(2, 1), (3, 1)], hbmLanes := [(3, 1)] }
    flash := { retiredSpans := [spanOf .hbm 0x40000000] } }

theorem witness_UnitsRetireAndRequalify : retirable 0x410 = false ∧ retirable 864 = false ∧ retirable 0 = true ∧ 0 ∉ wx1.units.retired ∧ isActiveKeeper wx1 0 = false ∧
    retirable 0x402 = true ∧ isActiveKeeper wx1 0x402 = true ∧ standbyOk wx1 ((0x402 - 0x400) / 2) = false ∧ 863 ∈ wx1.units.retired ∧ 255 ≤ tgetD 862 0 wx1.units.inc ∧
    tgetD 861 0 wx1.units.inc < 255 ∧ (∀ x, x ∈ wx1.units.selfTest → x.1 ≠ 861) ∧ wx1.units.selfTest.find? (fun x => x.1 == 863) = some (863, c1) := by decide +kernel

theorem witness_ErrorsAndRepairs : (retirable 863 = true ∧ 863 ∈ wx1.units.retired ∧ tgetD 863 0 wx1.units.inc < 255 ∧ (863, c1) ∈ wx1.units.selfTest) ∧ 862 ∈ wx1.units.retired ∧ 0 ∉ wx1.units.retired ∧ 0 ∉ wx1.units.regionsOut ∧ 7 ∈ wx1.units.regionsOut ∧ fenced wx1 write0 = false ∧
    2 ≤ ((tgetD 3 [] wx1.units.switchDbes).filter fun y => wx1.time.now.toNat < y.toNat + 1000000000).length ∧
    ((tgetD 4 [] wx1.units.switchDbes).filter fun y => wx1.time.now.toNat < y.toNat + 1000000000).length < 2 ∧
    tgetD 2 0 wx1.repair.hbmLanes < tgetD 2 0 wx1.repair.hbmSpareLanes ∧ tgetD 3 0 wx1.repair.hbmSpareLanes ≤ tgetD 3 0 wx1.repair.hbmLanes ∧
    tgetD (macroDie 0) 0 wx1.repair.sramUnused = 1 ∧ tgetD (macroDie 108) 0 wx1.repair.sramUnused = 0 := by decide +kernel

theorem witness_ErrorsAndRepairs_repairs :
    beatsMissed wx1 0 = true ∧ beatsMissed { wx1 with keepers := { beats := [(0, 999700001)] } } 0 = false ∧ standbyOk wx1 0 = true ∧ standbyOk wx1 1 = false ∧
    1 ∉ wx1.units.regionsOut ∧ wx1.engines = [] ∧ (∀ e, e ∈ wx1.objects → sweepObj (unitId wx1 (activeKeeper wx1 0)) e.2 = (e.2, [])) ∧
    wx1.keepers.lastMismatch = some 1 ∧ wx1.time.now.toNat < (1 : Word).toNat + 1000000000 ∧ tgetD (stackOf 0x40000000) 0 wx1.repair.hbmUnused = 1 ∧
    tgetD (stackOf 0x40000000) 0 w.repair.hbmUnused = 0 ∧ spanOf .palette (0 * 0x200000 + 0 % paletteBytes) ∈ wx1.repair.offline ∧
    spanOf .palette (0 * 0x200000 + 0 % paletteBytes) ∉ wx1.flash.retiredSpans ∧ spanOf .hbm 0x40000000 ∈ wx1.flash.retiredSpans ∧
    (tgetD 10 0xFF wx1.repair.ucie).getLsbD 3 = true ∧ modulesOf wx1 10 = 4 ∧ (tgetD 7 0xFF wx1.repair.ucie).getLsbD 7 = true := by decide +kernel
/-! Firmware and the log -/

def entry1 : LogEntry := { index := 16383, time := 0, event := 0x0301, severity := 3, part := 2 }

/-- No activation: slot A active, slot B valid; an entry of the log. -/
def wf0 : State := { w with keepers := { takingOver := [0] }, log := { entries := [{ entry1 with index := 0, read := true }, entry1] } }
/-- An activation of slot B: its last region under way, then its restart, then its wait. -/
def wf1 : State := { w with keepers := { fwCmd := some (some c1, 1), fwRegion := some 7, takingOver := [7] } }
def wf2 : State := { w with keepers := { fwCmd := some (some c1, 1), headRestarting := true } }
def wf3 : State := { w with keepers := { fwCmd := some (some c1, 1), fwAwaiting := true } }

theorem witness_FirmwareAndLog_slots : wf0.keepers.fwCmd = none ∧ isActiveSlot wf0 0 = true ∧ isActiveSlot wf0 1 = false ∧
    localRange wf0 2 0x46000000 64 = some (.hbm, 0x46000000) ∧ readsPoison wf0 .hbm 0x46000000 64 = false ∧ wf0.fuse.minSecurity ≤ 0 ∧ wf0.keepers.runningVersion = 1 ∧
    wf1.keepers.fwCmd.isSome = true ∧ localRange wf0 2 0x46000000 (fwStatusBytes wf0).length = some (.hbm, 0x46000000) ∧
    writeRefused wf0 .hbm 0x46000000 (fwStatusBytes wf0).length = false ∧ (slotOf wf0.flash 1).valid = true ∧
    (slotOf { wf0.flash with slotB := { valid := false } } 1).valid = false ∧ 0 ∉ wf0.units.regionsOut ∧ wf1.keepers.fwRegion = some 7 ∧
    wf2.keepers.headRestarting = true ∧ wf2.keepers.fwRegion = none ∧ wf2.keepers.fwAwaiting = false ∧ wf2.keepers.fwReverting = false ∧
    ({ wf2 with keepers := { wf2.keepers with fwReverting := true } } : State).keepers.fwReverting = true ∧ wf0.keepers.headRestarting = false ∧ wf3.keepers.fwAwaiting = true := by decide +kernel

theorem witness_FirmwareAndLog_log : (16384 < 16384 + 1 ∧ 16383 + 1 ≤ 16384) ∧ localRange wf0 2 0x48000000 32 = none ∧ localRange wf0 2 0x47FFFFE0 (32 * 1) = some (.hbm, 0x47FFFFE0) ∧
    entry1 ∈ wf0.log.entries ∧ returns c1 16383 1 false entry1 = true ∧ (∀ x, x ∈ wf0.log.entries → x.index = entry1.index → x = entry1) ∧
    (∀ i, i < 32 → isOffline wf0 .hbm (0x47FFFFE0 + 32 * (entry1.index - 16383) + i) = false) ∧ clears 0 1 { entry1 with index := 0, read := true } = true := by decide +kernel
/-! The whole machine -/

theorem witness_MemoryCanonicalKept : ({ wu with pending := [.brakeApply] } : State).memOk ∧
    step { wu with pending := [.brakeApply] } = .next { wu with power := { wu.power with brakePin := true, brakeSeen := true } } := 
  ⟨by unfold State.memOk; decide +kernel, rfl⟩

theorem witness_QueueAndFusesKept : exec .brakeRelease { w with power := { brakePin := true } } = .next w := rfl

theorem witness_StepRunsFront : State.reset.pending = [] := rfl

/-- Core 0 was fenced in incarnation 0; its region's channel 0 as well, with a drop a millisecond before. -/
def wdark : State :=
  { w with units := { w.units with fences := [(0, 0), (channelUnit 0 0, 0)], darkLast := [(96, 4000)] } }

theorem witness_DarkTrafficDropped : fenced wdark write0 = false ∧ fenced wdark { write0 with src := 0, srcUnit := 0 } = true ∧
    fenced wdark { write0 with src := 0, srcUnit := channelUnit 0 0 } = true ∧ tget 96 wdark.units.darkLast = some 4000 ∧
    wdark.time.now.toNat < (4000 : Word).toNat + 1000000 := by decide +kernel

/-! Ill-formed commands are refused: one for each check -/

/-- A brush instruction at the bounds of its fields. -/
def oEnd : VOp := { core := 863, dst := 31, a := 31, b := 31, c := 31, pred := some 7, bf16 := false }

theorem witness_EveryCommandGoesOn : (Instr.tileCompletion 863).wf = true ∧ (Instr.combineAccept 7).wf = true ∧ (Instr.slotTransmit 5).wf = true ∧
    (Instr.functionLevelReset 16).wf = true ∧ (Instr.vadd oEnd).wf = true := by decide

theorem wf_at_bounds : (Instr.vadd oEnd).wf = true ∧ (Instr.vcmp oEnd .eq false 7).wf = true ∧ (Instr.vsumx oEnd 3).wf = true ∧
    (Instr.xwin 863 3 31).wf = true ∧ (Instr.directLoad 863 31 0 8).wf = true ∧ (Instr.dmaPacketIssue 7 15).wf = true ∧ (Instr.hbmRefresh 15 0).wf = true ∧
    (Instr.replyWrite 16 3).wf = true ∧ (Instr.purge 15 0 0 .pf).wf = true := by decide

theorem wf_refuses_core : (Instr.tileCompletion 864).wf = false ∧ (Instr.vadd { oEnd with core := 864 }).wf = false ∧
    (Instr.errPostedRecordClear .pf 864 0).wf = false ∧ (Instr.fencedSignal (.unit 0 ⟨0, 0, 0⟩) 864 0 0 false false 0).wf = false := by decide
theorem wf_refuses_vector_register : (Instr.vadd { oEnd with dst := 32 }).wf = false ∧ (Instr.vadd { oEnd with a := 32 }).wf = false ∧
    (Instr.vadd { oEnd with b := 32 }).wf = false ∧ (Instr.vfma { oEnd with c := 32 }).wf = false := by decide
theorem wf_refuses_predicate : (Instr.vadd { oEnd with pred := some 8 }).wf = false ∧ (Instr.vcmp oEnd .eq false 8).wf = false ∧ (Instr.vsel oEnd 8).wf = false := by decide
theorem wf_refuses_scalar_register : (Instr.vbcast oEnd 32).wf = false ∧ (Instr.xwin 0 0 32).wf = false ∧ (Instr.xrnd 0 0 32).wf = false ∧
    (Instr.directLoad 0 32 0 8).wf = false := by decide
theorem wf_refuses_accumulator : (Instr.vsumx oEnd 4).wf = false ∧ (Instr.xwin 0 4 0).wf = false ∧ (Instr.xclr 0 4).wf = false := by decide
theorem wf_refuses_width : (Instr.directLoad 0 0 0 9).wf = false := by decide
theorem wf_refuses_region : (Instr.combineAccept 8).wf = false ∧ (Instr.keeperTakeover 8).wf = false ∧ (Instr.partWayMask .pf 0 8 0).wf = false := by decide
theorem wf_refuses_channel : (Instr.dmaPacketIssue 0 16).wf = false ∧ (Instr.dmaPacketIssue 8 0).wf = false := by decide
theorem wf_refuses_stack : (Instr.hbmRefresh 16 0).wf = false ∧ (Instr.ecsRead 16 0).wf = false := by decide
theorem wf_refuses_port : (Instr.slotTransmit 6).wf = false ∧ (Instr.lpCtrl .pf 6 0).wf = false := by decide
theorem wf_refuses_ring : (Instr.replyWrite 17 0).wf = false ∧ (Instr.replyWrite 0 4).wf = false ∧ (Instr.functionLevelReset 17).wf = false := by decide
theorem wf_refuses_partition : (Instr.purge 16 0 0 .pf).wf = false ∧ (Instr.partWayMask .pf 16 0 0).wf = false := by decide

/-! Single commands and operations against values the spec works out, or that follow from its tables by hand -/

/-- BF16 encodings of 2^15, −2^15 and 1. -/
def hi15 : FVal := decodeElem 2 0x4700
def lo15 : FVal := decodeElem 2 0xC700
def one : FVal := decodeElem 2 0x3F80

/-- The worked dot product of chapter 02, plan A: two passes on one core give 3.0. -/
theorem test_dot_product_one_core :
    passSum (passSum 0 [mulV hi15 hi15, mulV one one, mulV one one, mulV one one]) [mulV one one, mulV one one, mulV one one, mulV lo15 hi15]
      = 0x40400000 := by decide +kernel

/-- The same under plan B: chunk 1 rounds to −2^30, and the combine gives +0. -/
theorem test_dot_product_split_k :
    passSum 0 [mulV one one, mulV one one, mulV one one, mulV lo15 hi15] = 0xCE800000 ∧
    passSum 0 [val32 0x4E800000, val32 0xCE800000] = 0 := by decide +kernel

/-- The same in true colour: L = −79 and 6.0. -/
theorem test_dot_product_true_colour :
    topExp 2 127 hi15 = some 16 ∧ windowL 16 16 = -79 ∧
    round32 (exactVal ([(hi15, hi15), (one, one), (one, one), (one, one), (one, one), (one, one), (one, one), (lo15, hi15)].foldl
      (fun x p => addProduct (some (-79)) x p.1 p.2) {}) (-79)) = 0x40C00000 := by decide +kernel

/-- The drop rule's example of chapter 02: the second product enters as −8 at L = −39, and the element rounds to 2^70. -/
theorem test_drop_rule :
    windowInt (mulV (.fin false 129 (-27)) (.fin true 129 (-23))) (-39) = -8 ∧
    round32 (exactVal ([(FVal.fin false 1 40, FVal.fin false 1 30), (.fin false 129 (-27), .fin true 129 (-23))].foldl
      (fun x p => addProduct (some (-39)) x p.1 p.2) {}) (-39)) = 0x62800000 := by decide +kernel

/-- R46: E4M3's largest value is 448 (0x7E), 0x7F is NaN, and E2M1's largest is 6. -/
theorem test_format_edges : decodeElem 3 0x7E = .fin false 14 5 ∧ decodeElem 3 0x7F = .nan ∧ decodeElem 9 7 = .fin false 3 1 ∧
    decodeElem 10 0x80 = .fin true 128 0 := by decide +kernel

/-- A BF16 tile; the worked tiles of chapter 03 change its extents. -/
def bfTile : TileDesc :=
  { job := 0, item := 0, mt := 128, nt := 256, kt := 512, shape := .auto, fmtA := 2, fmtB := 2, aAddr := 0, bAddr := 0, aScale := 0, bScale := 0
    lda := 0, ldb := 0, axisA := false, axisB := false, padA := 0, padB := 0, rowOff := 0, colOff := 0, kOff := 0, chunk := 0, chunks := 1
    lastK := true, accContinue := false, exact := false, betaNonzero := false, biasPresent := false, fmtOut := 2, fmtC := 2, fmtBias := 2
    accBase := 0, swapped := false }

/-- Chapter 03's worked tile: F = 32, 4,096 cycles, legal; Kt = 1,024 takes 8,192 and is not; nor is continuing at F = 32. -/
theorem test_worked_tile : tilePhys bfTile = 32 ∧ tileCycles bfTile = 4096 ∧ legalTile bfTile = true ∧
    tileCycles { bfTile with kt := 1024 } = 8192 ∧ legalTile { bfTile with kt := 1024 } = false ∧
    legalTile { bfTile with accContinue := true } = false := by decide +kernel

/-- The same product in true colour at 64 × 128: F = 8 and 2,048 cycles. -/
theorem test_true_colour_tile : tilePhys { bfTile with mt := 64, nt := 128, exact := true } = 8 ∧
    tileCycles { bfTile with mt := 64, nt := 128, exact := true } = 2048 ∧ legalTile { bfTile with mt := 64, nt := 128, exact := true } = true := by
  decide +kernel

/-- Chapter 04's worked mapping at bucket 1,280: SA, SB and the cycles of an MXFP8 tile. -/
theorem test_mx_tile_sizes :
    let d := { bfTile with mt := 64, nt := 256, kt := 1280, fmtA := 5, fmtB := 5 }
    sizeA d = 84480 ∧ sizeB d = 337920 ∧ tileCycles d = 2560 ∧ sizeS d = 32768 := by decide +kernel

/-- R122's example: 5 × 4 under SWZ with G = 2. -/
theorem test_swz_walk : (List.range 8).map (walkAt (orderByte (3, 2)) 5 4) = [(0, 0), (1, 0), (0, 1), (1, 1), (0, 2), (1, 2), (0, 3), (1, 3)] ∧
    (walkAt (orderByte (3, 2)) 5 4 16, walkAt (orderByte (3, 2)) 5 4 19) = ((4, 0), (4, 3)) := by decide +kernel

/-- Chapter 00's example: physical core 500 is in region 4, block 7 of it, slot 5. -/
theorem test_core_500 : regionOfCore 500 = 4 ∧ blockOfCore 500 = 4 * 12 + 7 ∧ slotOfCore 500 = 5 := by decide

/-- R404: sixteen steps of 50 MHz take 1,200 MHz to 400 MHz. -/
theorem test_stretch_steps : effClock 1200 1 = 1150 ∧ effClock 1200 16 = 400 := by decide

/-- R306: POISON is bit 62, the status stands in bits 47:32, the tag in bits 31:0. -/
theorem test_completion_values : completionValue 7 .ok = 7 ∧ completionValue 7 .quota = 0x4000002000000007 ∧
    completionValue 7 .nonfiniteSkip = 0x6000000007 := by decide +kernel

/-- R278: generations compare modulo 2^16. -/
theorem test_generation_order : genNewer 1 0xFFFF = true ∧ genNewer 0xFFFF 1 = false ∧ genNewer 5 5 = false := by decide

/-- CRC-32C's published check value, of the nine digits. -/
theorem test_crc32c : crc32c [0x31, 0x32, 0x33, 0x34, 0x35, 0x36, 0x37, 0x38, 0x39] = 0xE3069283 := by decide +kernel

/-! The brush unit -/

/-- A lane of a vector register after a command; 0xDEAD where it does not go on. -/
def laneAfter (r : Result) (core reg k : Nat) : Lane := match r with | .next s => vlane (coreOf s core).brush reg k | _ => 0xDEAD

/-- A field of the state after a command, or a value for no next state. -/
def after {α : Type} (r : Result) (d : α) (f : State → α) : α := match r with | .next s => f s | _ => d

/-- Core 4 holds 1.5 in v1, −2.0 in v2 and 31 in v3; p1 enables lane 0 alone. -/
def wlanes : State := { w with cores := [(4, { brush := { v := [(1, List.replicate 256 0x3FC00000), (2, List.replicate 256 0xC0000000), (3, List.replicate 256 31)], p := [(1, 1)] } })] }
def o12 : VOp := { core := 4, dst := 5, a := 1, b := 2, c := 1, pred := none, bf16 := false }

theorem test_vadd : laneAfter (exec (.vadd o12) wlanes) 4 5 255 = 0xBF000000 := by decide +kernel
theorem test_vadd_predicated : laneAfter (exec (.vadd { o12 with pred := some 1 }) wlanes) 4 5 0 = 0xBF000000 ∧
    laneAfter (exec (.vadd { o12 with pred := some 1 }) wlanes) 4 5 1 = 0 := by decide +kernel
theorem test_vsub : laneAfter (exec (.vsub o12) wlanes) 4 5 3 = 0x40600000 := by decide +kernel
theorem test_vmul : laneAfter (exec (.vmul o12) wlanes) 4 5 3 = 0xC0400000 := by decide +kernel
theorem test_vfma : laneAfter (exec (.vfma o12) wlanes) 4 5 3 = 0xBFC00000 := by decide +kernel
theorem test_vmax_vmin : laneAfter (exec (.vmax o12) wlanes) 4 5 9 = 0x3FC00000 ∧ laneAfter (exec (.vmin o12) wlanes) 4 5 9 = 0xC0000000 := by decide +kernel
theorem test_vabs_vneg : laneAfter (exec (.vabs { o12 with a := 2 }) wlanes) 4 5 9 = 0x40000000 ∧
    laneAfter (exec (.vneg { o12 with a := 2 }) wlanes) 4 5 9 = 0x40000000 := by decide +kernel
theorem test_viadd_wraps : laneAfter (exec (.viadd { o12 with a := 2, b := 2 }) wlanes) 4 5 9 = 0x80000000 := by decide +kernel
theorem test_vshl : laneAfter (exec (.vshl { o12 with a := 3, b := 3 }) wlanes) 4 5 9 = 0x80000000 := by decide +kernel
theorem test_vcmp : after (exec (.vcmp o12 .lt false 2) wlanes) 1 (fun s => tgetD 2 0 (coreOf s 4).brush.p) = 0 ∧
    after (exec (.vcmp o12 .gt false 2) wlanes) 0 (fun s => tgetD 2 0 (coreOf s 4).brush.p) = BitVec.allOnes 256 := by decide +kernel

/-! Synchronisation, power, time and registers -/

theorem test_stretch_step : after (exec .clockStretchStep { w with power := { lowering := true } }) 0 (·.power.fEff) = 1150 := by decide +kernel
theorem test_hold_needs_lowest_clock : after (exec .issueHoldStep { w with power := { lowering := true, stretch := 15 } }) 9 (·.power.hold) = 0 ∧
    after (exec .issueHoldStep { w with power := { lowering := true, stretch := 16 } }) 9 (·.power.hold) = 1 := by decide +kernel
theorem test_brake_pin : after (exec .brakeApply w) false (·.power.brakePin) = true := by decide +kernel
theorem test_control_lowers : after (exec (.powerControlTick 2801) w) false (·.power.lowering) = true ∧
    after (exec (.powerControlTick 2800) w) true (·.power.lowering) = false := by decide +kernel
theorem test_step_takes_the_front : after (step { w with pending := [.brakeApply, .brakeRelease] }) [] (·.pending) = [.brakeRelease] := by decide +kernel

end Sys2Proof.Tests
end

section
/-! PROOF of O18: an answer given to an issuer stays with it, whoever is answered after; OBJ_RESET and OBJ_FREE store their effect and
then answer every pending entry with ST_POISONED, detail 0x0001, and the command last (R172, R176, R433). -/

namespace Sys2Proof.Machine

/-! Answers reach their issuers -/

/-- The answer stands where its issuer receives it (R189, R299, R316): among the replies of the command's ring, the releases of this
module's units, or the packets sent, for a unit of another module. -/
def Told (own : Nat) (t : State) (r : Rel) : Prop :=
  match r.who with
  | .host d => ∃ y, y ∈ (ringOf t d.fn d.ring).replies ∧ y.cmd = d ∧
      y.answer = { status := r.status, detail := r.detail, words := relWords r }
  | .unit _ u =>
    if u.module = own then ∃ y, y ∈ t.out.releases ∧ y.unit = u ∧ y.status = r.status ∧ y.detail = r.detail
    else ∃ y, y ∈ t.out.packets ∧ y.type = (if r.status == .ok || r.status == .ownerLost then .ack else .refusal) ∧
      y.dst = u.module ∧ y.dstUnit = u.unit ∧ y.status = statusCode r.status + r.detail * 2 ^ 16

/-- Every reply, release and packet of one state stands in the other too. -/
structure OutputsKept (s t : State) : Prop where
  replies : ∀ fn ring, (ringOf s fn ring).replies ⊆ (ringOf t fn ring).replies
  releases : s.out.releases ⊆ t.out.releases
  packets : s.out.packets ⊆ t.out.packets

section

variable (s : State)

theorem Told.mono {own : Nat} {r : Rel} {s t : State} (k : OutputsKept s t) (h : Told own s r) : Told own t r := by
  obtain ⟨who, st, d, v, w⟩ := r
  cases who with
  | host c =>
    obtain ⟨y, hy, rest⟩ := h
    exact ⟨y, k.replies _ _ hy, rest⟩
  | unit part u =>
    simp only [Told] at h ⊢
    split at h
    · next here =>
      obtain ⟨y, hy, rest⟩ := h
      exact (if_pos here).mpr ⟨y, k.releases hy, rest⟩
    · next other =>
      obtain ⟨y, hy, rest⟩ := h
      exact (if_neg other).mpr ⟨y, k.packets hy, rest⟩

/-- Answering changes the rings and what leaves the module, and nothing else. -/
theorem answer_only (h : BitVec 32) (r : Rel) :
    answer h r s = { s with rings := (answer h r s).rings, out := (answer h r s).out } := by
  unfold answer
  split
  · rfl
  · split <;> rfl

theorem answerAll_only (h : BitVec 32) (rs : List Rel) :
    answerAll h rs s = { s with rings := (answerAll h rs s).rings, out := (answerAll h rs s).out } := by
  unfold answerAll
  induction rs generalizing s with
  | nil => rfl
  | cons r rs ih => rw [List.foldl_cons, ih, answer_only s h r]

@[simp] theorem ownModule_answer (h : BitVec 32) (r : Rel) : ownModule (answer h r s) = ownModule s := by
  rw [answer_only]; rfl

@[simp] theorem answerAll_objects (h : BitVec 32) (rs : List Rel) : (answerAll h rs s).objects = s.objects := by
  rw [answerAll_only]

@[simp] theorem answerAll_cores (h : BitVec 32) (rs : List Rel) : (answerAll h rs s).cores = s.cores := by
  rw [answerAll_only]

/-- An effect on the objects, and answers, change objects, rings and what leaves the module. -/
theorem answerAll_objects_only (objs : Tbl SyncObj) (h : BitVec 32) (rs : List Rel) :
    answerAll h rs { s with objects := objs } =
      { s with
        objects := (answerAll h rs { s with objects := objs }).objects
        rings := (answerAll h rs { s with objects := objs }).rings
        out := (answerAll h rs { s with objects := objs }).out } := by
  rw [answerAll_objects]
  exact answerAll_only _ h rs

/-- An effect on the cores, and answers, change cores, rings and what leaves the module. -/
theorem answerAll_cores_only (cores : Tbl Core) (h : BitVec 32) (rs : List Rel) :
    answerAll h rs { s with cores := cores } =
      { s with
        cores := (answerAll h rs { s with cores := cores }).cores
        rings := (answerAll h rs { s with cores := cores }).rings
        out := (answerAll h rs { s with cores := cores }).out } := by
  rw [answerAll_cores]
  exact answerAll_only _ h rs

@[simp] theorem flagOf_answerAll (h : BitVec 32) (rs : List Rel) (p f : Nat) :
    flagOf (answerAll h rs s) p f = flagOf s p f := by
  rw [answerAll_only]; rfl

/-- A completed command's reply is added to the replies that its ring held. -/
theorem replies_subset_finish (c : Cmd) (a : Answer) (fn ring : Nat) :
    (ringOf s fn ring).replies ⊆ (ringOf (finish c a s) fn ring).replies := by
  by_cases hk : ringKey fn ring = ringKey c.fn c.ring
  · have same (t : State) : ringOf t fn ring = ringOf t c.fn c.ring := by simp [ringOf, hk]
    rw [same, same, ringOf_finish]
    exact List.subset_append_left _ _
  · rw [ringOf_finish_ne s hk]
    exact List.Subset.refl _

theorem outputsKept_answer (h : BitVec 32) (r : Rel) : OutputsKept s (answer h r s) := by
  unfold answer
  split
  · exact ⟨replies_subset_finish s _ _, List.Subset.refl _, List.Subset.refl _⟩
  · split
    · exact ⟨fun _ _ => List.Subset.refl _, List.subset_append_left _ _, List.Subset.refl _⟩
    · exact ⟨fun _ _ => List.Subset.refl _, List.Subset.refl _, List.subset_append_left _ _⟩

theorem told_answer (h : BitVec 32) (r : Rel) : Told (ownModule s) (answer h r s) r := by
  obtain ⟨who, st, d, v, w⟩ := r
  cases who with
  | host c => simp [Told, answer, ringOf_finish]
  | unit part u =>
    by_cases hu : u.module = ownModule s
    · simp [Told, answer, hu]
    · simp [Told, answer, hu, replyPacket]

theorem told_answerAll_of_told {own : Nat} (h : BitVec 32) {r : Rel} (rs : List Rel) (told : Told own s r) :
    Told own (answerAll h rs s) r := by
  unfold answerAll
  induction rs generalizing s with
  | nil => exact told
  | cons q rs ih => exact ih _ (told.mono (outputsKept_answer s h q))

/-- Answered one after another, every issuer keeps its answer. -/
theorem told_answerAll (h : BitVec 32) {r : Rel} {rs : List Rel} (hr : r ∈ rs) : Told (ownModule s) (answerAll h rs s) r := by
  induction rs generalizing s with
  | nil => cases hr
  | cons q rs ih =>
    cases hr with
    | head => exact told_answerAll_of_told _ h rs (told_answer s h r)
    | tail _ hr => simpa [answerAll] using ih (answer h q s) hr

/-! Tables by key -/

theorem tget_filter {α : Type} (p : Nat → Bool) (k : Nat) (t : Tbl α) :
    tget k (t.filter fun e => p e.1) = if p k then tget k t else none := by
  induction t with
  | nil => simp
  | cons e t ih =>
    obtain ⟨j, v⟩ := e
    by_cases hjk : j = k
    · subst hjk
      cases hp : p j <;> simp [hp, tget_cons, ih]
    · cases hp : p j <;> simp [hp, tget_cons, hjk, ih]

theorem mem_of_tget {α : Type} {k : Nat} {v : α} {t : Tbl α} (h : tget k t = some v) : (k, v) ∈ t := by
  induction t with
  | nil => cases h
  | cons e t ih =>
    obtain ⟨j, w⟩ := e
    rw [tget_cons] at h
    split at h
    · next hjk =>
      cases h
      exact hjk ▸ List.mem_cons_self
    · exact List.mem_cons_of_mem _ (ih h)

/-! What the commands answer -/

/-- The answer that releases a pending entry of a reset or freed object (R176, R433). -/
def poisonRel (w : Waiter) : Rel := { who := w.who, status := .poisoned, detail := 1 }

/-- A command's plain ST_OK. -/
def okRel (c : Cmd) : Rel := { who := .host c, status := .ok }

theorem poisonWaiters_eq (o : SyncObj) : poisonWaiters o = o.waiters.map poisonRel := rfl

/-- The objects an OBJ_FREE names. -/
def freeRange (i count : Nat) : List Nat := (List.range count).map (· + i)

@[simp] theorem mem_freeRange {i count k : Nat} : k ∈ freeRange i count ↔ i ≤ k ∧ k < i + count := by
  simp only [freeRange, List.mem_map, List.mem_range]
  exact ⟨fun ⟨a, ha, e⟩ => by omega, fun h => ⟨k - i, by omega, by omega⟩⟩

/-- The pending entries of every object in a range, each with its release. -/
def rangeRels (s : State) (i count : Nat) : List Rel :=
  (s.objects.filter fun e => (freeRange i count).contains e.1).flatMap fun e => poisonWaiters e.2

/-- The store without the objects of a range. -/
def dropRange (i count : Nat) (s : State) : State :=
  { s with objects := s.objects.filter fun e => !(freeRange i count).contains e.1 }

/-- A local flag stored back. -/
def putFlag (p f : Nat) (l : LocalFlag) (s : State) : State := modCore p (fun c => { c with flags := tput f l c.flags }) s

end

section

variable {s : State}
variable {c : Cmd} {h : BitVec 32} {i count n f p : Nat} {o : SyncObj}

theorem answer_answerAll (rs : List Rel) (r : Rel) (t : State) :
    answer h r (answerAll h rs t) = answerAll h (rs ++ [r]) t := by simp [answerAll]

theorem exec_objReset_object (hh : handleRef h = .object i) (ho : tget i s.objects = some o) (hp : o.part = c.part) :
    exec (.objReset c h) s = .next (answerAll h (poisonWaiters o ++ [okRel c]) (putObj i (resetObj o) s)) := by
  change execObjReset c h s = _
  simp [execObjReset, hh, onObject, ho, hp, issuerPart, applyReset, okRel, answer_answerAll]

theorem exec_objReset_flag (hh : handleRef h = .flag n f) (hp : physOf s n = some p) (hc : partOfCore s p = some c.part) :
    exec (.objReset c h) s = .next (answerAll h (poisonWaiters (flagObj s c.part f (flagOf s p f)) ++ [okRel c])
      (putFlag p f (objFlag (resetObj (flagObj s c.part f (flagOf s p f)))) s)) := by
  change execObjReset c h s = _
  simp [execObjReset, hh, onFlag, hp, hc, issuerPart, applyReset, okRel, answer_answerAll, putFlag]

/-- A handle of another kind, no objects, or a range beyond its region's last object: nothing is freed (R433). -/
theorem exec_objFree_badRange
    (hb : (∀ k, handleRef h ≠ .object k) ∨ count = 0 ∨ (handleRef h = .object i ∧ 8192 < i % 8192 + count)) :
    exec (.objFree c h count) s = .next (finish c (ans .badLength 4) s) := by
  change execObjFree c h count s = _
  unfold execObjFree
  split
  · next j hj =>
    have bad : count = 0 ∨ 8192 < j % 8192 + count := by
      rcases hb with notObject | zero | ⟨hi, beyond⟩
      · exact absurd hj (notObject j)
      · exact .inl zero
      · cases hi.symm.trans hj
        exact .inr beyond
    exact if_pos bad
  · rfl

/-- An OBJ_FREE of a proper range goes by the first object of it that is not the partition's (R433). -/
theorem exec_objFree_range (hh : handleRef h = .object i) (h1 : 1 ≤ count) (h2 : i % 8192 + count ≤ 8192) :
    exec (.objFree c h count) s = match (freeRange i count).find? fun k => objPart s k != some c.part with
      | some k => .next (finish c (ans .tenantViolation) (logTenant (.host c) ((objPart s k).getD 0xFF) (BitVec.ofNat 32 k) s))
      | none => .next (answerAll h (rangeRels s i count ++ [okRel c]) (dropRange i count s)) := by
  have proper : ¬(count = 0 ∨ 8192 < i % 8192 + count) := by omega
  change execObjFree c h count s = _
  rw [← answer_answerAll]
  simp only [execObjFree, hh, if_neg proper]
  rfl

/-! What the state then holds -/

theorem told_poisonRel {t : State} {rs : List Rel} {w : Waiter} (hw : poisonRel w ∈ rs) (ht : ownModule t = ownModule s) :
    Told (ownModule s) (answerAll h (rs ++ [okRel c]) t) (poisonRel w) :=
  ht ▸ told_answerAll t h (List.mem_append_left _ hw)

theorem told_okRel {t : State} {rs : List Rel} : Told (ownModule t) (answerAll h (rs ++ [okRel c]) t) (okRel c) :=
  told_answerAll t h (List.mem_append_right _ List.mem_cons_self)

theorem poisonRel_mem_poisonWaiters {w : Waiter} (hw : w ∈ o.waiters) : poisonRel w ∈ poisonWaiters o := by
  rw [poisonWaiters_eq]
  exact List.mem_map_of_mem hw

theorem poisonRel_mem_rangeRels {w : Waiter} {k : Nat} (hk : k ∈ freeRange i count) (ho : tget k s.objects = some o)
    (hw : w ∈ o.waiters) : poisonRel w ∈ rangeRels s i count :=
  List.mem_flatMap.mpr ⟨(k, o), List.mem_filter.mpr ⟨mem_of_tget ho, by simpa using hk⟩, poisonRel_mem_poisonWaiters hw⟩

theorem tget_dropRange (k : Nat) :
    tget k (dropRange i count s).objects = if k ∈ freeRange i count then none else tget k s.objects := by
  rw [dropRange, tget_filter fun k => !(freeRange i count).contains k]
  by_cases hk : k ∈ freeRange i count <;> simp [hk]

theorem flagOf_putFlag (l : LocalFlag) : flagOf (putFlag p f l s) p f = l := by simp [flagOf, putFlag]

theorem flagOf_putFlag_ne {q g : Nat} (hne : (q, g) ≠ (p, f)) (l : LocalFlag) : flagOf (putFlag p f l s) q g = flagOf s q g := by
  by_cases hq : q = p
  · subst hq
    have hg : g ≠ f := fun e => hne (e ▸ rfl)
    simp [flagOf, putFlag, tgetD_tput_ne hg]
  · simp [flagOf, putFlag, coreOf_modCore_ne s hq]

/-- Completing a command on a state with the same rings and time is what its reply says (R298, R299). -/
theorem replied_finish {t : State} (a : Answer) (hr : t.rings = s.rings) (ht : t.time = s.time) : replied c a s (finish c a t) := by
  constructor
  · rw [ringOf_finish, ringOf, hr, ht, ringOf]
  · intro k hk
    rw [← hr, finish, modRing_rings, tget_tmod_ne hk]

/-! The clauses of the statement -/

/-- An OBJ_FREE of a range with an object that is not the partition's frees nothing and logs the violation (R179, R433). -/
theorem objFree_foreign (hh : handleRef h = .object i) (h1 : 1 ≤ count) (h2 : i % 8192 + count ≤ 8192)
    (foreign : ∃ k, i ≤ k ∧ k < i + count ∧ objPart s k ≠ some c.part) :
    ∃ k, exec (.objFree c h count) s =
        .next (finish c (ans .tenantViolation) (logTenant (.host c) ((objPart s k).getD 0xFF) (BitVec.ofNat 32 k) s)) ∧
      objPart s k ≠ some c.part := by
  obtain ⟨j, hij, hj, hne⟩ := foreign
  have hit : ((freeRange i count).find? fun k => objPart s k != some c.part).isSome :=
    List.find?_isSome.mpr ⟨j, mem_freeRange.mpr ⟨hij, hj⟩, by simpa using hne⟩
  obtain ⟨k, hk⟩ := Option.isSome_iff_exists.mp hit
  refine ⟨k, ?_, by simpa using List.find?_some hk⟩
  rw [exec_objFree_range hh h1 h2, hk]

/-- An OBJ_FREE of objects that are all the partition's drops them and answers their pending entries (R433). -/
theorem objFree_own (hh : handleRef h = .object i) (h1 : 1 ≤ count) (h2 : i % 8192 + count ≤ 8192)
    (own : ∀ k, i ≤ k → k < i + count → objPart s k = some c.part) :
    exec (.objFree c h count) s = .next (answerAll h (rangeRels s i count ++ [okRel c]) (dropRange i count s)) := by
  have miss : ((freeRange i count).find? fun k => objPart s k != some c.part) = none :=
    List.find?_eq_none.mpr fun k hk => by
      obtain ⟨hik, hki⟩ := mem_freeRange.mp hk
      simp [own k hik hki]
  rw [exec_objFree_range hh h1 h2, miss]

end

/-- Settles O18: each command is its effect on the objects followed by answers, and an answer once given stays. -/
theorem poisonedReleases : Obligations.PoisonedReleases := by
  unfold Obligations.PoisonedReleases
  intro c h i count n f p o s told said only
  have told_iff (t : State) (w : Waiter) : told t w ↔ Told (ownModule s) t (poisonRel w) := by
    obtain ⟨who, kind, timeout⟩ := w
    cases who with
    | host d => simp [told, Told, poisonRel, relWords]
    | unit part u => simp [told, Told, poisonRel]
  have told_of {t : State} {rs : List Rel} {w : Waiter} (hw : poisonRel w ∈ rs) (ht : ownModule t = ownModule s) :
      told (answerAll h (rs ++ [okRel c]) t) w := (told_iff _ w).mpr (told_poisonRel hw ht)
  refine ⟨fun hh ho hp => ?_, fun hh hp hc => ?_, fun hb => ?_, fun hh h1 h2 => ⟨fun foreign => ?_, fun own => ?_⟩⟩
  case refine_1 =>
    refine ⟨_, exec_objReset_object hh ho hp, told_okRel, ?_, fun w hw => ?_, ?_, fun k hk => ?_⟩
    · exact answerAll_objects_only s _ _ _
    · exact told_of (poisonRel_mem_poisonWaiters hw) rfl
    · rw [answerAll_objects]
      exact tget_tput _ _ _
    · rw [answerAll_objects]
      exact tget_tput_ne hk _ _
  case refine_2 =>
    refine ⟨_, exec_objReset_flag hh hp hc, told_okRel, ?_, fun w hw => ?_, ?_, fun q g hne => ?_⟩
    · exact answerAll_cores_only s _ _ _
    · exact told_of (poisonRel_mem_poisonWaiters (o := flagObj s c.part f (flagOf s p f)) hw) rfl
    · rw [flagOf_answerAll, flagOf_putFlag]
      rfl
    · rw [flagOf_answerAll, flagOf_putFlag_ne hne]
  case refine_3 => exact ⟨_, exec_objFree_badRange hb, finish_only _ _ _, replied_finish _ rfl rfl⟩
  case refine_4 =>
    obtain ⟨k, hexec, hk⟩ := objFree_foreign hh h1 h2 foreign
    exact ⟨_, k, hexec, replied_finish _ rfl rfl, hk, rfl, rfl⟩
  case refine_5 =>
    refine ⟨_, objFree_own hh h1 h2 own, told_okRel, ?_, fun k hik hki => ?_, fun k o' hik hki ho w hw => ?_, fun k hk => ?_⟩
    · exact answerAll_objects_only s _ _ _
    · rw [answerAll_objects, tget_dropRange, if_pos (mem_freeRange.mpr ⟨hik, hki⟩)]
    · exact told_of (poisonRel_mem_rangeRels (mem_freeRange.mpr ⟨hik, hki⟩) ho hw) rfl
    · have outside : k ∉ freeRange i count := by rw [mem_freeRange]; omega
      rw [answerAll_objects, tget_dropRange, if_neg outside]

end Sys2Proof.Machine
end

section
/-! PROOF of O60: a drop at a fence counts the packet and, where none was dropped there for a millisecond, writes the entry (R370). -/

namespace Sys2Proof.Machine

/-- The place whose drops a packet's drop joins (R370): the sender's block, or 96 and its region for a unit that is no core. -/
def dropPlace (p : Pkt) : Nat := if p.srcUnit < 0x400 then blockOfCore p.srcUnit else 96 + unitRegion p.srcUnit

/-- No packet was dropped at this place within the last millisecond (R370). -/
def firstDrop (p : Pkt) (s : State) : Prop :=
  ∀ x, tget (dropPlace p) s.units.darkLast = some x → x.toNat + 1000000 ≤ s.time.now.toNat

/-- The drop counted for its block or region (R370). -/
def countDrop (p : Pkt) (s : State) : State :=
  modUnits (fun u => { u with
    darkBlock := if p.srcUnit < 0x400 then tmod (blockOfCore p.srcUnit) 0 (· + 1) u.darkBlock else u.darkBlock
    darkRegion := if p.srcUnit < 0x400 then u.darkRegion else tmod (unitRegion p.srcUnit) 0 (· + 1) u.darkRegion }) s

/-- The moment kept as the place's last written drop (R370). -/
def stampDrop (p : Pkt) (s : State) : State :=
  modUnits (fun u => { u with darkLast := tput (dropPlace p) s.time.now u.darkLast }) s

/-- What the entry of a first drop says of the packet (R370). -/
def dropEntry (p : Pkt) (e : LogEntry) : LogEntry :=
  { e with source := p.srcUnit, inc := p.srcInc, arg := BitVec.ofNat 64 (typeCode p.type * 2 ^ 48 + targetAddr p) }

section

variable {p : Pkt} {s : State}

theorem tget_stampDrop : tget (dropPlace p) (stampDrop p s).units.darkLast = some s.time.now := by simp [stampDrop]

theorem darkDrop_of_first (first : firstDrop p s) : darkDrop p s = note 0x0204 (dropEntry p) (stampDrop p (countDrop p s)) := by
  unfold firstDrop dropPlace at first
  unfold darkDrop dropEntry stampDrop countDrop dropPlace
  by_cases core : p.srcUnit < 0x400 <;> simp only [core, if_true, if_false] at first ⊢
  all_goals
    split
    · next last hlast => simp [first last hlast, modUnits]
    · simp [modUnits]

theorem darkDrop_of_repeat (later : ¬ firstDrop p s) : darkDrop p s = countDrop p s := by
  unfold firstDrop dropPlace at later
  push Not at later
  obtain ⟨last, hlast, recent⟩ := later
  unfold darkDrop countDrop
  by_cases core : p.srcUnit < 0x400 <;> simp only [core, if_true, if_false] at hlast ⊢
  all_goals simp [hlast, Nat.not_le.mpr recent]

theorem exec_darkTraffic (h : fenced s p = true) : exec (.darkTraffic p) s = .next (darkDrop p s) := by
  change execDarkTraffic p s = _
  rw [execDarkTraffic, if_pos h]

/-- Logging the drop and keeping its moment touch neither count: the counts of a drop are those of `countDrop`. -/
theorem darkDrop_counts : (darkDrop p s).units.darkBlock = (countDrop p s).units.darkBlock ∧
    (darkDrop p s).units.darkRegion = (countDrop p s).units.darkRegion := by
  by_cases first : firstDrop p s
  · rw [darkDrop_of_first first]
    exact ⟨rfl, rfl⟩
  · rw [darkDrop_of_repeat first]
    exact ⟨rfl, rfl⟩

/-- A drop has no effect but on the counts, the moment kept and the log (R370). -/
theorem darkDrop_only :
    darkDrop p s = { s with units := (darkDrop p s).units, log := (darkDrop p s).log, pkg := (darkDrop p s).pkg } ∧
      (darkDrop p s).units = { s.units with
        darkBlock := (darkDrop p s).units.darkBlock, darkRegion := (darkDrop p s).units.darkRegion
        darkLast := (darkDrop p s).units.darkLast } := by
  by_cases first : firstDrop p s
  · rw [darkDrop_of_first first]
    exact ⟨rfl, rfl⟩
  · rw [darkDrop_of_repeat first]
    exact ⟨rfl, rfl⟩

theorem countDrop_of_core (core : p.srcUnit < 0x400) : (countDrop p s).units.darkRegion = s.units.darkRegion ∧
    tgetD (blockOfCore p.srcUnit) 0 (countDrop p s).units.darkBlock = tgetD (blockOfCore p.srcUnit) 0 s.units.darkBlock + 1 := by
  simp [countDrop, core]

theorem countDrop_of_not_core (other : ¬ p.srcUnit < 0x400) : (countDrop p s).units.darkBlock = s.units.darkBlock ∧
    tgetD (unitRegion p.srcUnit) 0 (countDrop p s).units.darkRegion = tgetD (unitRegion p.srcUnit) 0 s.units.darkRegion + 1 := by
  simp [countDrop, other]

end

/-- Settles O60: the drop is counted whether or not it is the first of its millisecond, and the first one writes the entry. -/
theorem darkTrafficDropped : Obligations.DarkTrafficDropped := by
  unfold Obligations.DarkTrafficDropped
  intro p s hf core place first
  have place_eq : place = dropPlace p := by simp [place, core, dropPlace]
  have first_iff : first ↔ firstDrop p s := by simp only [first, place_eq, firstDrop]
  obtain ⟨sameBlocks, sameRegions⟩ := darkDrop_counts (p := p) (s := s)
  obtain ⟨only, onlyUnits⟩ := darkDrop_only (p := p) (s := s)
  refine ⟨_, exec_darkTraffic hf, only, onlyUnits, fun hcore => ?_, fun hother => ?_, fun hfirst => ?_, fun hlater => ?_⟩
  case refine_1 =>
    rw [sameBlocks, sameRegions]
    exact countDrop_of_core (of_decide_eq_true hcore)
  case refine_2 =>
    rw [sameBlocks, sameRegions]
    exact countDrop_of_not_core (of_decide_eq_false hother)
  case refine_3 =>
    rw [darkDrop_of_first (first_iff.mp hfirst)]
    exact ⟨⟨_, rfl, rfl, rfl, rfl, rfl, rfl⟩, place_eq ▸ tget_stampDrop⟩
  case refine_4 =>
    rw [darkDrop_of_repeat (mt first_iff.mpr hlater)]
    exact ⟨rfl, rfl⟩

end Sys2Proof.Machine
end

section
/-! SUPPORT. What retiring a unit must not lose: which units are retired, which incarnations are fenced, and the flash. Every operation
that takes a unit's work, answers, locks, queues and barriers away keeps these three; only the fence and the flash record change them. -/

namespace Sys2Proof.Machine

/-- Which units are out of service, which incarnations are fenced, and what the flash holds (R368, R369, R374). -/
structure Service where
  retired : List Nat
  fences : List (Nat × Nat)
  flash : Flash

def serviceOf (s : State) : Service := ⟨s.units.retired, s.units.fences, s.flash⟩

@[simp] theorem serviceOf_foldl {α : Type} {f : State → α → State} (keeps : ∀ t x, serviceOf (f t x) = serviceOf t) (l : List α) (s : State) :
    serviceOf (l.foldl f s) = serviceOf s := by
  induction l generalizing s with
  | nil => rfl
  | cons x l ih => exact (ih (f s x)).trans (keeps s x)

variable (s : State)

/-! The State's groups, answers and the log -/

@[simp] theorem serviceOf_modCore (p : Nat) (f : Core → Core) : serviceOf (modCore p f s) = serviceOf s := rfl
@[simp] theorem serviceOf_modChannel (r c : Nat) (f : Channel → Channel) : serviceOf (modChannel r c f s) = serviceOf s := rfl
@[simp] theorem serviceOf_modPart (n : Nat) (f : Partition → Partition) : serviceOf (modPart n f s) = serviceOf s := rfl
@[simp] theorem serviceOf_modQueue (r q : Nat) (f : Queue → Queue) : serviceOf (modQueue r q f s) = serviceOf s := rfl
@[simp] theorem serviceOf_modEp (r q ep : Nat) (f : Endpoint → Endpoint) : serviceOf (modEp r q ep f s) = serviceOf s := rfl
@[simp] theorem serviceOf_modEngine (r : Nat) (f : QueueEngine → QueueEngine) : serviceOf (modEngine r f s) = serviceOf s := rfl
@[simp] theorem serviceOf_closeEp (r k ep : Nat) : serviceOf (closeEp r k ep s) = serviceOf s := rfl
@[simp] theorem serviceOf_modStats (r k : Nat) (f : QueueStats → QueueStats) : serviceOf (modStats r k f s) = serviceOf s := rfl
@[simp] theorem serviceOf_modSeq (i : Nat) (f : Seq → Seq) : serviceOf (modSeq i f s) = serviceOf s := rfl
@[simp] theorem serviceOf_send (p : Pkt) : serviceOf (send p s) = serviceOf s := rfl
@[simp] theorem serviceOf_finish (c : Cmd) (a : Answer) : serviceOf (finish c a s) = serviceOf s := rfl
@[simp] theorem serviceOf_note (ev : Nat) (f : LogEntry → LogEntry) : serviceOf (note ev f s) = serviceOf s := rfl

@[simp] theorem serviceOf_sends {α : Type} (p : State → α → Pkt) (l : List α) :
    serviceOf (l.foldl (fun t x => send (p t x) t) s) = serviceOf s := serviceOf_foldl (fun t x => serviceOf_send t (p t x)) l s

@[simp] theorem serviceOf_fogWarning (bit unit : Nat) : serviceOf (fogWarning bit unit s) = serviceOf s := by
  unfold fogWarning
  split <;> rfl

@[simp] theorem serviceOf_answer (h : BitVec 32) (r : Rel) : serviceOf (answer h r s) = serviceOf s := by
  rw [answer_only]
  rfl

@[simp] theorem serviceOf_answerAll (h : BitVec 32) (rs : List Rel) : serviceOf (answerAll h rs s) = serviceOf s := by
  rw [answerAll_only]
  rfl

@[simp] theorem serviceOf_markWaiting (who : Issuer) : serviceOf (markWaiting who s) = serviceOf s := by
  unfold markWaiting
  split
  · split <;> rfl
  · rfl

/-! Signals of the module's own units -/

@[simp] theorem serviceOf_logTenant (who : Issuer) (part : Nat) (h : BitVec 32) : serviceOf (logTenant who part h s) = serviceOf s := rfl
@[simp] theorem serviceOf_putObj (i : Nat) (o : SyncObj) : serviceOf (putObj i o s) = serviceOf s := rfl

@[simp] theorem serviceOf_onObject (who : Issuer) (h : BitVec 32) (i : Nat) (f : SyncObj → Applied) :
    serviceOf (onObject who h i f s) = serviceOf s := by
  unfold onObject
  split
  · simp
  · split
    · simp
    · dsimp only
      split
      · split <;> simp
      · simp

@[simp] theorem serviceOf_onFlag (who : Issuer) (h : BitVec 32) (n flag : Nat) (f : SyncObj → Applied) :
    serviceOf (onFlag who h n flag f s) = serviceOf s := by
  unfold onFlag
  split
  · simp
  · split
    · simp
    · dsimp only
      split
      · split <;> simp
      · simp

@[simp] theorem serviceOf_signalHostWord (who : Issuer) (h : BitVec 32) (entry : Nat) (v : Word) :
    serviceOf (signalHostWord who h entry v s) = serviceOf s := by
  unfold signalHostWord
  split
  · simp
  · dsimp only
    rw [serviceOf_answer]
    split <;> rfl

@[simp] theorem serviceOf_signalLocal (who : Issuer) (h : BitVec 32) (blocking : Bool) (v : Word) :
    serviceOf (signalLocal who h blocking v s) = serviceOf s := by
  unfold signalLocal
  split <;> simp

@[simp] theorem serviceOf_raiseSignal (part unit : Nat) (h : BitVec 32) (v : Word) : serviceOf (raiseSignal part unit h v s) = serviceOf s := by
  unfold raiseSignal
  dsimp only
  split <;> exact serviceOf_signalLocal s _ h false v

@[simp] theorem serviceOf_raiseAny (part unit : Nat) (h : BitVec 32) (module : Nat) (v : Word) :
    serviceOf (raiseAny part unit h module v s) = serviceOf s := by
  unfold raiseAny
  split
  · simp
  · split <;> simp

/-! Owner sweeps (R181) and the work of a core (R161, R185, R358, R359) -/

theorem serviceOf_sweepRegion (region : Nat) (owner : UnitId) : serviceOf (sweepRegion region owner s) = serviceOf s :=
  serviceOf_answerAll _ _ _

@[simp] theorem serviceOf_sweepOwner (owner : UnitId) : serviceOf (sweepOwner owner s) = serviceOf s := by
  unfold sweepOwner
  exact (serviceOf_sends _ _ _).trans (serviceOf_foldl (fun t r => serviceOf_sweepRegion t r owner) _ _)

@[simp] theorem serviceOf_endJob (j : Nat) (a : Answer) : serviceOf (endJob j a s) = serviceOf s := by
  unfold endJob
  split <;> rfl

@[simp] theorem serviceOf_endBrush (core : Nat) (a : Answer) : serviceOf (endBrush core a s) = serviceOf s := by
  unfold endBrush
  split
  · exact serviceOf_endJob s _ a
  · rfl

@[simp] theorem serviceOf_answerProbes (u : UnitId) (part destination : Nat) : serviceOf (answerProbes u part destination s) = serviceOf s := by
  unfold answerProbes
  dsimp only
  split <;> rfl

@[simp] theorem serviceOf_answerAfter (p : Pkt) : serviceOf (answerAfter p s) = serviceOf s :=
  serviceOf_foldl (fun t d => serviceOf_answerProbes t _ p.part d) _ s

@[simp] theorem serviceOf_refuseAccWaits (core : Nat) : serviceOf (refuseAccWaits core s) = serviceOf s := by
  simp [refuseAccWaits]

@[simp] theorem serviceOf_advanceEpoch (part : Nat) : serviceOf (advanceEpoch part s) = serviceOf s := rfl

@[simp] theorem serviceOf_reissueJob (j : Nat) (moved : List Nat) (m : MatJob) : serviceOf (reissueJob j moved m s) = serviceOf s := by
  unfold reissueJob
  refine (serviceOf_foldl (fun t e => ?_) _ _).trans rfl
  split <;> rfl

@[simp] theorem serviceOf_reissuePart (part : Nat) (moved : List Nat) : serviceOf (reissuePart part moved s) = serviceOf s := by
  refine serviceOf_foldl (fun t e => ?_) _ s
  split <;> simp

@[simp] theorem serviceOf_moveVacant (part n : Nat) : serviceOf (moveVacant part n s) = serviceOf s := by
  refine serviceOf_foldl (fun t e => ?_) _ s
  split
  · rfl
  · split
    · exact serviceOf_endJob t e.1 _
    · rfl

@[simp] theorem serviceOf_bringIn (core q n : Nat) : serviceOf (bringIn core q n s) = serviceOf s := rfl

@[simp] theorem serviceOf_checkReserves (region : Nat) : serviceOf (checkReserves region s) = serviceOf s := by
  unfold checkReserves
  split
  · exact serviceOf_fogWarning s 1 _
  · rfl

/-! Queues (R219) and barriers (R196) -/

@[simp] theorem serviceOf_changeOcc (r k : Nat) (f : Nat → Nat) : serviceOf (changeOcc r k f s) = serviceOf s := by
  unfold changeOcc
  split
  · rfl
  · dsimp only
    split <;> simp

@[simp] theorem serviceOf_releaseSlots (r k : Nat) (ks : List Nat) : serviceOf (releaseSlots r k ks s) = serviceOf s := by
  unfold releaseSlots
  dsimp only
  rw [serviceOf_changeOcc, serviceOf_modEngine, serviceOf_foldl fun t x => serviceOf_modEp t r k _ _]

@[simp] theorem serviceOf_discardOpenPacket (r k ep : Nat) : serviceOf (discardOpenPacket r k ep s) = serviceOf s := by
  unfold discardOpenPacket
  split
  · rfl
  · simp

theorem serviceOf_discardStale (r k : Nat) (stale : Endpoint × Nat → Bool) (l : List (Endpoint × Nat)) (f : QueueStats → QueueStats) :
    serviceOf (l.foldl (fun t e => if stale e then modStats r k f (discardOpenPacket r k e.2 t) else t) s) = serviceOf s :=
  serviceOf_foldl (fun t e => by split <;> simp) l s

@[simp] theorem serviceOf_rebindQueue (old : Nat) (new : Option Nat) (r k : Nat) : serviceOf (rebindQueue old new r k s) = serviceOf s := by
  unfold rebindQueue
  split
  · rfl
  · cases new with
    | none => exact serviceOf_discardStale s r k _ _ _
    | some u => exact (serviceOf_modQueue _ r k _).trans (serviceOf_discardStale s r k _ _ _)

@[simp] theorem serviceOf_rebindUnit (old : Nat) (new : Option Nat) : serviceOf (rebindUnit old new s) = serviceOf s := by
  unfold rebindUnit
  cases new with
  | none => simp
  | some u =>
    dsimp only
    exact serviceOf_foldl (f := fun t (k : Nat × Nat) => rebindQueue old (some u) k.1 k.2 t) (fun _ _ => serviceOf_rebindQueue _ _ _ _ _) _ s

@[simp] theorem serviceOf_departBarriers (block slot : Nat) (joins : Bool) : serviceOf (departBarriers block slot joins s) = serviceOf s := by
  refine serviceOf_foldl (fun t k => ?_) _ s
  split
  · dsimp only
    split
    · rfl
    · split <;> rfl
  · rfl

end Sys2Proof.Machine
end

section
/-! SUPPORT. The end of a channel's transfer keeps the service record too, and so retiring a unit changes it by the fence and the flash
record alone (R161, R368, R372, R374). -/

namespace Sys2Proof.Machine

variable (s : State)

/-! The end of a transfer (R161) -/

theorem serviceOf_ite {p : Prop} [Decidable p] {a b : State} (ha : serviceOf a = serviceOf s) (hb : serviceOf b = serviceOf s) :
    serviceOf (if p then a else b) = serviceOf s := by
  split
  · exact ha
  · exact hb

/-- A reply to a command that may be gone. -/
theorem serviceOf_finishSome {t : State} (c : Option Cmd) (a : Answer) (h : serviceOf t = serviceOf s) :
    serviceOf (match c with | some c => finish c a t | none => t) = serviceOf s := by
  cases c <;> exact h

@[simp] theorem serviceOf_startTransfer (r c : Nat) (t : Transfer) : serviceOf (startTransfer r c t s) = serviceOf s :=
  (serviceOf_sends _ (fun _ p => p) _).trans rfl

@[simp] theorem serviceOf_startBuddy (c : Option Cmd) (part addr : Nat) (bs : List Byte) (head : Option (Nat × List Byte)) :
    serviceOf (startBuddy c part addr bs head s) = serviceOf s := by
  unfold startBuddy
  split
  · cases c <;> rfl
  · exact serviceOf_startTransfer s 0 _ _

theorem serviceOf_dropRef (p : PageRef) : serviceOf (dropRef p s) = serviceOf s := rfl

@[simp] theorem serviceOf_dropPrivate (q : Seq) : serviceOf (dropPrivate q s) = serviceOf s :=
  serviceOf_foldl (fun t p => serviceOf_dropRef t p) _ s

@[simp] theorem serviceOf_endSegment (c : Cmd) (failed : Option (Status × Nat)) : serviceOf (endSegment c failed s) = serviceOf s := by
  unfold endSegment
  split
  · rfl
  · dsimp only
    split <;> rfl

@[simp] theorem serviceOf_endWaits (part : Nat) : serviceOf (endWaits part s) = serviceOf s := by
  unfold endWaits
  dsimp only
  split <;> rfl

@[simp] theorem serviceOf_settleDrain (part : Nat) : serviceOf (settleDrain part s) = serviceOf s := by
  unfold settleDrain
  dsimp only
  split
  · rfl
  · exact serviceOf_ite s rfl rfl

@[simp] theorem serviceOf_stopStep (part : Nat) (st : Status) (detail : Nat) : serviceOf (stopStep part st detail s) = serviceOf s := by
  unfold stopStep endStep
  split
  · rfl
  · split
    · rfl
    · rw [serviceOf_settleDrain, serviceOf_finish, serviceOf_endWaits]
      rfl

@[simp] theorem serviceOf_offloadDone (part mb layer : Nat) : serviceOf (offloadDone part mb layer s) = serviceOf s := rfl
@[simp] theorem serviceOf_bringDone (part mb layer : Nat) : serviceOf (bringDone part mb layer s) = serviceOf s := rfl

@[simp] theorem serviceOf_endPurpose (t : Transfer) (a : Answer) : serviceOf (endPurpose t a s) = serviceOf s := by
  unfold endPurpose
  dsimp only
  split
  case h_1 c part head _ =>
    split
    · exact serviceOf_ite s (serviceOf_finishSome s c _ rfl) (serviceOf_startBuddy s c part _ _ none)
    · exact serviceOf_finishSome s c _ rfl
  case h_2 => rfl
  case h_3 c counter home n _ =>
    rw [serviceOf_endSegment]
    split <;> simp
  case h_4 part mb layer _ => split <;> simp
  case h_5 part mb layer _ => split <;> simp
  case h_6 c i _ =>
    split
    · exact serviceOf_finishSome s c _ rfl
    · exact serviceOf_ite s (serviceOf_finishSome s c _ rfl) (serviceOf_finishSome s c _ (by simp))
  case h_7 c i _ =>
    split
    · exact serviceOf_finishSome s c _ rfl
    · exact serviceOf_ite s (serviceOf_finishSome s c _ rfl) (serviceOf_finishSome s c _ rfl)

@[simp] theorem serviceOf_settleTransfer (r c : Nat) : serviceOf (settleTransfer r c s) = serviceOf s := by
  unfold settleTransfer
  split
  · rfl
  · dsimp only
    split
    · rw [serviceOf_endPurpose]
      split <;> rfl
    · split <;> rfl

@[simp] theorem serviceOf_setLogical (f : Units → Tbl Nat) :
    serviceOf (modUnits (fun u => { u with logical := f u }) s) = serviceOf s := rfl

@[simp] theorem serviceOf_modRunning (r c : Nat) (f : Transfer → Transfer) : serviceOf (modRunning r c f s) = serviceOf s := rfl

/-! Retirement: the fence and the flash record -/

/-- A unit's retirement in the service record: its present incarnation fenced, the unit out of service, the flash told (R368). -/
def retirement (u : Nat) (s : State) : Service := serviceOf (recordRetired u (fenceUnit u s))

variable {s}

theorem serviceOf_recordRetired {u : Nat} {t : State} (h : serviceOf t = serviceOf (fenceUnit u s)) :
    serviceOf (recordRetired u t) = retirement u s := by
  simp only [serviceOf, Service.mk.injEq] at h
  obtain ⟨hretired, hfences, hflash⟩ := h
  simp [retirement, serviceOf, recordRetired, hretired, hfences, hflash]

theorem serviceOf_retireCore {core : Nat} (path : Nat) (inService : core ∉ s.units.retired) :
    serviceOf (retireCore path core s) = retirement core s := by
  unfold retireCore
  rw [if_neg (by simpa using inService)]
  dsimp only
  cases logicalOf s core with
  | none => simp [serviceOf_recordRetired (s := s)]
  | some n =>
    cases pickReserve s core with
    | none => cases partOfCore s core <;> simp [serviceOf_recordRetired (s := s)]
    | some q => cases partOfCore s core <;> simp [serviceOf_recordRetired (s := s)]

theorem serviceOf_dropKeeper (u : Nat) : serviceOf (dropKeeper u s) = retirement u s :=
  (serviceOf_fogWarning _ 8 u).trans (serviceOf_sweepOwner _ _)

theorem serviceOf_takeOver (r : Nat) : serviceOf (takeOver r s) = retirement (activeKeeper s r) s :=
  (serviceOf_rebindUnit (dropKeeper (activeKeeper s r) s) _ _).trans (serviceOf_dropKeeper _)

theorem serviceOf_retireChannel {r c : Nat} (inService : channelUnit r c ∉ s.units.retired) :
    serviceOf (retireChannel r c s) = retirement (channelUnit r c) s := by
  unfold retireChannel
  rw [if_neg (by simpa using inService)]
  dsimp only
  rw [serviceOf_settleTransfer, serviceOf_modRunning, serviceOf_foldl fun t x => serviceOf_endPurpose t x _, serviceOf_modChannel, serviceOf_sweepOwner]
  rfl

theorem channelUnit_channelOfUnit {u : Nat} (h : isChannel u = true) : channelUnit (channelOfUnit u).1 (channelOfUnit u).2 = u := by
  simp only [isChannel, Bool.and_eq_true, decide_eq_true_eq] at h
  simp only [channelUnit, channelOfUnit]
  omega

/-- Whatever kind of unit UNIT_RETIRE names, its retirement is a fence and a flash record (R368, R372, R374). -/
theorem serviceOf_retireUnit {u : Nat} (may : retirable u = true) (inService : u ∉ s.units.retired) :
    serviceOf (retireUnit u s) = retirement u s := by
  unfold retireUnit
  split
  · exact serviceOf_retireCore 4 inService
  · next notCore =>
    split
    · split
      · next active =>
        simp only [isActiveKeeper, Bool.and_eq_true, beq_iff_eq] at active
        rw [serviceOf_takeOver, active.2]
      · exact serviceOf_dropKeeper u
    · next notKeeper =>
      have channel : channelUnit (channelOfUnit u).1 (channelOfUnit u).2 = u :=
        channelUnit_channelOfUnit (by simpa [retirable, notCore, notKeeper] using may)
      rw [serviceOf_retireChannel (by rwa [channel]), channel]

/-! What a state says whose service record is that of a unit's retirement -/

section

variable {u : Nat} {t : State} (record : serviceOf t = retirement u s)

include record

theorem mem_retired_of_record : u ∈ t.units.retired := by
  change u ∈ (serviceOf t).retired
  rw [record]
  by_cases h : u ∈ s.units.retired <;> simp [retirement, serviceOf, recordRetired, fenceUnit, h]

theorem retired_subset_of_record : s.units.retired ⊆ t.units.retired := by
  change _ ⊆ (serviceOf t).retired
  rw [record]
  by_cases h : u ∈ s.units.retired <;> simp [retirement, serviceOf, recordRetired, fenceUnit, h]

theorem mem_flash_of_record : u ∈ t.flash.retiredUnits := by
  change u ∈ (serviceOf t).flash.retiredUnits
  rw [record]
  by_cases h : u ∈ s.flash.retiredUnits <;> simp [retirement, serviceOf, recordRetired, fenceUnit, h]

theorem mem_fences_of_record : (u, incOf s u) ∈ t.units.fences := by
  change _ ∈ (serviceOf t).fences
  rw [record]
  simp [retirement, serviceOf, recordRetired, fenceUnit]

end

end Sys2Proof.Machine
end

section
/-! PROOF of O57: UNIT_RETIRE, UNIT_REQUALIFY and the end of a self-test, case by case (R371, R372). -/

namespace Sys2Proof.Machine

variable {c : Cmd} {unit : Nat} {s : State}

/-! UNIT_RETIRE -/

theorem exec_unitRetire_notRetirable (h : retirable unit = false) : exec (.unitRetire c unit) s = .next (finish c (ans .badLength 0xB) s) := by
  change execUnitRetire c unit s = _
  simp [execUnitRetire, h, done]

theorem exec_unitRetire_retired (may : retirable unit = true) (out : unit ∈ s.units.retired) :
    exec (.unitRetire c unit) s = .next (finish c (ans .ok) s) := by
  change execUnitRetire c unit s = _
  simp [execUnitRetire, may, out, done]

theorem exec_unitRetire_alone (may : retirable unit = true) (inService : unit ∉ s.units.retired)
    (alone : isActiveKeeper s unit = true ∧ standbyOk s ((unit - 0x400) / 2) = false) :
    exec (.unitRetire c unit) s = .next (finish c (ans .locked) s) := by
  change execUnitRetire c unit s = _
  simp [execUnitRetire, may, inService, alone, done]

theorem exec_unitRetire (may : retirable unit = true) (inService : unit ∉ s.units.retired)
    (spared : ¬ (isActiveKeeper s unit = true ∧ standbyOk s ((unit - 0x400) / 2) = false)) :
    exec (.unitRetire c unit) s = .next (finish c (ans .ok) (retireUnit unit s)) := by
  change execUnitRetire c unit s = _
  simp [execUnitRetire, may, inService, spared, done]

/-! UNIT_REQUALIFY -/

theorem exec_unitRequalify_notRetirable (h : retirable unit = false) :
    exec (.unitRequalify c unit) s = .next (finish c (ans .badLength 0xB) s) := by
  change execUnitRequalify c unit s = _
  simp [execUnitRequalify, h, done]

theorem exec_unitRequalify_inService (may : retirable unit = true) (inService : unit ∉ s.units.retired) :
    exec (.unitRequalify c unit) s = .next (finish c (ans .ok) s) := by
  change execUnitRequalify c unit s = _
  simp [execUnitRequalify, may, inService, done]

theorem exec_unitRequalify_lastIncarnation (may : retirable unit = true) (out : unit ∈ s.units.retired)
    (last : 255 ≤ tgetD unit 0 s.units.inc) : exec (.unitRequalify c unit) s = .next (finish c (ans .quota) s) := by
  change execUnitRequalify c unit s = _
  simp [execUnitRequalify, may, out, last, done]

/-- The self-test starts, and nothing else changes. -/
theorem exec_unitRequalify_start (may : retirable unit = true) (out : unit ∈ s.units.retired)
    (room : tgetD unit 0 s.units.inc < 255) (idle : ∀ x, x ∈ s.units.selfTest → x.1 ≠ unit) :
    exec (.unitRequalify c unit) s = .next (modUnits (fun u => { u with selfTest := u.selfTest ++ [(unit, c)] }) s) := by
  change execUnitRequalify c unit s = _
  have quiet : (s.units.selfTest.any fun t => t.1 == unit) = false := by simpa using idle
  simp [execUnitRequalify, may, out, Nat.not_le.mpr room, quiet]

/-! The end of a self-test -/

/-- A unit's self-test is over. -/
def endSelfTest (unit : Nat) (s : State) : State :=
  modUnits (fun u => { u with selfTest := u.selfTest.filter fun x => x.1 != unit }) s

theorem endSelfTest_selfTest : ∀ x, x ∈ (endSelfTest unit s).units.selfTest → x.1 ≠ unit := by
  intro x hx
  simpa using (List.mem_filter.mp hx).2

theorem exec_requalifyDone_idle (pass : Bool) (idle : ∀ x, x ∈ s.units.selfTest → x.1 ≠ unit) :
    exec (.requalifyDone unit pass) s = .next s := by
  change execRequalifyDone unit pass s = _
  have none_running : s.units.selfTest.find? (fun t => t.1 == unit) = none := by simpa using idle
  rw [execRequalifyDone, none_running]

theorem exec_requalifyDone_pass {test : Nat × Cmd} (running : s.units.selfTest.find? (fun t => t.1 == unit) = some test) :
    exec (.requalifyDone unit true) s = .next (finish test.2 (ans .ok) (rejoin unit (endSelfTest unit s))) := by
  change execRequalifyDone unit true s = _
  rw [execRequalifyDone, running]
  rfl

theorem exec_requalifyDone_fail {test : Nat × Cmd} (running : s.units.selfTest.find? (fun t => t.1 == unit) = some test) :
    exec (.requalifyDone unit false) s = .next (finish test.2 (ans .hwFault) (endSelfTest unit s)) := by
  change execRequalifyDone unit false s = _
  rw [execRequalifyDone, running]
  rfl

/-! Rejoining -/

theorem rejoin_units (u : Nat) :
    (rejoin u s).units = { s.units with retired := s.units.retired.filter (· != u), inc := tmod u 0 (· + 1) s.units.inc } := by
  unfold rejoin
  split
  · rfl
  · split <;> rfl

theorem rejoin_flash (u : Nat) : (rejoin u s).flash = { s.flash with retiredUnits := s.flash.retiredUnits.filter (· != u) } := by
  unfold rejoin
  split
  · rfl
  · split <;> rfl

/-- A unit that rejoins changes its own kind's records, the units and the flash. -/
theorem rejoin_only (u : Nat) : rejoin u s = { s with
    units := (rejoin u s).units, flash := (rejoin u s).flash, cores := (rejoin u s).cores, channels := (rejoin u s).channels
    keepers := { s.keepers with out := (rejoin u s).keepers.out } } := by
  unfold rejoin
  split
  · rfl
  · split <;> rfl

theorem rejoin_rings (u : Nat) : (rejoin u s).rings = s.rings := by rw [rejoin_only]
theorem rejoin_time (u : Nat) : (rejoin u s).time = s.time := by rw [rejoin_only]
theorem rejoin_mem (u : Nat) : (rejoin u s).mem = s.mem := by rw [rejoin_only]
theorem rejoin_parts (u : Nat) : (rejoin u s).parts = s.parts := by rw [rejoin_only]
theorem rejoin_activeK (u : Nat) : (rejoin u s).keepers.activeK = s.keepers.activeK := by rw [rejoin_only]
theorem rejoin_logical (u : Nat) : (rejoin u s).units.logical = s.units.logical := by rw [rejoin_units]
theorem rejoin_selfTest (u : Nat) : (rejoin u s).units.selfTest = s.units.selfTest := by rw [rejoin_units]

/-- A keeper that rejoins is back in service: the standby, as the active one stays (R371). -/
theorem not_mem_keepers_out_rejoin {u : Nat} (keeper : isKeeper u = true) : u - 0x400 ∉ (rejoin u s).keepers.out := by
  have notCore : ¬ u < 864 := by
    simp only [isKeeper, Bool.and_eq_true, decide_eq_true_eq] at keeper
    omega
  simp [rejoin, notCore, keeper]

theorem not_mem_retired_rejoin (u : Nat) : u ∉ (rejoin u s).units.retired := by simp [rejoin_units]

theorem not_mem_flash_rejoin (u : Nat) : u ∉ (rejoin u s).flash.retiredUnits := by simp [rejoin_flash]

theorem inc_rejoin (u : Nat) : tgetD u 0 (rejoin u s).units.inc = tgetD u 0 s.units.inc + 1 := by simp [rejoin_units]

theorem reply_mem_finish (a : Answer) : ∃ y, y ∈ (ringOf (finish c a s) c.fn c.ring).replies ∧ y.cmd = c ∧ y.answer = a := by
  rw [ringOf_finish]
  exact ⟨_, List.mem_append_right _ (List.mem_singleton_self _), rfl, rfl⟩

/-- Settles O57: each command is one of the cases above, and a retirement's effect is read off the service record. -/
theorem unitsRetireAndRequalify : Obligations.UnitsRetireAndRequalify := by
  unfold Obligations.UnitsRetireAndRequalify
  intro c unit test s said alone
  refine ⟨?_, fun may => ⟨fun inService spared => ?_, fun inService lone => ?_, fun out => ?_, fun inService => ?_,
    fun out last => ?_, fun out room idle => ?_⟩, fun running => ⟨?_, ?_⟩, fun idle pass => exec_requalifyDone_idle pass idle⟩
  case refine_1 =>
    rintro i (rfl | rfl) bad
    · exact ⟨_, exec_unitRetire_notRetirable bad, finish_only _ _ _, replied_finish _ rfl rfl⟩
    · exact ⟨_, exec_unitRequalify_notRetirable bad, finish_only _ _ _, replied_finish _ rfl rfl⟩
  case refine_2 =>
    have record : serviceOf (finish c (ans .ok) (retireUnit unit s)) = retirement unit s := serviceOf_retireUnit may inService
    exact ⟨_, exec_unitRetire may inService spared, reply_mem_finish (ans .ok), mem_retired_of_record record, mem_flash_of_record record,
      mem_fences_of_record record, fun _ hu => retired_subset_of_record record hu⟩
  case refine_3 => exact ⟨_, exec_unitRetire_alone may inService lone, finish_only _ _ _, replied_finish _ rfl rfl⟩
  case refine_4 => exact ⟨_, exec_unitRetire_retired may out, finish_only _ _ _, replied_finish _ rfl rfl⟩
  case refine_5 => exact ⟨_, exec_unitRequalify_inService may inService, finish_only _ _ _, replied_finish _ rfl rfl⟩
  case refine_6 => exact ⟨_, exec_unitRequalify_lastIncarnation may out last, finish_only _ _ _, replied_finish _ rfl rfl⟩
  case refine_7 => exact ⟨_, exec_unitRequalify_start may out room idle, rfl⟩
  case refine_8 =>
    have others : ∀ x, x ∈ (rejoin unit (endSelfTest unit s)).units.selfTest → x.1 ≠ unit := by
      rw [rejoin_selfTest]
      exact endSelfTest_selfTest
    exact ⟨_, exec_requalifyDone_pass running, replied_finish _ (rejoin_rings unit) (rejoin_time unit), not_mem_retired_rejoin unit,
      not_mem_flash_rejoin unit, inc_rejoin unit, others, rejoin_mem unit, rejoin_parts unit, rejoin_logical unit, rejoin_activeK unit,
      fun _ keeper => not_mem_keepers_out_rejoin keeper⟩
  case refine_9 =>
    exact ⟨_, exec_requalifyDone_fail running, replied_finish _ rfl rfl, rfl, rfl, endSelfTest_selfTest⟩

end Sys2Proof.Machine
end
